-- ==== Sys2Proof/Word.lean ====
section
/-! DEFINITION. The words, tile numbers and sparse maps of the model. -/

namespace Sys2Proof

/-- A byte of memory. -/
abbrev Byte := BitVec 8

/-- A 64-bit register, record word or memory word (R7, R108). -/
abbrev Word := BitVec 64

/-- A status code: class in bits 15..12 (R12, Table 0-5). -/
abbrev Status := BitVec 16

/-- A tile by its linear index, row * 20 + column (R15). -/
abbrev Tile := Fin 640

/-- The number of a `g` or `f` register (R67). -/
abbrev RegNo := Fin 32

/-- A context ID (R58). -/
abbrev CtxId := Fin 4096

/-- An engine number of Table 2-4. -/
abbrev EngineNo := Fin 9

/-- A light port number of Table 12-1. -/
abbrev PortNo := Fin 8

/-- Sparse data by a number: pairs in strictly rising key order. -/
abbrev FMap (β : Type) := List (Nat × β)

end Sys2Proof
end

