-- ==== Sys2Proof/Syntax.lean ====
section
/-! DEFINITION. The commands: one constructor of `Instr` for each row of the table of steps.
Each step is whole and indivisible. A Helm-core row carries the tile whose core executes the instruction in its
active home slot, and the fields of the encoding (Tables 4-1 to 4-6). An engine row carries the tile, the engine
(Table 2-4) and, where the engine holds several pieces, the place of the piece among them. A register row carries the
host access (`Wr`). A row of an event outside the package (light, host, sensors, links) carries what that event brings. -/

namespace Sys2Proof

/-- One host write to a register (R7, R53, R366): the function it comes through (0 PF0, 1 PF1, 2 to 256 virtual function
1 to 255), its size in bytes, its byte offset from the register's address, and the value written. -/
structure Wr where
  fn : Fin 257
  size : Nat
  sub : Nat
  v : Word
  deriving DecidableEq, Repr

/-- Precision and rounding fields of a floating-point function code (Table 4-3). -/
structure FpMode where
  prec : BitVec 2
  rnd : BitVec 3
  deriving DecidableEq, Repr

/-- The fields of a tensor instruction below and above its long opcode (Table 4-5). -/
structure TensorInsn where
  gd : RegNo
  gs : RegNo
  td : BitVec 4
  ta : BitVec 4
  tb : BitVec 4
  var : BitVec 3
  we : Bool
  wr : Bool
  wk : BitVec 8
  wv : BitVec 7
  se : Bool
  sr : Bool
  sk : BitVec 8
  sv : BitVec 5
  deriving DecidableEq, Repr

/-- What happens to the arithmetic of a piece while it runs: nothing; a checksum or a residue is found wrong (R34, R42, R476, R477,
R479); or one accumulator word of a matrix result, by row and column, comes out as another value, which the residues do not catch and
the checksums may (R477, R478). -/
inductive Upset where
  | none
  | checksum
  | residue
  | cell (row col : Nat) (v : BitVec 32)
  deriving DecidableEq, Repr

/-- What a memory access meets on its way, if anything: an error in the Helm core's cache, corrected, or uncorrectable in a
tag or in the data (R57); an error in the block of Near or Mid memory, corrected or uncorrectable (R297, R298); the far node's
error response (R296) or its refusal (R287, R359); no answer in time (R302); wrong parity in
the region table or the translation cache that it reads, or an error of the Helm core's own datapath (Table 18-7). -/
inductive Hazard where
  | none
  | cacheCorrected
  | cacheTag
  | cacheData
  | corrected
  | uncorrectable
  | farError
  | farDenied
  | timeout
  | parity
  | datapath
  deriving DecidableEq, Repr

/-- What the SECDED code of the flits of a message finds on the links between tiles of one die (R51). -/
inductive Flits where
  | clean
  | corrected
  | uncorrectable
  deriving DecidableEq, Repr

/-- A collective contribution as it arrives at a member (R131, R132). -/
structure Contribution where
  job : BitVec 20
  inst : BitVec 16
  pos : Nat
  data : List Byte
  deriving DecidableEq, Repr

/-- The fields of a partner's capability block (Table 12-4). -/
structure Capability where
  port : BitVec 8
  node : BitVec 12
  coordValid : Bool
  coord : BitVec 7
  only100 : Bool
  maxW : BitVec 2
  fec : BitVec 2
  kind : BitVec 2
  pairs : List (BitVec 8)
  deriving DecidableEq, Repr

/-- The receive counts of one end's link test (R317, R320): blocks in error, codewords corrected and not correctable. -/
structure TestCounts where
  errored : Nat
  corrected : Nat
  uncorr : Nat
  deriving DecidableEq, Repr

/-- A link-state block (R326). -/
structure LinkState where
  node : BitVec 12
  coord : BitVec 7
  port : Fin 6
  up : Bool
  epoch : BitVec 32
  deriving DecidableEq, Repr

/-- A data block that passes through this package: the node that it goes to, whose request it belongs to (node, tile, ID, job tag), and
the mark of R327 that it has detoured. Table 12-2 has no place for these (DESIGN CHOICE, log 99). -/
structure Transit where
  node : BitVec 12
  src : BitVec 12
  tile : BitVec 10
  id : BitVec 32
  job : BitVec 20
  detoured : Bool
  deriving DecidableEq, Repr

/-- A request of another endpoint as its header gives it (Table 13-2), with its data. -/
structure FabricRequest where
  kind : BitVec 4
  op : BitVec 4
  dst : BitVec 12
  src : BitVec 12
  srcTile : BitVec 10
  job : BitVec 20
  offset : BitVec 44
  id : BitVec 32
  len : Nat
  w3 : Word
  w4 : Word
  data : List Byte
  deriving DecidableEq, Repr

/-- The host access that a PCI Express completion ends (R363). -/
inductive HostAccess where
  | tailLine (line : Fin 512)
  | mgmtRead
  | fetch (c : CtxId)
  | load (c : CtxId) (chart : Fin 64) (num : Nat)
  | piece (t : Tile) (e : EngineNo) (i : Nat)
  | scalar (t : Tile) (slot : Fin 16)
  | firmware
  | key
  | table
  deriving DecidableEq, Repr

/-- A crossing by the tiles that own it (R448): inside a tile or to a package block, or the mesh link of two tiles. -/
inductive Crossing where
  | own (t : Tile)
  | link (t : Tile) (port : Fin 4)
  deriving DecidableEq, Repr

/-- The cause of a cold reset (`BN_RESET_CAUSE`, Table 17-7). -/
inductive ColdCause where
  | powerOn
  | resetLand
  | perst
  deriving DecidableEq, Repr

/-- The steps of the part, one constructor for each row of the table. What goes wrong on the way (a hazard, a flit error) and blocks that pass
through to another package are last operands; left out, nothing goes wrong and nothing passes through. -/
inductive Instr where
  /-- REGISTER_WRITE (R7): A write to a register that has no row of its own sets or clears its fields, or is rejected for size, encoding or privilege, and the outcome is recorded in the block's status register. -/
  | registerWrite (addr : BitVec 23) (w : Wr)
  /-- ADD (R68): Integer add, modulo 2^64. -/
  | add (t : Tile) (rd : RegNo) (ra : RegNo) (rb : RegNo)
  /-- SUB (R68): Integer subtract, modulo 2^64. -/
  | sub (t : Tile) (rd : RegNo) (ra : RegNo) (rb : RegNo)
  /-- AND (R96): Bitwise AND of two g registers. -/
  | and (t : Tile) (rd : RegNo) (ra : RegNo) (rb : RegNo)
  /-- OR (R96): Bitwise OR of two g registers. -/
  | or (t : Tile) (rd : RegNo) (ra : RegNo) (rb : RegNo)
  /-- XOR (R96): Bitwise XOR of two g registers. -/
  | xor (t : Tile) (rd : RegNo) (ra : RegNo) (rb : RegNo)
  /-- SLL (R96): Logical left shift by rb[5:0]. -/
  | sll (t : Tile) (rd : RegNo) (ra : RegNo) (rb : RegNo)
  /-- SRL (R96): Logical right shift by rb[5:0]. -/
  | srl (t : Tile) (rd : RegNo) (ra : RegNo) (rb : RegNo)
  /-- SRA (R96): Arithmetic right shift by rb[5:0]. -/
  | sra (t : Tile) (rd : RegNo) (ra : RegNo) (rb : RegNo)
  /-- MUL (R97): Integer multiply that keeps the low 64 bits. -/
  | mul (t : Tile) (rd : RegNo) (ra : RegNo) (rb : RegNo)
  /-- MULH (R97): Signed multiply that returns bits [127:64] of the product. -/
  | mulh (t : Tile) (rd : RegNo) (ra : RegNo) (rb : RegNo)
  /-- MULHU (R97): Unsigned multiply that returns bits [127:64] of the product. -/
  | mulhu (t : Tile) (rd : RegNo) (ra : RegNo) (rb : RegNo)
  /-- DIV (R97): Signed divide; division by zero gives 0, and -2^63 divided by -1 gives -2^63. -/
  | div (t : Tile) (rd : RegNo) (ra : RegNo) (rb : RegNo)
  /-- DIVU (R68): Unsigned divide; division by zero gives 0. -/
  | divu (t : Tile) (rd : RegNo) (ra : RegNo) (rb : RegNo)
  /-- REM (R68): Signed remainder; division by zero gives the dividend. -/
  | rem (t : Tile) (rd : RegNo) (ra : RegNo) (rb : RegNo)
  /-- REMU (R68): Unsigned remainder; division by zero gives the dividend. -/
  | remu (t : Tile) (rd : RegNo) (ra : RegNo) (rb : RegNo)
  /-- SLT (R96): Signed set-less-than. -/
  | slt (t : Tile) (rd : RegNo) (ra : RegNo) (rb : RegNo)
  /-- SLTU (R96): Unsigned set-less-than. -/
  | sltu (t : Tile) (rd : RegNo) (ra : RegNo) (rb : RegNo)
  /-- MIN (R96): Signed minimum of two g registers. -/
  | min (t : Tile) (rd : RegNo) (ra : RegNo) (rb : RegNo)
  /-- MAX (R96): Signed maximum of two g registers. -/
  | max (t : Tile) (rd : RegNo) (ra : RegNo) (rb : RegNo)
  /-- ADDI (R96): Add a sign-extended imm15 to a g register. -/
  | addi (t : Tile) (rd : RegNo) (ra : RegNo) (imm : BitVec 15)
  /-- ANDI (R96): AND a g register with a sign-extended imm15. -/
  | andi (t : Tile) (rd : RegNo) (ra : RegNo) (imm : BitVec 15)
  /-- ORI (R96): OR a g register with a sign-extended imm15. -/
  | ori (t : Tile) (rd : RegNo) (ra : RegNo) (imm : BitVec 15)
  /-- XORI (R96): XOR a g register with a sign-extended imm15. -/
  | xori (t : Tile) (rd : RegNo) (ra : RegNo) (imm : BitVec 15)
  /-- SHI (R96): Shift by an immediate amount, logical or arithmetic as imm15[7:6] selects. -/
  | shi (t : Tile) (rd : RegNo) (ra : RegNo) (imm : BitVec 15)
  /-- SLTI (R96): Signed compare of a g register with an immediate. -/
  | slti (t : Tile) (rd : RegNo) (ra : RegNo) (imm : BitVec 15)
  /-- LB (R99): Load a byte, sign-extended to 64 bits. -/
  | lb (t : Tile) (rd : RegNo) (ra : RegNo) (imm : BitVec 15) (h : Hazard := .none)
  /-- LBU (R99): Load a byte, zero-extended to 64 bits. -/
  | lbu (t : Tile) (rd : RegNo) (ra : RegNo) (imm : BitVec 15) (h : Hazard := .none)
  /-- LH (R99): Load a half-word, sign-extended to 64 bits. -/
  | lh (t : Tile) (rd : RegNo) (ra : RegNo) (imm : BitVec 15) (h : Hazard := .none)
  /-- LHU (R99): Load a half-word, zero-extended to 64 bits. -/
  | lhu (t : Tile) (rd : RegNo) (ra : RegNo) (imm : BitVec 15) (h : Hazard := .none)
  /-- LW (R99): Load a word, sign-extended to 64 bits. -/
  | lw (t : Tile) (rd : RegNo) (ra : RegNo) (imm : BitVec 15) (h : Hazard := .none)
  /-- LWU (R99): Load a word, zero-extended to 64 bits. -/
  | lwu (t : Tile) (rd : RegNo) (ra : RegNo) (imm : BitVec 15) (h : Hazard := .none)
  /-- LD (R99): Load a double-word from a CVA or a global address. -/
  | ld (t : Tile) (rd : RegNo) (ra : RegNo) (imm : BitVec 15) (h : Hazard := .none)
  /-- SB (R99): Store the low byte of a g register. -/
  | sb (t : Tile) (rs : RegNo) (ra : RegNo) (imm : BitVec 15) (h : Hazard := .none)
  /-- SH (R99): Store the low half-word of a g register. -/
  | sh (t : Tile) (rs : RegNo) (ra : RegNo) (imm : BitVec 15) (h : Hazard := .none)
  /-- SW (R99): Store the low word of a g register. -/
  | sw (t : Tile) (rs : RegNo) (ra : RegNo) (imm : BitVec 15) (h : Hazard := .none)
  /-- SD (R99): Store a g register as a double-word. -/
  | sd (t : Tile) (rs : RegNo) (ra : RegNo) (imm : BitVec 15) (h : Hazard := .none)
  /-- B_COND (R96): Conditional branch relative to the branch address. -/
  | bCond (t : Tile) (cond : BitVec 3) (ra : RegNo) (rb : RegNo) (off : BitVec 12)
  /-- JAL (R96): Jump relative to the instruction and write the link register. -/
  | jal (t : Tile) (rd : RegNo) (off : BitVec 20)
  /-- JALR (R96): Jump to register plus immediate and write the link register. -/
  | jalr (t : Tile) (rd : RegNo) (ra : RegNo) (imm : BitVec 15)
  /-- FADD (R98): Floating-point add in binary64 or binary32. -/
  | fadd (t : Tile) (m : FpMode) (rd : RegNo) (ra : RegNo) (rb : RegNo)
  /-- FSUB (R98): Floating-point subtract in binary64 or binary32. -/
  | fsub (t : Tile) (m : FpMode) (rd : RegNo) (ra : RegNo) (rb : RegNo)
  /-- FMUL (R98): Floating-point multiply in binary64 or binary32. -/
  | fmul (t : Tile) (m : FpMode) (rd : RegNo) (ra : RegNo) (rb : RegNo)
  /-- FDIV (R98): Floating-point divide in binary64 or binary32. -/
  | fdiv (t : Tile) (m : FpMode) (rd : RegNo) (ra : RegNo) (rb : RegNo)
  /-- FSQRT (R98): Floating-point square root. -/
  | fsqrt (t : Tile) (m : FpMode) (rd : RegNo) (ra : RegNo) (rb : RegNo)
  /-- FMIN (R98): Floating-point minimum, with -0 ordered below +0 and NaN handling. -/
  | fmin (t : Tile) (m : FpMode) (rd : RegNo) (ra : RegNo) (rb : RegNo)
  /-- FMAX (R98): Floating-point maximum, with -0 ordered below +0 and NaN handling. -/
  | fmax (t : Tile) (m : FpMode) (rd : RegNo) (ra : RegNo) (rb : RegNo)
  /-- FCVT_I (R98): Convert floating point to a saturated integer. -/
  | fcvtI (t : Tile) (m : FpMode) (rd : RegNo) (ra : RegNo) (rb : RegNo)
  /-- FCVT_F (R98): Convert an integer to floating point. -/
  | fcvtF (t : Tile) (m : FpMode) (rd : RegNo) (ra : RegNo) (rb : RegNo)
  /-- FMV_G (R98): Copy the 64 bits of an f register to a g register. -/
  | fmvG (t : Tile) (m : FpMode) (rd : RegNo) (ra : RegNo) (rb : RegNo)
  /-- FMV_F (R98): Copy the 64 bits of a g register to an f register. -/
  | fmvF (t : Tile) (m : FpMode) (rd : RegNo) (ra : RegNo) (rb : RegNo)
  /-- FEQ (R98): Floating-point equal compare. -/
  | feq (t : Tile) (m : FpMode) (rd : RegNo) (ra : RegNo) (rb : RegNo)
  /-- FLT (R98): Floating-point less-than compare. -/
  | flt (t : Tile) (m : FpMode) (rd : RegNo) (ra : RegNo) (rb : RegNo)
  /-- FLE (R98): Floating-point less-or-equal compare. -/
  | fle (t : Tile) (m : FpMode) (rd : RegNo) (ra : RegNo) (rb : RegNo)
  /-- FABS (R98): Floating-point absolute value. -/
  | fabs (t : Tile) (m : FpMode) (rd : RegNo) (ra : RegNo) (rb : RegNo)
  /-- FNEG (R98): Floating-point negation. -/
  | fneg (t : Tile) (m : FpMode) (rd : RegNo) (ra : RegNo) (rb : RegNo)
  /-- FLD (R96): Load a binary64 value into an f register. -/
  | fld (t : Tile) (rd : RegNo) (ra : RegNo) (imm : BitVec 15) (h : Hazard := .none)
  /-- FSD (R96): Store an f register as binary64. -/
  | fsd (t : Tile) (rs : RegNo) (ra : RegNo) (imm : BitVec 15) (h : Hazard := .none)
  /-- FLW (R96): Load a binary32 value and widen it exactly. -/
  | flw (t : Tile) (rd : RegNo) (ra : RegNo) (imm : BitVec 15) (h : Hazard := .none)
  /-- FSW (R69): Store an f register as binary32, rounded. -/
  | fsw (t : Tile) (rs : RegNo) (ra : RegNo) (imm : BitVec 15) (h : Hazard := .none)
  /-- AMO_ADD (R100): Indivisible 64-bit atomic add that returns the old value. -/
  | amoAdd (t : Tile) (rd : RegNo) (ra : RegNo) (rb : RegNo) (h : Hazard := .none)
  /-- AMO_SWAP (R100): Indivisible 64-bit swap. -/
  | amoSwap (t : Tile) (rd : RegNo) (ra : RegNo) (rb : RegNo) (h : Hazard := .none)
  /-- AMO_AND (R100): Indivisible 64-bit AND. -/
  | amoAnd (t : Tile) (rd : RegNo) (ra : RegNo) (rb : RegNo) (h : Hazard := .none)
  /-- AMO_OR (R100): Indivisible 64-bit OR. -/
  | amoOr (t : Tile) (rd : RegNo) (ra : RegNo) (rb : RegNo) (h : Hazard := .none)
  /-- AMO_XOR (R100): Indivisible 64-bit XOR. -/
  | amoXor (t : Tile) (rd : RegNo) (ra : RegNo) (rb : RegNo) (h : Hazard := .none)
  /-- AMO_MIN (R100): Indivisible 64-bit signed minimum. -/
  | amoMin (t : Tile) (rd : RegNo) (ra : RegNo) (rb : RegNo) (h : Hazard := .none)
  /-- AMO_MAX (R100): Indivisible 64-bit signed maximum. -/
  | amoMax (t : Tile) (rd : RegNo) (ra : RegNo) (rb : RegNo) (h : Hazard := .none)
  /-- AMO_MINU (R100): Indivisible 64-bit unsigned minimum. -/
  | amoMinu (t : Tile) (rd : RegNo) (ra : RegNo) (rb : RegNo) (h : Hazard := .none)
  /-- AMO_MAXU (R100): Indivisible 64-bit unsigned maximum. -/
  | amoMaxu (t : Tile) (rd : RegNo) (ra : RegNo) (rb : RegNo) (h : Hazard := .none)
  /-- AMO_CAS (R100): Indivisible 64-bit compare-and-swap. -/
  | amoCas (t : Tile) (rd : RegNo) (ra : RegNo) (rb : RegNo) (h : Hazard := .none)
  /-- TWAIT (R82): Stall the Helm core on a home-tile counter until the target is satisfied, or raise TOKEN_DISTANCE. -/
  | twait (t : Tile) (k : BitVec 8) (rs : RegNo)
  /-- TWAIT_RELEASE (R82): A stalled TWAIT resumes once signals make its target satisfied. -/
  | twaitRelease (t : Tile) (slot : Fin 16)
  /-- TSIGI (R96): Add an immediate increment to a home-tile counter. -/
  | tsigi (t : Tile) (k : BitVec 8) (imm : BitVec 16)
  /-- TSIG (R102): Apply the signal word in a g register once earlier stores are complete. -/
  | tsig (t : Tile) (k : BitVec 8) (rs : RegNo)
  /-- FENCE_T (R87): Scalar fence at tile scope. -/
  | fenceT (t : Tile)
  /-- FENCE_P (R87): Scalar fence at package scope, which writes back dirty lines. -/
  | fenceP (t : Tile)
  /-- FENCE_D (R87): Scalar fence at domain scope, which waits for every destination to acknowledge. -/
  | fenceD (t : Tile)
  /-- SCALAR_FENCE_DONE (R549): A waiting scalar fence or TSIG proceeds once the earlier stores are complete at its scope. -/
  | scalarFenceDone (t : Tile) (slot : Fin 16)
  /-- STEPEND (R61): End the step's code at once. -/
  | stepend (t : Tile)
  /-- RDST (R96): Read the context state that fn names into a g register. -/
  | rdst (t : Tile) (rd : RegNo) (fn : BitVec 10)
  /-- WRST (R96): Write LAYOP or DEADLINE from a g register. -/
  | wrst (t : Tile) (ra : RegNo) (fn : BitVec 10)
  /-- TLD (R101): Load a tensor descriptor from 32 aligned bytes, without checking it. -/
  | tld (t : Tile) (td : RegNo) (ra : RegNo) (imm : BitVec 15) (h : Hazard := .none)
  /-- TST (R101): Store a tensor descriptor to 32 aligned bytes. -/
  | tst (t : Tile) (ts : RegNo) (ra : RegNo) (imm : BitVec 15) (h : Hazard := .none)
  /-- TSET (R96): Write one word of a tensor descriptor. -/
  | tset (t : Tile) (td : RegNo) (ra : RegNo) (fn : BitVec 10)
  /-- TGET (R96): Read one word of a tensor descriptor. -/
  | tget (t : Tile) (rd : RegNo) (ta : RegNo) (fn : BitVec 10)
  /-- LI (R96): Load a sign-extended 48-bit immediate. -/
  | li (t : Tile) (rd : RegNo) (imm : BitVec 48)
  /-- LIH (R96): Load bits [63:48] of a g register from the immediate. -/
  | lih (t : Tile) (rd : RegNo) (imm : BitVec 48)
  /-- LDL (R96): 64-bit load with a 32-bit displacement. -/
  | ldl (t : Tile) (rd : RegNo) (ra : RegNo) (disp : BitVec 32) (h : Hazard := .none)
  /-- SDL (R96): 64-bit store with a 32-bit displacement. -/
  | sdl (t : Tile) (rs : RegNo) (ra : RegNo) (disp : BitVec 32) (h : Hazard := .none)
  /-- SETTAG (R89): Set LAYOP to a layer ID and an operator ID. -/
  | settag (t : Tile) (imm : BitVec 48)
  /-- HOME_SLOT_SWITCH (R29): At a command boundary the Helm core switches to another home slot, in 40 cycles. -/
  | homeSlotSwitch (t : Tile) (slot : Fin 16)
  /-- TMM (R115): Validate a matrix-product instruction and issue its MMUL pieces. -/
  | tmm (t : Tile) (i : TensorInsn)
  /-- TSCORE (R116): Validate and issue MSCORE pieces, forming the causal base for each piece. -/
  | tscore (t : Tile) (i : TensorInsn)
  /-- TREAD (R117): Validate and issue MREAD pieces. -/
  | tread (t : Tile) (i : TensorInsn)
  /-- TVOP (R118): Validate and issue VOP pieces. -/
  | tvop (t : Tile) (i : TensorInsn)
  /-- TCVT (R119): Validate and issue VCVT pieces. -/
  | tcvt (t : Tile) (i : TensorInsn)
  /-- TSFN (R120): Validate and issue VSFN pieces. -/
  | tsfn (t : Tile) (i : TensorInsn)
  /-- TSTAT (R121): Validate and issue VSTAT pieces. -/
  | tstat (t : Tile) (i : TensorInsn)
  /-- TNORM (R122): Validate and issue VNORM pieces. -/
  | tnorm (t : Tile) (i : TensorInsn)
  /-- TSMAX (R123): Validate and issue VSMAX pieces. -/
  | tsmax (t : Tile) (i : TensorInsn)
  /-- TROUTE (R229): Validate and issue the one VROUTE piece, with its generation. -/
  | troute (t : Tile) (i : TensorInsn)
  /-- TCOMB (R243): Validate and issue VCOMB pieces, one per 1,024 output columns. -/
  | tcomb (t : Tile) (i : TensorInsn)
  /-- TPLD (R125): Validate and issue PLOAD pieces, paged or not. -/
  | tpld (t : Tile) (i : TensorInsn)
  /-- TGATH (R127): Validate and issue PGATH pieces. -/
  | tgath (t : Tile) (i : TensorInsn)
  /-- TSTW (R128): Validate and issue SSTOW pieces. -/
  | tstw (t : Tile) (i : TensorInsn)
  /-- TSCAT (R128): Validate and issue SSCAT pieces. -/
  | tscat (t : Tile) (i : TensorInsn)
  /-- TATOM (R129): Validate and issue SATOM pieces. -/
  | tatom (t : Tile) (i : TensorInsn)
  /-- TCRED (R132): Validate and issue one CRED piece. -/
  | tcred (t : Tile) (i : TensorInsn)
  /-- TCGATH (R132): Validate and issue one CGATH piece. -/
  | tcgath (t : Tile) (i : TensorInsn)
  /-- TCROW (R132): Validate and issue one CROW piece. -/
  | tcrow (t : Tile) (i : TensorInsn)
  /-- TTOKEN (R106): Issue one TOKEN piece to each tile of the set. -/
  | ttoken (t : Tile) (i : TensorInsn)
  /-- TFENCE (R106): Issue one FENCE piece to each tile of the set. -/
  | tfence (t : Tile) (i : TensorInsn)
  /-- COMMAND_ARRIVAL (R43): An engine command record enters the tile's command inbox from the local Helm core or the mesh. -/
  | commandArrival (t : Tile) (f : Flits := .clean)
  /-- QUEUE_ENTRY (R112): A record moves from the inbox into an engine queue once that queue has room within the share, after the entry checks, or parks. -/
  | queueEntry (t : Tile) (parity : Bool := false)
  /-- ENGINE_SELECT (R256): An engine selects an eligible command by earliest deadline or by floor and takes its credits. -/
  | engineSelect (t : Tile) (e : EngineNo)
  /-- MMUL (R115): Matrix product into the accumulator, with KEEP and ADD handling and write-out. -/
  | mmul (t : Tile) (u : Upset)
  /-- MSCORE (R116): Attention scores written in FP32, with causal masking. -/
  | mscore (t : Tile) (u : Upset)
  /-- MREAD (R117): Probabilities multiplied by values in BF16 mode. -/
  | mread (t : Tile) (u : Upset)
  /-- VOP (R118): Elementwise vector operation with broadcast. -/
  | vop (t : Tile) (u : Upset)
  /-- VCVT (R119): Format conversion with the selected rounding. -/
  | vcvt (t : Tile) (u : Upset)
  /-- VSFN (R120): Apply the function table in a slot. -/
  | vsfn (t : Tile) (u : Upset)
  /-- VSTAT (R121): Write row statistics records. -/
  | vstat (t : Tile) (u : Upset)
  /-- VNORM (R122): Normalise rows by a statistics record. -/
  | vnorm (t : Tile) (u : Upset)
  /-- VSMAX (R123): Soft maximum of rows, in full or partial form. -/
  | vsmax (t : Tile) (u : Upset)
  /-- VROUTE (R235): Rank experts, place tokens under capacity and next-best, and write the bearing table. -/
  | vroute (t : Tile) (u : Upset)
  /-- VCOMB (R244): Combine each token's expert answers through the bearing table. -/
  | vcomb (t : Tile) (u : Upset)
  /-- PLOAD (R125): Copy a tensor into scratchpad without conversion, paged or not. -/
  | pload (t : Tile) (e : EngineNo) (i : Nat)
  /-- PGATH (R127): Gather table rows by an index list. -/
  | pgath (t : Tile) (e : EngineNo) (i : Nat)
  /-- SSTOW (R128): Store a tensor out of scratchpad. -/
  | sstow (t : Tile) (e : EngineNo) (i : Nat)
  /-- SSCAT (R128): Scatter rows to a table by an index list. -/
  | sscat (t : Tile) (e : EngineNo) (i : Nat)
  /-- SATOM (R129): One 32-bit atomic operation per row. -/
  | satom (t : Tile) (e : EngineNo) (i : Nat)
  /-- CRED (R132): Reduce contributions to every member. -/
  | cred (t : Tile) (i : Nat)
  /-- CGATH (R132): Gather contributions to every member. -/
  | cgath (t : Tile) (i : Nat)
  /-- CROW (R193): Combine row statistics records across members. -/
  | crow (t : Tile) (i : Nat)
  /-- TOKEN (R134): Complete at selection and apply the signal. -/
  | token (t : Tile) (e : EngineNo) (i : Nat)
  /-- FENCE (R135): Engine fence that holds later commands of its context in the covered queues. -/
  | fence (t : Tile) (e : EngineNo) (i : Nat)
  /-- FENCE_CMD_DONE (R135): An engine fence completes once the earlier commands of its context and their writes are complete. -/
  | fenceCmdDone (t : Tile) (e : EngineNo) (i : Nat)
  /-- PILOT_STOW_REQUEST_DONE (R292): A tile or span request of a pilot or stow engine lands or is acknowledged, freeing an outstanding slot. -/
  | pilotStowRequestDone (t : Tile) (e : EngineNo) (i : Nat) (h : Hazard := .none)
  /-- PIECE_COMPLETION (R137): A piece completes on its tile: numeric events are counted, the norm-watch test runs, the signal is applied, and a notice or report is sent. -/
  | pieceCompletion (t : Tile) (e : EngineNo) (i : Nat)
  /-- SIGNAL_APPLY (R48): Signals that reach a counter in one cycle are added at the end of that cycle, allocating a counter set if needed. -/
  | signalApply (t : Tile)
  /-- COMPLETION_NOTICE (R136): The home tile counts a piece's completion notice against its step. -/
  | completionNotice (t : Tile)
  /-- PIECE_REPORT (R91): The home tile takes a piece's failure report, sets the step status, and aborts or replays the step by class. -/
  | pieceReport (t : Tile)
  /-- STEP_FLUSH (R83): A tile receives a flush, discards the step's queued and parked pieces, suppresses signals and restores the waypoint counters. -/
  | stepFlush (t : Tile)
  /-- FLUSH_CONFIRM (R83): The home tile receives a tile's flush confirmation; once every tile has confirmed, it restores or completes the step. -/
  | flushConfirm (t : Tile)
  /-- REPLAY_RESTART (R176): After the restore and the scale recomputation, the home tile restarts the step's code from the ring record. -/
  | replayRestart (c : CtxId)
  /-- STALLED_PAST_DEADLINE (R84): A piece not issued 10 ms after its deadline completes with STALLED_PAST_DEADLINE. -/
  | stalledPastDeadline (t : Tile) (e : EngineNo) (i : Nat)
  /-- COLLECTIVE_CONTRIBUTION (R131): A collective contribution arrives at a member and is matched on job tag and instance. -/
  | collectiveContribution (t : Tile) (x : Contribution)
  /-- COLLECTIVE_MEMBER_LOST (R133): A member that detects the loss of another ends the collective. -/
  | collectiveMemberLost (t : Tile) (i : Nat)
  /-- COLLECTIVE_PAST_DEADLINE (R133): A collective still missing contributions 10 ms past its deadline fails. -/
  | collectivePastDeadline (t : Tile) (i : Nat)
  /-- NW_COMMIT (R168): A tile commits pending norm-watch counts and updates ref for a completed step. -/
  | nwCommit (t : Tile)
  /-- SWEEP_READ (R250): The sweeper reads a due tail-word line and adjusts the sweep intervals. -/
  | sweepRead (line : Fin 512) (ok : Bool)
  /-- SWEEP_STRETCH (R251): Every 64 µs the sweeper recomputes the demand and the stretch s. -/
  | sweepStretch
  /-- RECORD_FETCH (R546): The home tile fetches up to 8 ring records of a context in one host read. -/
  | recordFetch (c : CtxId)
  /-- RECORD_FETCH_DONE (R376): Fetched ring records arrive, or the failure is counted, with RING_OVERRUN or repeated failures faulting the context. -/
  | recordFetchDone (c : CtxId) (ok : Bool)
  /-- STEP_ADMISSION (R377): The home tile admits a step record through the record, sequence, chart, KV and waypoint checks. -/
  | stepAdmission (c : CtxId)
  /-- WAYPOINT_SAVED (R172): The save copies are acknowledged and the step's code starts. -/
  | waypointSaved (c : CtxId)
  /-- STEP_COMPLETION (R221): With every piece done, the home tile updates the pool, releases chart pins, and writes the completion record and status line. -/
  | stepCompletion (c : CtxId)
  /-- KV_OPEN (R222): KV operation that opens a free sequence slot. -/
  | kvOpen (c : CtxId)
  /-- KV_FORK (R222): KV operation that forks a sequence by sharing its first pages. -/
  | kvFork (c : CtxId)
  /-- KV_CANCEL (R222): KV operation that frees an Open sequence or marks an In-step one cancel-pending. -/
  | kvCancel (c : CtxId)
  /-- NOP (R546): NOP ring record, which completes with OK. -/
  | nop (c : CtxId)
  /-- LODESTAR_CHECK (R272): Every 8 µs Lodestar predicts whether a watched step misses its deadline. -/
  | lodestarCheck (c : CtxId)
  /-- DEADLINE_MISSED (R276): A watched step still in flight at D + G is aborted. -/
  | deadlineMissed (c : CtxId)
  /-- TL_CTRL_WRITE (R261): Set HOLD or partition the tile, refused with TILE_BUSY or PARTITION_DENIED. -/
  | tlCtrlWrite (t : Tile) (w : Wr)
  /-- TL_SPREG_WRITE (R40): Write a region entry, checked for overlap, and start zeroing of the granules. -/
  | tlSpregWrite (t : Tile) (n : Fin 16) (w : Wr)
  /-- GRANULE_ZEROING_DONE (R41): Zeroing of a region's granules completes and waiting commands become eligible. -/
  | granuleZeroingDone (t : Tile) (n : Fin 16)
  /-- SP_SCRUB (R42): The scratchpad scrubber reads words in each interval and corrects single errors. -/
  | spScrub (t : Tile) (word : Nat) (single : Bool)
  /-- TL_CNT_CLEAR (R55): Clear every TL_CNT_ counter and its overflow flag. -/
  | tlCntClear (t : Tile) (w : Wr)
  /-- HC_CTRL_HALT (R56): Stop the Helm core at the next instruction boundary. -/
  | hcCtrlHalt (t : Tile) (w : Wr)
  /-- HC_CACHE_FLUSH (R56): Write back and invalidate the whole Helm-core cache while the core keeps running. -/
  | hcCacheFlush (t : Tile) (w : Wr)
  /-- TL_NW_CFG_WRITE (R171): Write a watch entry, which resets ref and clears the pending banks, refused for duplicates or W = 0. -/
  | tlNwCfgWrite (t : Tile) (n : Fin 16) (w : Wr)
  /-- TL_NW_CLEAR (R179): Clear watch-entry counters and flags, or the TL_NW_OTHER_ counters. -/
  | tlNwClear (t : Tile) (w : Wr)
  /-- HC_LS_CFG_WRITE (R271): Set the initial f of a home slot and reset u. -/
  | hcLsCfgWrite (t : Tile) (n : Fin 16) (w : Wr)
  /-- SEAM_RESEND (R51): A seam CRC or sequence mismatch requests a re-send, and the link is taken down after 8 failures. -/
  | seamResend (t : Tile) (port : Fin 4) (same : Bool)
  /-- SPILL (R264): A TL_PREEMPT SPILL order is checked and started, parking the victim's commands. -/
  | spill (t : Tile) (w : Wr)
  /-- SPILL_DONE (R265): The spill copy ends and the region is handed to the beneficiary once the last granule is zeroed. -/
  | spillDone (t : Tile)
  /-- SPILL_FAILED (R267): A failed spill copy undoes the order and returns the parked commands. -/
  | spillFailed (t : Tile) (st : Status)
  /-- RESTORE (R268): A TL_PREEMPT RESTORE order revalidates the victim's entry and copies its data back. -/
  | restore (t : Tile) (w : Wr)
  /-- RESTORE_DONE (R268): Restored data and the accumulator return, and parked records re-enter their queues. -/
  | restoreDone (t : Tile)
  /-- SX_WB_SET (R279): Set the watch bill by hand, as one change. -/
  | sxWbSet (w : Wr)
  /-- WATCH_BILL_ADJUST (R279): Once per period T, the Sextant moves column pairs between the watches by backlog. -/
  | watchBillAdjust
  /-- FT_LOAD (R185): Start a function-table load, checked as in Table 7-2. -/
  | ftLoad (w : Wr)
  /-- FT_UNLOAD (R188): Start a function-table unload. -/
  | ftUnload (w : Wr)
  /-- FT_LOAD_DONE (R186): The exhaustive pass ends and the table is installed or rejected. -/
  | ftLoadDone
  /-- FT_SLOT_ACTIVATE (R188): At its next vector command boundary a tile makes the slot valid or empty. -/
  | ftSlotActivate (t : Tile) (n : Fin 16)
  /-- FT_REWRITE_DONE (R189): The Binnacle's rewrite of a tile's damaged table copy completes. -/
  | ftRewriteDone (t : Tile) (n : Fin 16)
  /-- MT_XLAT_INV (R290): Start invalidation of cached translations. -/
  | mtXlatInv (w : Wr)
  /-- XLAT_INV_DONE (R290): The translation invalidation completes and busy clears. -/
  | xlatInvDone
  /-- HARVEST (R295): Harvest and clear dirty maps page by page into the host buffer. -/
  | harvest (w : Wr)
  /-- MT_LOST_CLEAR (R300): Clear a lost-line entry, or all of them. -/
  | mtLostClear (w : Wr)
  /-- MT_CNT_CLEAR (R309): Clear every MT_CNT_ counter. -/
  | mtCntClear (w : Wr)
  /-- FAR_WIN_WRITE (R307): Write a far window and send the level query. -/
  | farWinWrite (n : Fin 16) (w : Wr)
  /-- FAR_LEVEL_ANSWER (R307): The far node's level answer validates or refuses the slice. -/
  | farLevelAnswer (n : Fin 16) (level : BitVec 2)
  /-- FAR_NODE_UNREACHABLE (R307): No level answer within 1 ms leaves the slice invalid. -/
  | farNodeUnreachable (n : Fin 16)
  /-- TIER_LATE (R301): A tier request passes its late threshold and is counted. The row carries the cause and the time waited on it; R301's
  stall counts grow nanosecond by nanosecond, so the meaning counts the late request alone. -/
  | tierLate (t : Tile) (e : EngineNo) (i : Nat) (cause : Fin 8) (ns : Nat)
  /-- TIER_TIMEOUT (R302): A tier request with no answer after 1 ms or 10 ms completes with TIER_TIMEOUT. -/
  | tierTimeout (t : Tile) (e : EngineNo) (i : Nat) (applied : Bool)
  /-- STACK_FAILED (R303): A controller finds its stack or device unusable and the stack or group becomes absent. -/
  | stackFailed (mid : Bool) (n : Fin 12)
  /-- FAR_PORT_DOWN (R304): Loss of light on port F fails every Far request. -/
  | farPortDown
  /-- MT_PATROL_SCRUB (R297): The patrol scrubber reads Near and Mid blocks and corrects or records errors. -/
  | mtPatrolScrub (block : BitVec 38) (single : Bool)
  /-- LP_BLOCK_RECEIVE (R314): A light port receives a 280-byte block, checks its CRC and sequence, and accepts, discards or requests a re-send. -/
  | lpBlockReceive (p : PortNo) (block : List Byte) (transit : List (Option Transit) := [])
  /-- LP_RESEND_REQUEST (R314): A received re-send request rewinds the sender. -/
  | lpResendRequest (p : PortNo) (seq : BitVec 24)
  /-- LP_RESEND_TIMEOUT (R314): With no acknowledgement for 2 µs the sender rewinds, and after 8 sends it retrains. -/
  | lpResendTimeout (p : PortNo)
  /-- LP_GATE_OPEN (R336): A pair's gate opens after 5 µs of receive light and the pair trains. -/
  | lpGateOpen (p : PortNo) (pair : Fin 16)
  /-- LP_GATE_CLOSE (R336): A pair's gate closes when its receive fibre goes dark. -/
  | lpGateClose (p : PortNo) (pair : Fin 16)
  /-- LP_GATE_PROBE (R336): A closed gate sends a 10 µs probe pulse every 100 ms. -/
  | lpGateProbe (p : PortNo) (pair : Fin 16)
  /-- LP_TRAINING_DONE (R317): Lane training of a pair completes and the exchange begins. -/
  | lpTrainingDone (p : PortNo) (pair : Fin 16) (at200 : BitVec 4) (at100 : BitVec 4)
  /-- LP_CAPABILITY_BLOCK (R318): A capability block arrives and the mode and FEC are chosen. -/
  | lpCapabilityBlock (p : PortNo) (cap : Capability)
  /-- LP_EXCHANGE_TIMEOUT (R317): No capability block within 1 ms records LP_TRAIN_FAILED and goes Dark. -/
  | lpExchangeTimeout (p : PortNo)
  /-- LP_TEST_DONE (R320): After 1 ms of test blocks the end sends its test-result block. -/
  | lpTestDone (p : PortNo) (counts : TestCounts)
  /-- LP_TEST_RESULT (R324): A test result decides pass, FEC on, or the next mode, and the port enters Up or Held. -/
  | lpTestResult (p : PortNo) (counts : TestCounts)
  /-- LP_RESTART (R317): A Dark port starts negotiation again after 1 s. -/
  | lpRestart (p : PortNo)
  /-- LP_RETRAIN (R321): A port enters Retrain on write, resend failure or gate closure, failing held blocks. -/
  | lpRetrain (p : PortNo) (w : Wr)
  /-- LP_LINK_STATE (R326): A link-state block is applied and flooded when its epoch is newer. -/
  | lpLinkState (p : PortNo) (x : LinkState)
  /-- LP_SLOT_ADVERTISEMENT (R334): A partner's slot-advertisement block updates the usable job slots. -/
  | lpSlotAdvertisement (p : PortNo) (slots : List (Fin 8 × BitVec 20 × BitVec 16))
  /-- ROUTE_HOLD_RELEASE (R329): A source tile resumes requests to a node once all requests issued before a route change have ended. -/
  | routeHoldRelease (t : Tile) (node : BitVec 12)
  /-- LP_LOSS_OF_LIGHT (R331): A port detects loss of light and leaves Up, failing its held requests. -/
  | lpLossOfLight (p : PortNo)
  /-- LP_COORD_WRITE (R323): Write the logical coordinates under HOLD, setting valid. -/
  | lpCoordWrite (w : Wr)
  /-- LP_NODE_WRITE (R323): Write the logical node number under HOLD. -/
  | lpNodeWrite (w : Wr)
  /-- LP_TOPO_WRITE (R323): Write the ring lengths, checked against the coordinates. -/
  | lpTopoWrite (w : Wr)
  /-- LP_CTRL_WRITE (R323): Set or clear HOLD; clearing it sends fresh capability blocks. -/
  | lpCtrlWrite (w : Wr)
  /-- LP_JOBVC_WRITE (R333): Write a job-slot entry, refused when it would starve slot 0. -/
  | lpJobvcWrite (p : PortNo) (n : Fin 8) (w : Wr)
  /-- LP_CFG_WRITE (R332): Write a port's configuration, including SP role and stand-in. -/
  | lpCfgWrite (p : PortNo) (w : Wr)
  /-- LP_CNT_CLEAR (R340): Clear every LP_CNT_ counter. -/
  | lpCntClear (w : Wr)
  /-- LP_LOOP (R538): Start an optical loopback test, or refuse it. -/
  | lpLoop (p : PortNo) (w : Wr)
  /-- LP_LOOP_DONE (R539): A loopback test ends and writes its pass and error results. -/
  | lpLoopDone (p : PortNo) (stayed : BitVec 16) (errs : List Nat)
  /-- REMOTE_REQUEST_SEND (R345): A remote request leaves the tile after the sender checks, within the grant. -/
  | remoteRequestSend (t : Tile)
  /-- LANDING_CHECK (R350): The landing unit checks an incoming request and forwards or refuses it. -/
  | landingCheck (p : PortNo) (q : FabricRequest)
  /-- REQUEST_LAND (R351): A request is re-checked and applied at its target tile or tier. -/
  | requestLand (i : Nat) (h : Hazard := .none)
  /-- REMOTE_RESPONSE (R345): A response arrives at the source, completing the access and updating the grant. -/
  | remoteResponse (t : Tile) (id : BitVec 32) (st : Status) (grant : BitVec 8) (data : List Byte)
  /-- REMOTE_TIMEOUT (R357): A remote request with no response after 10 ms completes with REMOTE_TIMEOUT. -/
  | remoteTimeout (t : Tile) (id : BitVec 32)
  /-- FB_LAND_WRITE (R349): Load, check or remove a context's landing table and start the drain. -/
  | fbLandWrite (c : CtxId) (w : Wr)
  /-- LANDING_DRAIN_DONE (R349): The landing drain completes and busy clears. -/
  | landingDrainDone
  /-- FB_REACH_INV (R344): Invalidate cached reach maps. -/
  | fbReachInv (w : Wr)
  /-- FB_DENY_CLEAR (R361): Clear the recorded denial. -/
  | fbDenyClear (w : Wr)
  /-- FB_CNT_CLEAR (R361): Clear every FB_CNT_ counter. -/
  | fbCntClear (w : Wr)
  /-- MGMT_SWEEP (R370): Every 2 µs the management tail word is read and new records are taken one at a time. -/
  | mgmtSweep
  /-- CREATE (R372): Create a context from a creation record, checked in order, initialising the pool and the reserve. -/
  | create
  /-- DESTROY (R374): Destroy a context: flush, zero, drain and release. -/
  | destroy
  /-- DESTROY_DONE (R374): All destroy steps end and the log entry is written. -/
  | destroyDone (c : CtxId)
  /-- BIND (R253): Bind or rebind a context to a named or AUTO home tile. -/
  | bind
  /-- RESUME (R371): Resume a Faulted context. -/
  | resume
  /-- CHART_LOAD (R381): Start a chart load under a new generation. -/
  | chartLoad
  /-- LOAD_DONE (R381): A chart load ends after its checks and copy, and the generation becomes Ready or Failed. -/
  | loadDone (c : CtxId) (chart : Fin 64)
  /-- CHART_ACTIVATE (R384): Make a Ready generation Current and the previous one Retiring. -/
  | chartActivate
  /-- CHART_DISCARD (R385): Make a Ready generation Retiring. -/
  | chartDiscard
  /-- HOST_COMPLETION_ERROR (R363): A PCIe completion with EP, UR or CA ends its request with HOST_READ_FAILED. -/
  | hostCompletionError (x : HostAccess)
  /-- HOST_POISONED_WRITE (R363): A host write with EP set is discarded and reported by AER. -/
  | hostPoisonedWrite
  /-- HOST_LINK_DOWN (R364): The PCIe link goes down, failing host accesses and stopping sweeping. -/
  | hostLinkDown
  /-- PCIE_LINK_UP (R463): The PCIe link trains, reaching SAFE_MIN. -/
  | pcieLinkUp (rate : BitVec 4) (width : BitVec 6) (flit : Bool)
  /-- LINK_RETRAIN_TIMER (R463): After LINK_FAILED the host interface retrains every 100 ms. -/
  | linkRetrainTimer
  /-- HI_CNT_CLEAR (R387): Clear every HI_CNT_ counter. -/
  | hiCntClear (w : Wr)
  /-- FLR_FUNCTION (R460): FLR of PF1 or a virtual function destroys its contexts. -/
  | flrFunction (fn : BitVec 8)
  /-- FLR_PF0 (R460): FLR of PF0 clears management ENABLE. -/
  | flrPf0
  /-- HOT_RESET (R460): Hot reset or link disable destroys every context through FLRs. -/
  | hotReset
  /-- FW_VERIFY (R406): Start firmware verification on both Binnacles. -/
  | fwVerify (w : Wr)
  /-- FIRMWARE_ACCEPT (R407): Both Binnacles finish verification; firmware runs or is refused, and MEMORY begins. -/
  | firmwareAccept
  /-- SC_SVN_ADVANCE (R408): Raise the fused minimum security version. -/
  | scSvnAdvance (w : Wr)
  /-- SC_CERT_CMD (R410): Copy the device certificate to host memory. -/
  | scCertCmd (w : Wr)
  /-- SC_ATT_CMD (R411): Request a package or context attestation report. -/
  | scAttCmd (w : Wr)
  /-- ATTESTATION_DONE (R413): The signed report is written and busy clears. -/
  | attestationDone
  /-- INSTALL (R415): Install a publisher key record into a slot. -/
  | install (w : Wr)
  /-- REMOVE (R415): Remove a publisher key slot. -/
  | remove (w : Wr)
  /-- KEYLOCK (R417): Set KEYLOCK, locking the key slots until reset. -/
  | keylock (w : Wr)
  /-- SC_PART_WRITE (R403): Write a partition entry for a live context. -/
  | scPartWrite (n : Fin 8) (w : Wr)
  /-- RUN (R421): PW_CMD RUN leaves Stowed. -/
  | run (w : Wr)
  /-- STOW (R421): PW_CMD STOW enters Stowed. -/
  | stow (w : Wr)
  /-- OFF (R421): PW_CMD OFF writes back caches and deasserts the power request. -/
  | off (w : Wr)
  /-- POWER_TRANSITION_DONE (R421): A Stow or Run transition completes. -/
  | powerTransitionDone
  /-- PW_CAP_WRITE (R427): Write the host cap, clamped to 1,200 W or rejected. -/
  | pwCapWrite (w : Wr)
  /-- PW_CTRL_WRITE (R436): Set FIXED or NOBOOST. -/
  | pwCtrlWrite (w : Wr)
  /-- PW_CNT_CLEAR (R444): Clear PW_CNT_DROOP. -/
  | pwCntClear (w : Wr)
  /-- SX_CNT_CLEAR (R445): Clear every SX_CNT_ counter. -/
  | sxCntClear (w : Wr)
  /-- SEXTANT_CYCLE (R426): Every 1 µs the effective cap is recomputed and the island limits applied. -/
  | sextantCycle
  /-- CLAMP_POINT_STEP (R434): While the clamp acts, watches are lowered one point every 20 µs. -/
  | clampPointStep
  /-- POINT_CHANGE_DONE (R452): A tile finishes a one-step change of operating point. -/
  | pointChangeDone (t : Tile)
  /-- RACK_LINE_READ (R428): Every 5 µs the rack request line is read and a new line accepted or refused. -/
  | rackLineRead
  /-- RACK_STATUS_WRITE (R428): Every 1 ms the Sextant writes the rack status line. -/
  | rackStatusWrite
  /-- CAP_LEASE_EXPIRED (R429): The lease runs out and the safe cap applies. -/
  | capLeaseExpired
  /-- PMBUS_READ (R430): Every 1 ms the rails are read and k is recomputed. -/
  | pmbusRead (rails : List (Option (BitVec 16 × BitVec 16)))
  /-- PMBUS_ALERT (R529): A regulator's alert is read at once. -/
  | pmbusAlert (rail : Fin 16) (mv : BitVec 16) (watts : BitVec 16) (fault : Bool)
  /-- CAP_SHARE (R432): Every 1 ms the cap is shared between the watches by learned gain. -/
  | capShare
  /-- DROOP_EVENT (R439): A rail droop halves a die's clocks. -/
  | droopEvent (die : Fin 100) (mv : BitVec 16)
  /-- DROOP_RESTORE (R439): After 256 cycles without droop, the clocks are restored. -/
  | droopRestore (die : Fin 100)
  /-- THERMAL_SAMPLE (R440): Every 10 µs the die sensors are read and the ladder is evaluated. -/
  | thermalSample (temps : List (BitVec 16))
  /-- THROTTLE_STEP (R440): Every 100 µs a hot die's ceiling falls one point. -/
  | throttleStep
  /-- THROTTLE_RELEASE (R440): Every 10 ms a cool die's ceiling rises one point. -/
  | throttleRelease
  /-- TRIMMED_EXIT (R440): After 1 s at or below 95 °C, the commanded state resumes. -/
  | trimmedExit
  /-- ISLAND_TEMP_CLAMP (R451): Every 100 µs the ceiling of the hotter of two joined dies that differ by more than 40 °C falls. -/
  | islandTempClamp
  /-- THERMAL_TRIP (R441): The analog hard trip asserts the trip land and enters the safe state. -/
  | thermalTrip
  /-- SUPPLY_FAULT (R442): A power-good fall or regulator fault enters the safe state. -/
  | supplyFault (rail : Fin 16)
  /-- ISLAND_OVERRUN (R448): A crossing overrun discards its entries and replays the affected steps. -/
  | islandOverrun (x : Crossing)
  /-- CROSSING_RESTART (R448): 64 slower cycles after an overrun, the crossing carries traffic again. -/
  | crossingRestart (x : Crossing)
  /-- COLD_RESET (R456): Cold reset asserted: lasers off and islands held. -/
  | coldReset (cause : ColdCause)
  /-- RESET_RELEASE (R523): The later reset land rises, straps are sampled and staged start begins. -/
  | resetRelease (straps : BitVec 8)
  /-- WARM_RESET (R457): BN_RESET starts the warm reset sequence. -/
  | warmReset (w : Wr)
  /-- WARM_RESET_FLUSH_DONE (R457): Running pieces end, or are stopped at 10 ms, and the warm reset moves on to write-back. -/
  | warmResetFlushDone
  /-- TILE_RESET (R461): Reset one held, empty tile and run its self-test. -/
  | tileReset (w : Wr)
  /-- TILE_RESET_DONE (R461): The tile self-test ends and its result is recorded. -/
  | tileResetDone (t : Tile) (pass : Bool)
  /-- MEMORY_STAGE_DONE (R464): Memory training and zeroing end; the stage passes or fails. -/
  | memoryStageDone (near : List (Option Bool)) (mid : List (Option (BitVec 2)))
  /-- MESH_STAGE_DONE (R465): The mesh link test ends; the stage passes or fails. -/
  | meshStageDone (bad : Option (Tile × Fin 4))
  /-- LIGHT_STAGE_DONE (R466): The light stage ends at port settle or at its time limit. -/
  | lightStageDone
  /-- TILES_STAGE_DONE (R467): The tile self-tests end, watches are placed, and FULL is reached. -/
  | tilesStageDone (failed : List Tile)
  /-- START_TIMEOUT (R462): A stage passes its time limit and fails. -/
  | startTimeout
  /-- CONTINUE (R470): Run a failed stage again. -/
  | continue (w : Wr)
  /-- BN_HEARTBEAT (R482): Every 50 µs each Binnacle toggles its live line and sends a heartbeat message. -/
  | bnHeartbeat (b : Bool)
  /-- BN_TAKEOVER (R483): After 1 ms of silence on both paths, the standby holds its partner and becomes active. -/
  | bnTakeover
  /-- HB_PATH_LOST (R484): One heartbeat path changes state or stays silent for 1 ms. -/
  | hbPathLost (line : Bool) (good : Bool)
  /-- BINNACLES_LOST (R485): No live line toggles for 1 ms and the observers enter the safe state. -/
  | binnaclesLost
  /-- SEXTANT_LOST (R487): The Sextant's heartbeat is silent for 100 µs and the package enters the safe state. -/
  | sextantLost
  /-- EMERGENCY_OFF (R490): Emergency-off asserted for 500 ns drives the hardwired path to the safe state. -/
  | emergencyOff
  /-- MESH_LINK_RETRAIN (R492): A down seam or mesh link is retrained, up to three times. -/
  | meshLinkRetrain (t : Tile) (port : Fin 4) (pass : Bool)
  /-- VECTOR_KAT (R479): Every 1 ms each vector unit runs a known-answer test at a command boundary. -/
  | vectorKat (t : Tile) (pass : Bool)
  /-- CORRECTED_SUMMARY (R496): Once per second, corrected-error changes are recorded. -/
  | correctedSummary
  /-- INJECT_CHECKSUM (R500): Inject a checksum fault into a tile's next piece. -/
  | injectChecksum (w : Wr)
  /-- INJECT_RESIDUE (R500): Inject a residue fault into a tile's next piece. -/
  | injectResidue (w : Wr)
  /-- INJECT_VECTOR_RESIDUE (R500): Inject a vector residue fault. -/
  | injectVectorResidue (w : Wr)
  /-- INJECT_HB_MESSAGE (R500): Suppress the active Binnacle's heartbeat message for 2 ms. -/
  | injectHbMessage (w : Wr)
  /-- INJECT_LIVE_LINE (R500): Suppress the active Binnacle's live line for 2 ms. -/
  | injectLiveLine (w : Wr)
  /-- INJECT_BOTH (R500): Suppress both heartbeat paths for 2 ms. -/
  | injectBoth (w : Wr)
  /-- BN_CNT_CLEAR (R500): Clear the safety counters. -/
  | bnCntClear (w : Wr)
  /-- FIX (R503): Take a fix by command. -/
  | fix (w : Wr)
  /-- FIX_STOPPED (R504): At 1,000 ns the fix stop completes and FIXED is set. -/
  | fixStopped
  /-- FIX_RESUME (R506): RESUME restarts every stopped island. -/
  | fixResume (w : Wr)
  /-- SCAN (R508): Start scan-out of the package state. -/
  | scan (w : Wr)
  /-- SCAN_DONE (R508): Scan-out ends, or fails on link loss. -/
  | scanDone (ok : Bool)
  /-- DB_CFG_WRITE (R501): Set DEBUG_EN, LOGLINE_EN or FIX_ON_ERR. -/
  | dbCfgWrite (w : Wr)
  /-- DB_WP_CFG_WRITE (R511): Write a watchpoint entry, which takes effect after 2 µs. -/
  | dbWpCfgWrite (n : Fin 16) (w : Wr)
  /-- LOG_PACKET_SEND (R515): The log line sends the next buffered trace packet, round-robin. -/
  | logPacketSend
  /-- TAG_BUCKET_REPORT (R517): Every 10 µs each tile sends its bucket sums. -/
  | tagBucketReport
  /-- DB_TAGF_WRITE (R517): Write a tag filter or mask, clearing its bucket. -/
  | dbTagfWrite (n : Fin 8) (mask : Bool) (w : Wr)
  /-- DB_CNT_CLEAR (R519): Clear every DB_ counter. -/
  | dbCntClear (w : Wr)
  /-- IDENT (R530): Management-port IDENT returns BN_IDENT. -/
  | ident
  /-- STATE (R530): Management-port STATE returns the stage, safety and safe cause. -/
  | state
  /-- ERR_HEAD (R530): Management-port ERR_HEAD returns the head and releases the alert. -/
  | errHead
  /-- ERR_READ (R530): Management-port ERR_READ returns one error record. -/
  | errRead (area : Bool) (entry : Fin 16) (seq : BitVec 32)
  /-- TAP_RESET (R535): A TAP reset selects IDCODE. -/
  | tapReset
  /-- IDCODE (R535): Boundary-scan IDCODE. -/
  | idcode
  /-- SAMPLE_PRELOAD (R536): Boundary-scan SAMPLE/PRELOAD. -/
  | samplePreload
  /-- EXTEST (R537): Boundary-scan EXTEST, effective only in reset. -/
  | extest
  /-- EXTEST_PULSE (R537): IEEE 1149.6 EXTEST_PULSE, effective only in reset. -/
  | extestPulse
  /-- EXTEST_TRAIN (R537): IEEE 1149.6 EXTEST_TRAIN, effective only in reset. -/
  | extestTrain
  /-- CLAMP (R537): Boundary-scan CLAMP, effective only in reset. -/
  | clamp
  /-- HIGHZ (R537): Boundary-scan HIGHZ, effective only in reset. -/
  | highz
  /-- BYPASS (R536): Boundary-scan BYPASS, also taken for any unknown code. -/
  | bypass (code : BitVec 8)
  /-- HC_CACHE_FLUSH_DONE (R56): The write-back and invalidation of the whole Helm-core cache completes and the flush-in-progress bit clears. -/
  | hcCacheFlushDone (t : Tile)
  /-- HARVEST_DONE (R295): A dirty-map harvest finishes its last page record and MT_STATUS busy clears. -/
  | harvestDone
  /-- REACH_INV_DONE (R344): A reach-map invalidation completes within 2 µs and FB_STATUS[0] clears. -/
  | reachInvDone
  /-- SVN_ADVANCE_DONE (R408): The Binnacles finish blowing the fuse bits of an SC_SVN_ADVANCE and the security command ends. -/
  | svnAdvanceDone
  /-- KEY_COMMAND_DONE (R415): A publisher key install or remove ends after reading and checking the record, and the slot digest and SC_STATUS are written. -/
  | keyCommandDone
  /-- CERT_COPY_DONE (R410): The certificate copy to SC_CERT_ADDR completes within 10 µs and the security block is no longer busy. -/
  | certCopyDone
  /-- WARM_RESET_RELEASE (R457): After write-back, ports off, self-refresh and the 1 ms hold, the islands are released and staged start begins. -/
  | warmResetRelease
  /-- POWER_REMOVED (R494): The board removes package power, all state is lost and the error ring and retained area are cleared. -/
  | powerRemoved
  /-- EMERGENCY_OFF_RELEASE (R491): The emergency-off land is released, which changes only the observed line state and lets a later cold reset leave the safe state. -/
  | emergencyOffRelease
  deriving DecidableEq, Repr

end Sys2Proof
end

