-- ==== Sys2Proof/Decode.lean ====
section
/-! DEFINITION. The command that a word spells by the table's bits (none: no row of the table gives bits), and the instruction that
the words at an instruction address spell (R94 to R96, Tables 4-1 to 4-6). -/

namespace Sys2Proof

/-- The command of a table word: none, since no row gives bits. -/
def decodeTableWord (_nbits _w : Nat) : Option Instr := none

/-! ### Fields of an instruction (Table 4-1) -/

/-- Length of an instruction in bytes, by bit 0 of its first word (R94). -/
def insnBytes (w : Word) : Nat := if w.getLsbD 0 then 8 else 4

/-- A 5-bit register field with its lowest bit at `i`. -/
def regAt (w : Word) (i : Nat) : RegNo := (w.extractLsb' i 5).toFin

def fieldRd (w : Word) : RegNo := regAt w 7
def fieldRa (w : Word) : RegNo := regAt w 12
def fieldRb (w : Word) : RegNo := regAt w 17
def fieldFn (w : Word) : BitVec 10 := w.extractLsb' 22 10
def fieldImm15 (w : Word) : BitVec 15 := w.extractLsb' 17 15
def fieldK (w : Word) : BitVec 8 := w.extractLsb' 8 8
def fieldImm16 (w : Word) : BitVec 16 := w.extractLsb' 16 16
def fieldImm48 (w : Word) : BitVec 48 := w.extractLsb' 16 48
def fieldDisp32 (w : Word) : BitVec 32 := w.extractLsb' 32 32

/-- Bits `[i + n - 1 : i]` are zero. -/
def zeroAt (w : Word) (i n : Nat) : Bool := (w >>> i) &&& (2 ^ n - 1) = 0

/-! ### Function codes (Table 4-3) -/

/-- Opcode `0x01`. -/
def decodeAlu (t : Tile) (fn : Nat) (rd ra rb : RegNo) : Option Instr :=
  match fn with
  | 0 => some (.add t rd ra rb)
  | 1 => some (.sub t rd ra rb)
  | 2 => some (.and t rd ra rb)
  | 3 => some (.or t rd ra rb)
  | 4 => some (.xor t rd ra rb)
  | 5 => some (.sll t rd ra rb)
  | 6 => some (.srl t rd ra rb)
  | 7 => some (.sra t rd ra rb)
  | 8 => some (.mul t rd ra rb)
  | 9 => some (.mulh t rd ra rb)
  | 10 => some (.mulhu t rd ra rb)
  | 11 => some (.div t rd ra rb)
  | 12 => some (.divu t rd ra rb)
  | 13 => some (.rem t rd ra rb)
  | 14 => some (.remu t rd ra rb)
  | 15 => some (.slt t rd ra rb)
  | 16 => some (.sltu t rd ra rb)
  | 17 => some (.min t rd ra rb)
  | 18 => some (.max t rd ra rb)
  | _ => none

/-- Opcode `0x20`: `fn[9:8]` is the precision, `fn[7:5]` the rounding, `fn[4:0]` the operation. -/
def decodeFp (t : Tile) (fn : BitVec 10) (rd ra rb : RegNo) : Option Instr :=
  let m : FpMode := ⟨fn.extractLsb' 8 2, fn.extractLsb' 5 3⟩
  match (fn.extractLsb' 0 5).toNat with
  | 0 => some (.fadd t m rd ra rb)
  | 1 => some (.fsub t m rd ra rb)
  | 2 => some (.fmul t m rd ra rb)
  | 3 => some (.fdiv t m rd ra rb)
  | 4 => some (.fsqrt t m rd ra rb)
  | 5 => some (.fmin t m rd ra rb)
  | 6 => some (.fmax t m rd ra rb)
  | 7 => some (.fcvtI t m rd ra rb)
  | 8 => some (.fcvtF t m rd ra rb)
  | 9 => some (.fmvG t m rd ra rb)
  | 10 => some (.fmvF t m rd ra rb)
  | 11 => some (.feq t m rd ra rb)
  | 12 => some (.flt t m rd ra rb)
  | 13 => some (.fle t m rd ra rb)
  | 14 => some (.fabs t m rd ra rb)
  | 15 => some (.fneg t m rd ra rb)
  | _ => none

/-- Opcode `0x28`. -/
def decodeAmo (t : Tile) (h : Hazard) (fn : Nat) (rd ra rb : RegNo) : Option Instr :=
  match fn with
  | 0 => some (.amoAdd t rd ra rb h)
  | 1 => some (.amoSwap t rd ra rb h)
  | 2 => some (.amoAnd t rd ra rb h)
  | 3 => some (.amoOr t rd ra rb h)
  | 4 => some (.amoXor t rd ra rb h)
  | 5 => some (.amoMin t rd ra rb h)
  | 6 => some (.amoMax t rd ra rb h)
  | 7 => some (.amoMinu t rd ra rb h)
  | 8 => some (.amoMaxu t rd ra rb h)
  | 9 => some (.amoCas t rd ra rb h)
  | _ => none

/-- Opcode `0x30`. -/
def decodeFence (t : Tile) (fn : Nat) : Option Instr :=
  match fn with
  | 0 => some (.fenceT t)
  | 1 => some (.fenceP t)
  | 2 => some (.fenceD t)
  | _ => none

/-! ### Opcodes -/

/-- A 32-bit instruction (Table 4-2). The operand checks of its own rows (an unused fn bit, a t register beyond the file, a condition)
stand in their meanings. -/
def decodeShort (t : Tile) (h : Hazard) (w : Word) : Option Instr :=
  let rd := fieldRd w
  let ra := fieldRa w
  let rb := fieldRb w
  let fn := fieldFn w
  let imm := fieldImm15 w
  match (w.extractLsb' 1 6).toNat with
  | 0x01 => decodeAlu t fn.toNat rd ra rb
  | 0x02 => some (.addi t rd ra imm)
  | 0x03 => some (.andi t rd ra imm)
  | 0x04 => some (.ori t rd ra imm)
  | 0x05 => some (.xori t rd ra imm)
  | 0x06 => some (.shi t rd ra imm)
  | 0x07 => some (.slti t rd ra imm)
  | 0x08 => some (.lb t rd ra imm h)
  | 0x09 => some (.lbu t rd ra imm h)
  | 0x0A => some (.lh t rd ra imm h)
  | 0x0B => some (.lhu t rd ra imm h)
  | 0x0C => some (.lw t rd ra imm h)
  | 0x0D => some (.lwu t rd ra imm h)
  | 0x0E => some (.ld t rd ra imm h)
  | 0x10 => some (.sb t rd ra imm h)
  | 0x11 => some (.sh t rd ra imm h)
  | 0x12 => some (.sw t rd ra imm h)
  | 0x13 => some (.sd t rd ra imm h)
  | 0x18 => some (.bCond t (w.extractLsb' 17 3) rd ra (w.extractLsb' 20 12))
  | 0x19 => some (.jal t rd (w.extractLsb' 12 20))
  | 0x1A => some (.jalr t rd ra imm)
  | 0x20 => decodeFp t fn rd ra rb
  | 0x21 => some (.fld t rd ra imm h)
  | 0x22 => some (.fsd t rd ra imm h)
  | 0x23 => some (.flw t rd ra imm h)
  | 0x24 => some (.fsw t rd ra imm h)
  | 0x28 => decodeAmo t h fn.toNat rd ra rb
  | 0x2C => if zeroAt w 7 1 && zeroAt w 21 11 then some (.twait t (fieldK w) (regAt w 16)) else none
  | 0x2D => if zeroAt w 7 1 then some (.tsigi t (fieldK w) (fieldImm16 w)) else none
  | 0x2E => if zeroAt w 7 1 && zeroAt w 21 11 then some (.tsig t (fieldK w) (regAt w 16)) else none
  | 0x30 => if zeroAt w 7 15 then decodeFence t fn.toNat else none
  | 0x32 => if zeroAt w 7 25 then some (.stepend t) else none
  | 0x33 => some (.rdst t rd fn)
  | 0x34 => some (.wrst t ra fn)
  | 0x38 => some (.tld t rd ra imm h)
  | 0x39 => some (.tst t rd ra imm h)
  | 0x3A => some (.tset t rd ra fn)
  | 0x3B => some (.tget t rd ra fn)
  | _ => none

/-- The fields of the LT format (Table 4-5). -/
def tensorFields (w : Word) : TensorInsn :=
  { gd := fieldRd w, gs := fieldRa w, td := w.extractLsb' 17 4, ta := w.extractLsb' 21 4, tb := w.extractLsb' 25 4,
    var := w.extractLsb' 29 3, we := w.getLsbD 32, wr := w.getLsbD 33, wk := w.extractLsb' 34 8, wv := w.extractLsb' 42 7,
    se := w.getLsbD 49, sr := w.getLsbD 50, sk := w.extractLsb' 51 8, sv := w.extractLsb' 59 5 }

/-- A tensor instruction, by its long opcode (Table 4-6). -/
def decodeTensor (t : Tile) (w : Word) : Option Instr :=
  let i := tensorFields w
  match (w.extractLsb' 1 6).toNat with
  | 0x10 => some (.tmm t i)
  | 0x11 => some (.tscore t i)
  | 0x12 => some (.tread t i)
  | 0x18 => some (.tvop t i)
  | 0x19 => some (.tcvt t i)
  | 0x1A => some (.tsfn t i)
  | 0x1B => some (.tstat t i)
  | 0x1C => some (.tnorm t i)
  | 0x1D => some (.tsmax t i)
  | 0x1E => some (.troute t i)
  | 0x1F => some (.tcomb t i)
  | 0x20 => some (.tpld t i)
  | 0x21 => some (.tgath t i)
  | 0x28 => some (.tstw t i)
  | 0x29 => some (.tscat t i)
  | 0x2A => some (.tatom t i)
  | 0x30 => some (.tcred t i)
  | 0x31 => some (.tcgath t i)
  | 0x32 => some (.tcrow t i)
  | 0x38 => some (.ttoken t i)
  | 0x39 => some (.tfence t i)
  | _ => none

/-- A long form (Table 4-4). -/
def decodeLong (t : Tile) (h : Hazard) (w : Word) : Option Instr :=
  let rd := fieldRd w
  let ra := fieldRa w
  match (w.extractLsb' 1 6).toNat with
  | 0x01 => if zeroAt w 12 4 then some (.li t rd (fieldImm48 w)) else none
  | 0x02 => if zeroAt w 12 4 then some (.lih t rd (fieldImm48 w)) else none
  | 0x03 => if zeroAt w 17 15 then some (.ldl t rd ra (fieldDisp32 w) h) else none
  | 0x04 => if zeroAt w 17 15 then some (.sdl t rd ra (fieldDisp32 w) h) else none
  | 0x06 => if zeroAt w 7 9 then some (.settag t (fieldImm48 w)) else none
  | _ => decodeTensor t w

/-- The instruction of a tile that the words at an instruction address spell, the first in bits `[31:0]` and the next in bits
`[63:32]` (R94); `none` for an opcode, a function value, or an RSV bit without an instruction (R95). A memory access meets the
hazard. -/
def decodeInsn (t : Tile) (h : Hazard) (w : Word) : Option Instr :=
  if w.getLsbD 0 then decodeLong t h w else decodeShort t h w

end Sys2Proof
end

