-- ==== Sys2Proof/Config.lean ====
section
/-! DEFINITION. What one part fixes and the spec leaves open, or names by a standard whose bits are not in the spec:
constants without a body, so that nothing can be proved about their values. -/

namespace Sys2Proof

/-- DESIGN CHOICE (log 3): a fresh free value for each number, drawn from the state's counter where the spec states no value. -/
opaque Config.free : Nat → Word

/-- DESIGN CHOICE (log 4): the choice among the results that a stated bound allows (R541), the same for the same operands.
The first argument names the function, the others are its operands. -/
opaque Config.pick : Nat → Word → Word → Word → Nat

/-- DESIGN CHOICE (log 6): whether an engine's access number `n` finds the written-back form of the dirty line (R88, R549). -/
opaque Config.seesDirty : Nat → Nat → Bool

/-- DESIGN CHOICE (log 3): bytes of a scan that show what the model does not hold (R509): by fix time, tile, offset. -/
opaque Config.unseen : Word → Nat → Nat → Byte

/-- DESIGN CHOICE (log 20): how many cycles a clock ticks, or a counter of waiting counts, in the nanosecond that begins at a time, by
the BAR0 offset of its register. -/
opaque Config.elapsed : Word → Nat → Nat

/-- DESIGN CHOICE (log 114): which of the 25 depths that R447 allows the crossing between the mesh and a tile's command inbox has. -/
opaque Config.crossingDepth : Nat

/-- DESIGN CHOICE (log 103, log 3): byte `i` of a control block's payload whose layout the spec does not give (all but the capability block,
Table 12-4), by what the block says; or of a section of a scan (R509), by what it shows. -/
opaque Config.layout : List Nat → Nat → Byte

/-- DESIGN CHOICE (log 101): of two bytes of an interleave that lie 255 places apart, which the code cannot tell apart, whether a
corrected error lies in the one of higher degree: by the syndromes and the lower degree (R315). -/
opaque Config.highByte : List Byte → Nat → Bool

/-- DESIGN CHOICE (log 7): the device identity key: its modulus, and the private exponent that nothing outside the package knows (R409). -/
opaque Config.identityModulus : Nat
opaque Config.identityExponent : Nat

/-- DESIGN CHOICE (log 8): the fused digest of the firmware key, the serial number and the certificate (R404, R409, R410). -/
opaque Config.rootDigest : List Byte
opaque Config.serial : BitVec 128
opaque Config.certificate : List Byte

end Sys2Proof
end

