-- ==== Sys2Proof/Machine/Hash.lean ====
section
/-! DEFINITION. SHA-512, and RSASSA-PSS of RFC 8017 with SHA-512, MGF1 with SHA-512, a 64-byte salt and a 4,096-bit modulus (R380). The
spec names both by their standards; what the standards say stands here (PRESUMED, log 7). -/

namespace Sys2Proof.Machine

open Sys2Proof

/-! ### SHA-512 -/

/-- The eighty round constants. -/
def shaK : List Word :=
  [0x428A2F98D728AE22#64, 0x7137449123EF65CD#64, 0xB5C0FBCFEC4D3B2F#64, 0xE9B5DBA58189DBBC#64] ++
  [0x3956C25BF348B538#64, 0x59F111F1B605D019#64, 0x923F82A4AF194F9B#64, 0xAB1C5ED5DA6D8118#64] ++
  [0xD807AA98A3030242#64, 0x12835B0145706FBE#64, 0x243185BE4EE4B28C#64, 0x550C7DC3D5FFB4E2#64] ++
  [0x72BE5D74F27B896F#64, 0x80DEB1FE3B1696B1#64, 0x9BDC06A725C71235#64, 0xC19BF174CF692694#64] ++
  [0xE49B69C19EF14AD2#64, 0xEFBE4786384F25E3#64, 0x0FC19DC68B8CD5B5#64, 0x240CA1CC77AC9C65#64] ++
  [0x2DE92C6F592B0275#64, 0x4A7484AA6EA6E483#64, 0x5CB0A9DCBD41FBD4#64, 0x76F988DA831153B5#64] ++
  [0x983E5152EE66DFAB#64, 0xA831C66D2DB43210#64, 0xB00327C898FB213F#64, 0xBF597FC7BEEF0EE4#64] ++
  [0xC6E00BF33DA88FC2#64, 0xD5A79147930AA725#64, 0x06CA6351E003826F#64, 0x142929670A0E6E70#64] ++
  [0x27B70A8546D22FFC#64, 0x2E1B21385C26C926#64, 0x4D2C6DFC5AC42AED#64, 0x53380D139D95B3DF#64] ++
  [0x650A73548BAF63DE#64, 0x766A0ABB3C77B2A8#64, 0x81C2C92E47EDAEE6#64, 0x92722C851482353B#64] ++
  [0xA2BFE8A14CF10364#64, 0xA81A664BBC423001#64, 0xC24B8B70D0F89791#64, 0xC76C51A30654BE30#64] ++
  [0xD192E819D6EF5218#64, 0xD69906245565A910#64, 0xF40E35855771202A#64, 0x106AA07032BBD1B8#64] ++
  [0x19A4C116B8D2D0C8#64, 0x1E376C085141AB53#64, 0x2748774CDF8EEB99#64, 0x34B0BCB5E19B48A8#64] ++
  [0x391C0CB3C5C95A63#64, 0x4ED8AA4AE3418ACB#64, 0x5B9CCA4F7763E373#64, 0x682E6FF3D6B2B8A3#64] ++
  [0x748F82EE5DEFB2FC#64, 0x78A5636F43172F60#64, 0x84C87814A1F0AB72#64, 0x8CC702081A6439EC#64] ++
  [0x90BEFFFA23631E28#64, 0xA4506CEBDE82BDE9#64, 0xBEF9A3F7B2C67915#64, 0xC67178F2E372532B#64] ++
  [0xCA273ECEEA26619C#64, 0xD186B8C721C0C207#64, 0xEADA7DD6CDE0EB1E#64, 0xF57D4F7FEE6ED178#64] ++
  [0x06F067AA72176FBA#64, 0x0A637DC5A2C898A6#64, 0x113F9804BEF90DAE#64, 0x1B710B35131C471B#64] ++
  [0x28DB77F523047D84#64, 0x32CAAB7B40C72493#64, 0x3C9EBE0A15C9BEBC#64, 0x431D67C49C100D4C#64] ++
  [0x4CC5D4BECB3E42B6#64, 0x597F299CFC657E2A#64, 0x5FCB6FAB3AD6FAEC#64, 0x6C44198C4A475817#64]

/-- The eight words of the state, and the sixteen words of the message schedule that come next. -/
structure Sha where
  a : Word
  b : Word
  c : Word
  d : Word
  e : Word
  f : Word
  g : Word
  h : Word
  ws : List Word

/-- The state before the first block. -/
def shaStart : Sha :=
  ⟨0x6A09E667F3BCC908, 0xBB67AE8584CAA73B, 0x3C6EF372FE94F82B, 0xA54FF53A5F1D36F1,
    0x510E527FADE682D1, 0x9B05688C2B3E6C1F, 0x1F83D9ABFB41BD6B, 0x5BE0CD19137E2179, []⟩

/-- The word that joins the schedule. -/
def shaNext (ws : List Word) : Word :=
  let x := ws.getD 1 0
  let y := ws.getD 14 0
  (y.rotateRight 19 ^^^ y.rotateRight 61 ^^^ (y >>> 6)) + ws.getD 9 0 + (x.rotateRight 1 ^^^ x.rotateRight 8 ^^^ (x >>> 7)) + ws.getD 0 0

/-- One round. -/
def Sha.round (s : Sha) (k : Word) : Sha :=
  let t1 := s.h + (s.e.rotateRight 14 ^^^ s.e.rotateRight 18 ^^^ s.e.rotateRight 41) + ((s.e &&& s.f) ^^^ (~~~ s.e &&& s.g)) + k + s.ws.getD 0 0
  let t2 := (s.a.rotateRight 28 ^^^ s.a.rotateRight 34 ^^^ s.a.rotateRight 39) + ((s.a &&& s.b) ^^^ (s.a &&& s.c) ^^^ (s.b &&& s.c))
  ⟨t1 + t2, s.a, s.b, s.c, s.d + t1, s.e, s.f, s.g, s.ws.drop 1 ++ [shaNext s.ws]⟩

/-- Big-endian bytes of a number, and the number that they spell. -/
def toOctets (n v : Nat) : List Byte := (List.range n).map fun i => BitVec.ofNat 8 (v >>> (8 * (n - 1 - i)))
def ofOctets (bs : List Byte) : Nat := bs.foldl (fun n b => n * 256 + b.toNat) 0

/-- One block of 128 bytes. -/
def Sha.block (s : Sha) (bs : List Byte) : Sha :=
  let ws := (List.range 16).map fun i => BitVec.ofNat 64 (ofOctets ((bs.drop (8 * i)).take 8))
  let r := shaK.foldl Sha.round { s with ws := ws }
  ⟨s.a + r.a, s.b + r.b, s.c + r.c, s.d + r.d, s.e + r.e, s.f + r.f, s.g + r.g, s.h + r.h, []⟩

/-- A message with its padding: a one bit, zeros, the length in bits. -/
def shaPad (bs : List Byte) : List Byte :=
  bs ++ [0x80] ++ List.replicate ((239 - bs.length % 128) % 128) 0 ++ toOctets 16 (8 * bs.length)

/-- The digest: 64 bytes. -/
def sha512 (bs : List Byte) : List Byte :=
  let m := shaPad bs
  let s := (List.range (m.length / 128)).foldl (fun s i => s.block ((m.drop (128 * i)).take 128)) shaStart
  [s.a, s.b, s.c, s.d, s.e, s.f, s.g, s.h].flatMap fun w => toOctets 8 w.toNat

/-! ### RSASSA-PSS -/

/-- Octets of a modulus, a signature and an encoded message; of a digest and a salt. -/
def rsaLen : Nat := 512
def shaLen : Nat := 64

/-- Mask generation MGF1. -/
def mgf1 (seed : List Byte) (n : Nat) : List Byte :=
  ((List.range ((n + shaLen - 1) / shaLen)).flatMap fun i => sha512 (seed ++ toOctets 4 i)).take n

def xorBytes (a b : List Byte) : List Byte := (a.zip b).map fun p => p.1 ^^^ p.2

/-- The leftmost bit of an encoded message of 4,095 bits is zero. -/
def clearTop (bs : List Byte) : List Byte := match bs with | b :: r => (b &&& 0x7F) :: r | [] => []

/-- The hash over the message's digest and the salt. -/
def pssHash (msg salt : List Byte) : List Byte := sha512 (List.replicate 8 0 ++ sha512 msg ++ salt)

/-- Octets of the masked data block, and of its zeros before the one and the salt. -/
def dbLen : Nat := rsaLen - shaLen - 1
def zeroLen : Nat := dbLen - shaLen - 1

/-- EMSA-PSS-ENCODE. -/
def pssEncode (msg salt : List Byte) : List Byte :=
  let h := pssHash msg salt
  clearTop (xorBytes (List.replicate zeroLen 0 ++ [0x01] ++ salt) (mgf1 h dbLen)) ++ h ++ [0xBC]

/-- EMSA-PSS-VERIFY. -/
def pssVerify (msg em : List Byte) : Bool :=
  let masked := em.take dbLen
  let h := (em.drop dbLen).take shaLen
  let db := clearTop (xorBytes masked (mgf1 h dbLen))
  em.drop (rsaLen - 1) = [0xBC] && clearTop masked = masked && db.take zeroLen = List.replicate zeroLen 0 &&
  (db.drop zeroLen).take 1 = [0x01] && h = pssHash msg (db.drop (zeroLen + 1))

/-- `b ^ e` modulo `n`, for an exponent of at most the given number of bits. -/
def powMod (n : Nat) : Nat → Nat → Nat → Nat
  | 0, _, _ => 1 % n
  | k + 1, b, e =>
    let h := powMod n k (b * b % n) (e / 2)
    if e % 2 = 1 then b * h % n else h

/-- Bits of a modulus. -/
def rsaBits : Nat := 8 * rsaLen

/-- A signature verifies under a modulus of 4,096 bits and the exponent 65,537. -/
def rsaVerify (modulus msg sig : List Byte) : Bool :=
  let n := ofOctets modulus
  let x := ofOctets sig
  sig.length = rsaLen && x < n && 2 ^ (rsaBits - 1) ≤ n && pssVerify msg (toOctets rsaLen (powMod n 17 x 65537))

/-- The signature of a message made with the device identity key and a salt (R409, R413). -/
def rsaSign (msg salt : List Byte) : List Byte :=
  toOctets rsaLen (powMod Config.identityModulus rsaBits (ofOctets (pssEncode msg salt)) Config.identityExponent)

end Sys2Proof.Machine
end

