-- ==== Sys2Proof/Machine/Map.lean ====
section
/-! DEFINITION. The operations of the sparse maps: look-up, replacement and the canonical form.
A key that is not listed holds the map's default; `put` never lists the default. -/

namespace Sys2Proof.Machine

/-- The listed entry of key `k`, if any. -/
def FMap.find? {β : Type} : FMap β → Nat → Option β
  | [], _ => none
  | (a, b) :: m, k => if a = k then some b else FMap.find? m k

/-- What key `k` holds, with default `d`. -/
def FMap.get {β : Type} (d : β) (m : FMap β) (k : Nat) : β :=
  (FMap.find? m k).getD d

/-- Remove key `k`. -/
def FMap.erase {β : Type} : FMap β → Nat → FMap β
  | [], _ => []
  | (a, b) :: m, k => if a = k then FMap.erase m k else (a, b) :: FMap.erase m k

/-- List `b` at key `k`, keeping the keys in rising order. -/
def FMap.insert {β : Type} : FMap β → Nat → β → FMap β
  | [], k, b => [(k, b)]
  | (a, c) :: m, k, b =>
    if k < a then (k, b) :: (a, c) :: m
    else if k = a then (k, b) :: m
    else (a, c) :: FMap.insert m k b

/-- Key `k` holds `b` from now on; the default is held by not being listed. -/
def FMap.put {β : Type} [DecidableEq β] (d : β) (m : FMap β) (k : Nat) (b : β) : FMap β :=
  if b = d then FMap.erase m k else FMap.insert m k b

/-- Strictly rising keys. -/
def FMap.sorted {β : Type} (m : FMap β) : Bool := decide (m.Pairwise fun x y => x.1 < y.1)

/-- The canonical form of a map with default `d`: strictly rising keys, and the default is not listed. -/
def FMap.canon {β : Type} [DecidableEq β] (d : β) (m : FMap β) : Bool := FMap.sorted m && m.all fun x => x.2 ≠ d

/-- Keep the entries whose key satisfies `p`. -/
def FMap.keep {β : Type} (p : Nat → Bool) (m : FMap β) : FMap β :=
  m.filter (fun x => p x.1)

/-- Write a list of values at consecutive keys from `k`. -/
def FMap.putList {β : Type} [DecidableEq β] (d : β) (m : FMap β) (k : Nat) : List β → FMap β
  | [] => m
  | b :: bs => FMap.putList d (FMap.put d m k b) (k + 1) bs

/-- The values of `n` consecutive keys from `k`. -/
def FMap.getList {β : Type} (d : β) (m : FMap β) (k : Nat) : Nat → List β
  | 0 => []
  | n + 1 => FMap.get d m k :: FMap.getList d m (k + 1) n

/-- Set every key from `k` for `n` keys back to the default. -/
def FMap.clear {β : Type} (m : FMap β) (k n : Nat) : FMap β :=
  FMap.keep (fun a => ! (k ≤ a && a < k + n)) m

end Sys2Proof.Machine
end

