-- ==== Sys2Proof/Machine/Fec.lean ====
section
/-! DEFINITION. The light FEC (R315): the Reed–Solomon code RS(296,280) over GF(2^8), four interleaves to a codeword, byte `i` of the
data in interleave `i mod 4`. Where the spec leaves the arrangement open (DESIGN CHOICE, log 101), the check bytes follow the data in the
same order, and the first byte of an interleave is its coefficient of highest degree. -/

namespace Sys2Proof.Machine

open Sys2Proof

/-! ### GF(2^8) with polynomial `x^8 + x^4 + x^3 + x^2 + 1` -/

def gfTwice (a : Byte) : Byte := if a.getLsbD 7 then (a <<< 1) ^^^ 0x1D#8 else a <<< 1

/-- The product: shift and add. -/
def gfMul (a b : Byte) : Byte :=
  ((List.range 8).foldl (fun (p : Byte × Byte) i => (if b.getLsbD i then p.1 ^^^ p.2 else p.1, gfTwice p.2)) (0, a)).1

def gfPow (a : Byte) : Nat → Byte
  | 0 => 1
  | n + 1 => gfMul a (gfPow a n)

/-- The inverse of a non-zero element: its power 254. -/
def gfInv (a : Byte) : Byte := gfPow a 254

/-- `α^n`; the order of α is 255. -/
def gfAlpha (n : Nat) : Byte := gfPow 2 (n % 255)

/-- A polynomial, lowest coefficient first, at a point. -/
def gfEval (p : List Byte) (x : Byte) : Byte := p.foldr (fun c acc => gfMul acc x ^^^ c) 0

/-- Sum of two polynomials. -/
def gfAdd : List Byte → List Byte → List Byte
  | [], q => q
  | p, [] => p
  | a :: p, b :: q => (a ^^^ b) :: gfAdd p q

def gfScale (k : Byte) (p : List Byte) : List Byte := p.map (gfMul k)
def gfShift (n : Nat) (p : List Byte) : List Byte := List.replicate n 0 ++ p

/-- The first `n` coefficients of a product. -/
def gfProduct (n : Nat) : List Byte → List Byte → List Byte
  | [], _ => []
  | a :: p, q => (gfAdd (gfScale a q) (0 :: gfProduct n p q)).take n

/-! ### One interleave -/

/-- Check bytes of an interleave, and the byte errors that it corrects at most. -/
def rsCheck : Nat := 16
def rsLimit : Nat := 8

/-- The word as a polynomial, lowest coefficient first, at the generator's roots `α^0` to `α^15`. -/
def syndromes (p : List Byte) : List Byte := (List.range rsCheck).map fun j => gfEval p (gfAlpha j)

/-- Berlekamp and Massey's search: locator, previous locator, its length, shift, previous discrepancy. -/
structure Search where
  c : List Byte
  b : List Byte
  len : Nat
  m : Nat
  d : Byte

/-- One syndrome of the search. -/
def Search.step (syn : List Byte) (x : Search) (n : Nat) : Search :=
  let d := (List.range (x.len + 1)).foldl (fun acc i => acc ^^^ gfMul (x.c.getD i 0) (if i ≤ n then syn.getD (n - i) 0 else 0)) 0
  if d = 0 then { x with m := x.m + 1 }
  else
    let c := gfAdd x.c (gfShift x.m (gfScale (gfMul d (gfInv x.d)) x.b))
    if 2 * x.len ≤ n then ⟨c, x.c, n + 1 - x.len, 1, d⟩ else { x with c := c, m := x.m + 1 }

def Search.run (syn : List Byte) : Search := (List.range rsCheck).foldl (Search.step syn) ⟨[1], [1], 0, 1, 1⟩

/-- The derivative of a polynomial over GF(2^8): the odd terms. -/
def gfDeriv (p : List Byte) : List Byte := (List.range (p.length - 1)).map fun i => if i % 2 = 0 then p.getD (i + 1) 0 else 0

/-- The degrees below `n` at which a locator finds errors. α has 255 powers and an interleave 296 bytes, so the same power stands for a
degree and the one 255 above it: which of the two it is, is open (log 101). -/
def errorsAt (syn c : List Byte) (n : Nat) : List Nat :=
  ((List.range (min 255 n)).filter fun e => gfEval c (gfAlpha (255 - e)) = 0).map fun e =>
    if e + 255 < n && Config.highByte syn e then e + 255 else e

/-- The value of the error of a degree (Forney's formula for the first root `α^0`). -/
def errorValue (c w : List Byte) (e : Nat) : Byte :=
  let x := gfAlpha e
  let y := gfAlpha (255 - e % 255)
  gfMul (gfMul x (gfEval w y)) (gfInv (gfEval (gfDeriv c) y))

/-- A received polynomial corrected: a codeword within 8 byte errors and the number of errors, or none. -/
def rsCorrect (p : List Byte) : Option (List Byte × Nat) :=
  let syn := syndromes p
  if syn.all (· = 0) then some (p, 0)
  else
    let s := Search.run syn
    let es := errorsAt syn s.c p.length
    let w := gfProduct rsCheck syn s.c
    let q := p.zipIdx.map fun x => if es.contains x.2 then x.1 ^^^ errorValue s.c w x.2 else x.1
    if s.len ≤ rsLimit && es.length = s.len && (syndromes q).all (· = 0) then some (q, es.length) else none

/-! ### Codewords -/

/-- Bytes of a codeword, and of its data: four blocks. -/
def codewordBytes : Nat := 1184
def codewordData : Nat := 1120

/-- Interleave `k` of a codeword, as a polynomial. -/
def interleave (bs : List Byte) (k : Nat) : List Byte := ((List.range (bs.length / 4)).map fun i => bs.getD (4 * i + k) 0).reverse

/-- The four blocks of a codeword's data. -/
def blocksOfData (bs : List Byte) : List (List Byte) := (List.range 4).map fun i => (bs.drop (280 * i)).take 280

/-- Decode a codeword: its blocks and whether it was corrected; none when an interleave cannot be corrected. -/
def decodeCodeword (bs : List Byte) : Option (List (List Byte) × Bool) :=
  match rsCorrect (interleave bs 0), rsCorrect (interleave bs 1), rsCorrect (interleave bs 2), rsCorrect (interleave bs 3) with
  | some a, some b, some c, some d =>
    let rows := [a.1.reverse, b.1.reverse, c.1.reverse, d.1.reverse]
    let data := (List.range codewordData).map fun i => (rows.getD (i % 4) []).getD (i / 4) 0
    some (blocksOfData data, a.2 + b.2 + c.2 + d.2 != 0)
  | _, _, _, _ => none

/-- The check bytes of an interleave's data, highest degree first: the remainder by the generator. -/
def rsParity (data : List Byte) : List Byte :=
  let gen := (List.range rsCheck).foldl (fun g j => gfAdd (gfShift 1 g) (gfScale (gfAlpha j) g)) [1]
  let low := (gen.take rsCheck).reverse
  data.foldl (fun r b =>
    let f := b ^^^ r.headD 0
    (r.drop 1 ++ [0]).zipWith (· ^^^ ·) (gfScale f low)) (List.replicate rsCheck 0)

/-- The codeword of four blocks. -/
def encodeCodeword (blocks : List (List Byte)) : List Byte :=
  let data := blocks.flatten
  let rows := (List.range 4).map fun k => rsParity ((List.range (codewordData / 4)).map fun i => data.getD (4 * i + k) 0)
  data ++ (List.range (codewordBytes - codewordData)).map fun i => (rows.getD (i % 4) []).getD (i / 4) 0

end Sys2Proof.Machine
end

