-- ==== Sys2Proof/Machine/Float.lean ====
section
/-! DEFINITION. Exact dyadic numbers, rounding into a binary format, and the IEEE 754 operations of the scalar and vector
units (R69, R70, R98, R140, R147). A finite value is kept as sign, magnitude and exponent; every operation forms the exact
result and rounds once. -/

namespace Sys2Proof.Machine

/-- A decoded number: NaN, an infinity, or `(-1)^neg * m * 2^e`; the sign of a zero is kept. -/
inductive Num where
  | nan
  | inf (neg : Bool)
  | fin (neg : Bool) (m : Nat) (e : Int)
  deriving DecidableEq, Repr

/-- Rounding modes (Table 4-3, Table 5-4). -/
inductive Rnd where
  | rne | rtz | down | up | rna
  deriving DecidableEq, Repr

/-- A floating-point encoding: exponent and mantissa widths, bias, exponent of the largest normal value, and whether the
top exponent holds infinities and NaNs (IEEE), one NaN code only (E4M3), or nothing special (Table 5-2). -/
structure Enc where
  ebits : Nat
  mbits : Nat
  bias : Nat
  emax : Int
  special : Fin 3
  deriving DecidableEq, Repr

def Enc.b64 : Enc := ⟨11, 52, 1023, 1023, 0⟩
def Enc.fp32 : Enc := ⟨8, 23, 127, 127, 0⟩
def Enc.bf16 : Enc := ⟨8, 7, 127, 127, 0⟩
def Enc.e4m3 : Enc := ⟨4, 3, 7, 8, 1⟩
def Enc.e5m2 : Enc := ⟨5, 2, 15, 15, 0⟩
def Enc.e3m2 : Enc := ⟨3, 2, 3, 4, 2⟩
def Enc.e2m3 : Enc := ⟨2, 3, 1, 2, 2⟩
def Enc.e2m1 : Enc := ⟨2, 1, 1, 2, 2⟩

/-- The exponent of the smallest normal value. -/
def Enc.emin (f : Enc) : Int := 1 - (f.bias : Int)

/-- The largest finite magnitude, as a magnitude and an exponent: E4M3 keeps its all-ones mantissa for NaN (R140). -/
def Enc.fmax (f : Enc) : Nat × Int :=
  let m := if f.special = 1 then 2 ^ (f.mbits + 1) - 2 else 2 ^ (f.mbits + 1) - 1
  (m, f.emax - (f.mbits : Int))

/-- `m * 2^e` as a multiple of `2^q`, for `q <= e`. -/
def scaleTo (m : Nat) (e q : Int) : Nat := m <<< (e - q).toNat

/-- Comparison of magnitudes `m1 * 2^e1 < m2 * 2^e2`. -/
def magLt (a b : Nat × Int) : Bool :=
  let q := min a.2 b.2
  scaleTo a.1 a.2 q < scaleTo b.1 b.2 q

/-- Comparison of magnitudes for equality. -/
def magEq (a b : Nat × Int) : Bool :=
  let q := min a.2 b.2
  scaleTo a.1 a.2 q = scaleTo b.1 b.2 q

/-- Round the quotient part `m`, with `r` the discarded part in units where the whole is `2 * half` (`half > 0`),
and `sticky` for a further non-zero tail. -/
def roundUnit (mode : Rnd) (neg : Bool) (m r half : Nat) (sticky : Bool) : Nat :=
  let above := r > half || (r = half && sticky)
  let tie := r = half && ! sticky
  let some := r > 0 || sticky
  match mode with
  | .rne => if above || (tie && m % 2 = 1) then m + 1 else m
  | .rna => if above || tie then m + 1 else m
  | .rtz => m
  | .down => if neg && some then m + 1 else m
  | .up => if ! neg && some then m + 1 else m

/-- Round the magnitude `m * 2^e` (plus a positive tail below one unit of it when `sticky`) to multiples of `2^q`. -/
def roundAt (mode : Rnd) (neg : Bool) (m : Nat) (e : Int) (sticky : Bool) (q : Int) : Nat :=
  if q ≤ e then roundUnit mode neg (scaleTo m e q) 0 1 sticky
  else
    let k := (q - e).toNat
    roundUnit mode neg (m >>> k) (m % 2 ^ k) (2 ^ (k - 1)) sticky

/-- Round a non-zero magnitude to the precision of an encoding, subnormals included and without an upper limit
(R149: rounded without saturation). The caller gives enough bits in `m` when `sticky` is set. -/
def Enc.roundMag (f : Enc) (mode : Rnd) (neg : Bool) (m : Nat) (e : Int) (sticky : Bool) : Nat × Int :=
  let top : Int := e + (Nat.log2 m : Int)
  let q := max top f.emin - (f.mbits : Int)
  (roundAt mode neg m e sticky q, q)

/-- IEEE overflow of the mode: to infinity or to the largest finite value (R149). -/
def overflowToInf (mode : Rnd) (neg : Bool) : Bool :=
  match mode with
  | .rne | .rna => true
  | .rtz => false
  | .down => neg
  | .up => ! neg

/-- Round a magnitude into an encoding with infinities (FP32, BF16, binary64). -/
def Enc.round (f : Enc) (mode : Rnd) (neg : Bool) (m : Nat) (e : Int) (sticky : Bool) : Num :=
  if m = 0 && ! sticky then .fin neg 0 0
  else
    let m1 := if m = 0 then 1 else m
    let e1 := if m = 0 then f.emin - (f.mbits : Int) - 4 else e
    let r := f.roundMag mode neg m1 e1 sticky
    if magLt f.fmax r then
      if overflowToInf mode neg then .inf neg else .fin neg f.fmax.1 f.fmax.2
    else .fin neg r.1 r.2

/-- Decode a code of an encoding. -/
def Enc.decode (f : Enc) (c : Nat) : Num :=
  let mant := c % 2 ^ f.mbits
  let ex := (c >>> f.mbits) % 2 ^ f.ebits
  let neg := (c >>> (f.mbits + f.ebits)) % 2 = 1
  if f.special = 0 && ex = 2 ^ f.ebits - 1 then
    if mant = 0 then .inf neg else .nan
  else if f.special = 1 && ex = 2 ^ f.ebits - 1 && mant = 2 ^ f.mbits - 1 then .nan
  else if ex = 0 then .fin neg mant (f.emin - (f.mbits : Int))
  else .fin neg (mant + 2 ^ f.mbits) ((ex : Int) - (f.bias : Int) - (f.mbits : Int))

/-- The code of a value that the encoding represents exactly; the canonical quiet NaN for a NaN (R70, R162). -/
def Enc.encode (f : Enc) (x : Num) : Nat :=
  let sgn := fun (neg : Bool) => if neg then 2 ^ (f.mbits + f.ebits) else 0
  match x with
  | .nan =>
    if f.special = 1 then 2 ^ (f.mbits + f.ebits) - 1
    else (2 ^ f.ebits - 1) * 2 ^ f.mbits + 2 ^ (f.mbits - 1)
  | .inf neg => sgn neg + (2 ^ f.ebits - 1) * 2 ^ f.mbits
  | .fin neg m e =>
    if m = 0 then sgn neg
    else
      let top : Int := e + (Nat.log2 m : Int)
      let q := max top f.emin - (f.mbits : Int)
      let k := if q ≤ e then scaleTo m e q else m >>> (q - e).toNat
      if k < 2 ^ f.mbits then sgn neg + k
      else sgn neg + (k - 2 ^ f.mbits) + (max top f.emin + (f.bias : Int)).toNat * 2 ^ f.mbits

/-- Round any number into an encoding with infinities, as a number. -/
def Enc.fit (f : Enc) (mode : Rnd) : Num → Num
  | .nan => .nan
  | .inf n => .inf n
  | .fin n m e => f.round mode n m e false

def Num.isNan : Num → Bool
  | .nan => true
  | _ => false

def Num.isFin : Num → Bool
  | .fin .. => true
  | _ => false

def Num.isZero : Num → Bool
  | .fin _ 0 _ => true
  | _ => false

def Num.neg : Num → Num
  | .nan => .nan
  | .inf n => .inf (! n)
  | .fin n m e => .fin (! n) m e

def Num.abs : Num → Num
  | .nan => .nan
  | .inf _ => .inf false
  | .fin _ m e => .fin false m e

/-- The exact value of a finite number in units of `2^q`, `q` not above its exponent. -/
def Num.units (q : Int) : Num → Int
  | .fin n m e => if n then - (scaleTo m e q : Int) else (scaleTo m e q : Int)
  | _ => 0

/-- The exponent of a finite number. -/
def Num.expo : Num → Int
  | .fin _ _ e => e
  | _ => 0

/-- The exact number of `i` units of `2^q`. -/
def Num.ofUnits (i : Int) (q : Int) : Num := .fin (i < 0) i.natAbs q

/-- Exact sum. A zero sum of two zeros of one sign keeps it; any other zero sum is negative only when rounding down. -/
def Num.add (mode : Rnd) (a b : Num) : Num :=
  match a, b with
  | .nan, _ => .nan
  | _, .nan => .nan
  | .inf n, .inf k => if n = k then .inf n else .nan
  | .inf n, _ => .inf n
  | _, .inf n => .inf n
  | .fin n m e, .fin k l d =>
    let q := min e d
    let s := Num.units q (.fin n m e) + Num.units q (.fin k l d)
    if s = 0 then
      if m = 0 && l = 0 && n = k then .fin n 0 q else .fin (mode = .down) 0 q
    else Num.ofUnits s q

/-- Exact product. -/
def Num.mul (a b : Num) : Num :=
  match a, b with
  | .nan, _ => .nan
  | _, .nan => .nan
  | .inf n, .inf k => .inf (n != k)
  | .inf n, .fin k m _ => if m = 0 then .nan else .inf (n != k)
  | .fin n m _, .inf k => if m = 0 then .nan else .inf (n != k)
  | .fin n m e, .fin k l d => .fin (n != k) (m * l) (e + d)

/-- Quotient rounded into an encoding: a quotient of 80 further bits decides every rounding with its sticky tail. -/
def Enc.div (f : Enc) (mode : Rnd) (a b : Num) : Num :=
  match a, b with
  | .nan, _ => .nan
  | _, .nan => .nan
  | .inf _, .inf _ => .nan
  | .inf n, .fin k _ _ => .inf (n != k)
  | .fin n _ _, .inf k => .fin (n != k) 0 0
  | .fin n m e, .fin k l d =>
    if l = 0 then (if m = 0 then .nan else .inf (n != k))
    else if m = 0 then .fin (n != k) 0 0
    else
      let sh := 80 + Nat.log2 l
      let num := m <<< sh
      f.round mode (n != k) (num / l) (e - d - (sh : Int)) (num % l != 0)

/-- Integer square root by bits: `acc` grows by `2^i` while its square fits. -/
def isqrtGo (n : Nat) : Nat → Nat → Nat
  | 0, acc => if (acc + 1) * (acc + 1) ≤ n then acc + 1 else acc
  | i + 1, acc =>
    let t := acc + 2 ^ (i + 1)
    isqrtGo n i (if t * t ≤ n then t else acc)

/-- Integer square root. -/
def isqrt (n : Nat) : Nat := isqrtGo n (Nat.log2 n / 2 + 1) 0

/-- Square root rounded into an encoding; −0 keeps its sign and a negative value gives a NaN (R70). -/
def Enc.sqrt (f : Enc) (mode : Rnd) (a : Num) : Num :=
  match a with
  | .nan => .nan
  | .inf n => if n then .nan else .inf false
  | .fin n m e =>
    if m = 0 then .fin n 0 0
    else if n then .nan
    else
      let sh := 140 + (if (e - 140) % 2 = 0 then 0 else 1)
      let big := m <<< sh
      let r := isqrt big
      f.round mode false r ((e - (sh : Int)) / 2) (r * r != big)

/-- `a < b` for numbers that are not NaN; zeros are equal. -/
def Num.lt (a b : Num) : Bool :=
  match a, b with
  | .nan, _ => false
  | _, .nan => false
  | .inf n, .inf k => n && ! k
  | .inf n, _ => n
  | _, .inf k => ! k
  | .fin n m e, .fin k l d =>
    let q := min e d
    Num.units q (.fin n m e) < Num.units q (.fin k l d)

/-- Equality of value for numbers that are not NaN; +0 equals −0. -/
def Num.eqv (a b : Num) : Bool :=
  match a, b with
  | .nan, _ => false
  | _, .nan => false
  | .inf n, .inf k => n = k
  | .inf _, _ => false
  | _, .inf _ => false
  | .fin n m e, .fin k l d =>
    let q := min e d
    Num.units q (.fin n m e) = Num.units q (.fin k l d)

/-- The sign bit. -/
def Num.sign : Num → Bool
  | .nan => false
  | .inf n => n
  | .fin n _ _ => n

/-- `a` ordered below `b`, with −0 below +0 (R98, R162); neither is a NaN. -/
def Num.below (a b : Num) : Bool :=
  Num.lt a b || (Num.eqv a b && a.sign && ! b.sign)

/-- A number rounded to an integer by a mode. -/
def Num.toInt (mode : Rnd) : Num → Int
  | .fin n m e =>
    let r := roundAt mode n m e false 0
    if n then - (r : Int) else r
  | _ => 0

/-- An integer as an exact number. -/
def Num.ofInt (i : Int) : Num := .fin (i < 0) i.natAbs 0

/-- The binary32 value of a code. -/
def f32 (c : BitVec 32) : Num := Enc.fp32.decode c.toNat

/-- The binary32 code of a number rounded to nearest even. -/
def toF32 (x : Num) : BitVec 32 := BitVec.ofNat 32 (Enc.fp32.encode (Enc.fp32.fit .rne x))

/-- The binary32 code of an exactly represented number. -/
def codeF32 (x : Num) : BitVec 32 := BitVec.ofNat 32 (Enc.fp32.encode x)

/-- FP32 operations of the engines: round to nearest, ties to even (R147). -/
def vAdd (a b : BitVec 32) : BitVec 32 := toF32 (Num.add .rne (f32 a) (f32 b))
def vSub (a b : BitVec 32) : BitVec 32 := toF32 (Num.add .rne (f32 a) (f32 b).neg)
def vMul (a b : BitVec 32) : BitVec 32 := toF32 (Num.mul (f32 a) (f32 b))
def vFma (a b c : BitVec 32) : BitVec 32 := toF32 (Num.add .rne (Num.mul (f32 a) (f32 b)) (f32 c))
def vDiv (a b : BitVec 32) : BitVec 32 := codeF32 (Enc.fp32.div .rne (f32 a) (f32 b))
def vOfNat (n : Nat) : BitVec 32 := toF32 (Num.ofInt n)

/-- Rounding toward zero into FP32, as the FF-5020 form does (R200). -/
def rtzF32 (x : Num) : BitVec 32 := BitVec.ofNat 32 (Enc.fp32.encode (Enc.fp32.fit .rtz x))

/-- The canonical quiet NaN of FP32 (R162), infinities and one. -/
def qnan32 : BitVec 32 := 0x7FC00000#32
def posInf32 : BitVec 32 := 0x7F800000#32
def negInf32 : BitVec 32 := 0xFF800000#32
def one32 : BitVec 32 := 0x3F800000#32

end Sys2Proof.Machine
end

