-- ==== Sys2Proof/Machine/Formats.lean ====
section
/-! DEFINITION. Tensor formats (Tables 3-4, 5-1 to 5-3), engine-ready tile layout (R144, R145), conversion into a format
(R147 to R153), non-finite rules (R162) and the built-in exponential (R161). -/

namespace Sys2Proof.Machine

/-- Format codes are the 4-bit codes of Table 3-4. -/
abbrev Fmt := BitVec 4

/-- Element width in bits (Table 5-1); 0 for a code that names no format. -/
def Fmt.width (f : Fmt) : Nat :=
  match f.toNat with
  | 0 => 32 | 1 => 16 | 2 => 8 | 3 => 8 | 4 => 8 | 5 => 8 | 6 => 6 | 7 => 6 | 8 => 4 | 9 => 8 | 10 => 2 | 11 => 32
  | _ => 0

/-- Formats with an E8M0 scale per 32 elements (Table 5-1). -/
def Fmt.block (f : Fmt) : Bool := 4 ≤ f.toNat && f.toNat ≤ 10

/-- Layouts that Table 3-4 allows: row-major, tiled. -/
def Fmt.rowMajorOk (f : Fmt) : Bool := f.toNat ≤ 3 || f.toNat = 11
def Fmt.tiledOk (f : Fmt) : Bool := f.toNat ≤ 10

/-- Bytes of a 16-row group of an engine-ready tile (R144). -/
def Fmt.groupBytes (f : Fmt) : Nat := 16 * (16 * f.width) + (if f.block then 64 else 0)

/-- Bytes per engine-ready tile (Table 5-1). -/
def Fmt.tileBytes (f : Fmt) : Nat := 8 * f.groupBytes

/-- The element encoding of a floating-point format. -/
def Fmt.enc (f : Fmt) : Enc :=
  match f.toNat with
  | 0 => .fp32 | 1 => .bf16 | 2 => .e4m3 | 3 => .e5m2 | 4 => .e4m3 | 5 => .e5m2 | 6 => .e3m2 | 7 => .e2m3
  | _ => .e2m1

/-- The exact value of an element code without its block scale (R140, R141, R143); INT32 is its integer. -/
def Fmt.elem (f : Fmt) (c : Nat) : Num :=
  match f.toNat with
  | 9 => let i := (BitVec.ofNat 8 c).toInt; .fin (i < 0) i.natAbs (-6)
  | 10 => if c % 4 = 1 then .fin false 1 0 else if c % 4 = 3 then .fin true 1 0 else .fin false 0 0
  | 11 => Num.ofInt (BitVec.ofNat 32 c).toInt
  | _ => f.enc.decode c

/-- The value of an element under its scale code (R142): scale `0xFF` makes every element NaN. -/
def Fmt.value (f : Fmt) (c scale : Nat) : Num :=
  if f.block then
    if scale % 256 = 255 then .nan
    else match f.elem c with
      | .fin n m e => .fin n m (e + (scale % 256 : Nat) - 127)
      | x => x
  else f.elem c

/-- Counts of numeric events of one piece (R163). -/
structure Events where
  sat : Nat
  zero : Nat
  nonfin : Nat
  deriving DecidableEq, Repr

def Events.none : Events := ⟨0, 0, 0⟩
def Events.add (a b : Events) : Events := ⟨a.sat + b.sat, a.zero + b.zero, a.nonfin + b.nonfin⟩

/-- Saturate an INT32 conversion: NaN to 0, infinities and large values to the ends (R119, Table 5-7). -/
def toInt32 (mode : Rnd) (x : Num) : BitVec 32 :=
  match x with
  | .nan => 0
  | .inf n => if n then BitVec.ofInt 32 (-(2 ^ 31)) else BitVec.ofInt 32 (2 ^ 31 - 1)
  | x =>
    let i := Num.toInt mode x
    if i < -(2 ^ 31) then BitVec.ofInt 32 (-(2 ^ 31))
    else if i > 2 ^ 31 - 1 then BitVec.ofInt 32 (2 ^ 31 - 1)
    else BitVec.ofInt 32 i

/-- Convert one value into a format without a block scale: the code, and the events it counts (R149, R162, R163). -/
def convertPlain (f : Fmt) (mode : Rnd) (x : Num) : Nat × Events :=
  if f.toNat = 11 then ((toInt32 mode x).toNat, .none)
  else if f.toNat ≤ 1 then
    let y := f.enc.fit mode x
    (f.enc.encode y, ⟨0, 0, if y.isFin then 0 else 1⟩)
  else
    match x with
    | .nan => (0x7F, ⟨0, 0, 1⟩)
    | .inf n => if f.toNat = 2 then (0x7F, ⟨0, 0, 1⟩) else (f.enc.encode (.inf n), ⟨0, 0, 1⟩)
    | .fin n m e =>
      if m = 0 then (f.enc.encode (.fin n 0 0), .none)
      else
        let r := f.enc.roundMag mode n m e false
        if magLt f.enc.fmax r then (f.enc.encode (.fin n f.enc.fmax.1 f.enc.fmax.2), ⟨1, 0, 0⟩)
        else (f.enc.encode (.fin n r.1 r.2), .none)

/-- The largest finite element of a block-scaled format (Table 5-2, R141). -/
def Fmt.fmax (f : Fmt) : Nat × Int := if f.toNat = 9 then (127, -6) else f.enc.fmax

/-- One element of a block rounded under scale exponent `X`, without saturation (R150, R148). -/
def roundElem (f : Fmt) (mode : Rnd) (n : Bool) (m : Nat) (e X : Int) : Nat × Int :=
  if m = 0 then (0, 0)
  else if f.toNat = 9 then (roundAt mode n m (e - X) false (-6), -6)
  else f.enc.roundMag mode n m (e - X) false

/-- The code of a rounded element; MXINT8 is two's complement. -/
def elemCode (f : Fmt) (n : Bool) (r : Nat × Int) : Nat :=
  if f.toNat = 9 then (if n then (256 - r.1) % 256 else r.1)
  else f.enc.encode (.fin n r.1 r.2)

/-- Whether every element fits the format under scale exponent `X` (R150). -/
def blockFits (f : Fmt) (mode : Rnd) (X : Int) (vs : List Num) : Bool :=
  vs.all fun v => match v with
    | .fin n m e => ! magLt f.fmax (roundElem f mode n m e X)
    | _ => true

/-- Search the smallest fitting exponent upwards from a start that is known to be too small. -/
def blockScale (f : Fmt) (mode : Rnd) (vs : List Num) : Nat → Int → Int
  | 0, X => X
  | n + 1, X => if blockFits f mode X vs then X else blockScale f mode vs n (X + 1)

/-- The exponent of the top bit of a magnitude. -/
def magTop (m : Nat) (e : Int) : Int := e + (Nat.log2 m : Int)

/-- A lower start for the scale search: below the top exponent of the block by more than the format's range. -/
def blockStart (f : Fmt) (vs : List Num) : Int :=
  let t := vs.foldl (fun (acc : Int) v => match v with
    | .fin _ m e => if m = 0 then acc else max acc (magTop m e)
    | _ => acc) (-400)
  let b := if f.toNat = 9 then 0 else f.enc.emax
  t - b - 1

/-- Convert one block (R150 to R152): the scale code, the element codes and the events. -/
def convertBlock (f : Fmt) (mode : Rnd) (vs : List Num) : Nat × List Nat × Events :=
  if vs.any (fun v => ! v.isFin) then (255, vs.map (fun _ => 0), ⟨0, 0, 1⟩)
  else if vs.all Num.isZero then (0, vs.map (fun _ => 0), ⟨0, 1, 0⟩)
  else
    let X0 := blockScale f mode vs 4 (blockStart f vs)
    let X1 := max X0 (-127)
    let X := min X1 127
    let rs := vs.map fun v => match v with
      | .fin n m e => (n, roundElem f mode n m e X)
      | _ => (false, (0, 0))
    let sat := rs.countP fun r => magLt f.fmax r.2
    let codes := rs.map fun r => elemCode f r.1 (if magLt f.fmax r.2 then f.fmax else r.2)
    if rs.all (fun r => r.2.1 = 0) then (0, vs.map (fun _ => 0), ⟨0, 1, 0⟩)
    else ((X + 127).toNat, codes, ⟨sat, 0, 0⟩)

/-! The built-in exponential (R161): bounds of `exp d` by fixed-point arithmetic, then the FP32 value below and a free choice
within the stated bound (R541). -/

/-- Fixed-point unit of the exponential: `2^-160`. -/
def expUnit : Nat := 2 ^ 160

/-- Taylor terms of `exp r` for a fixed-point `r` below one eighth. -/
def expTaylor (r : Nat) : Nat → Nat → Nat → Nat
  | 0, _, term => term
  | n + 1, k, term => term + expTaylor r n (k + 1) (term * r / expUnit / k)

/-- Repeated squaring in fixed point. -/
def expSquare : Nat → Nat → Nat
  | 0, x => x
  | n + 1, x => expSquare n (x * x / expUnit)

/-- `exp` of a non-negative dyadic in fixed point, rounded down: argument over 1,024, then ten squarings. -/
def expFix (m : Nat) (e : Int) : Nat :=
  let q : Int := e + 160 - 10
  let r := if 0 ≤ q then m <<< q.toNat else m >>> (- q).toNat
  expSquare 10 (expTaylor r 30 1 expUnit)

/-- The magnitude of `exp d` as a number of at least 100 significant bits, for `d` between −110 and 90. -/
def expMag (neg : Bool) (m : Nat) (e : Int) : Nat × Int :=
  let x := expFix m e
  if neg then (2 ^ 480 / x, -320) else (x, -160)

/-- A magnitude of an FP32 code, in units of `2^-149`. -/
def unitsOf (c : Nat) : Nat :=
  match f32 (BitVec.ofNat 32 c) with
  | .fin _ m e => scaleTo m e (-149)
  | _ => 2 ^ 277

/-- The FP32 codes within `d` ulp of a magnitude whose value rounded toward zero has code `c`: from `d - 1` below to `d` above, where
beyond a power of two a step counts two ulp of the magnitude. -/
def around (c d : Nat) : List Nat :=
  ((List.range (2 * d)).map fun i => c + i + 1 - d).filter fun x =>
    x ≤ 0x7F800000 && unitsOf x ≤ unitsOf c + d * (unitsOf (c + 1) - unitsOf c)

/-- An FP32 value within `d` ulp of a positive magnitude, by a free choice (R160, R541). -/
def near32 (mag : Nat × Int) (d choice : Nat) : BitVec 32 :=
  let r := Enc.fp32.roundMag .rtz false mag.1 mag.2 true
  if magLt Enc.fp32.fmax r then posInf32
  else
    let xs := around (Enc.fp32.encode (.fin false r.1 r.2)) d
    BitVec.ofNat 32 (xs.getD (choice % xs.length) 0)

/-- The free choice for operands (R541). -/
def pick (tag : Nat) (a b c : BitVec 32) : Nat := Config.pick tag (a.setWidth 64) (b.setWidth 64) (c.setWidth 64)

/-- The exact difference `x − a` as a dyadic. -/
def exactDiff (x a : BitVec 32) : Num := Num.add .rne (f32 x) (f32 a).neg

/-- The built-in exponential of `x − a` (R161): 1 at zero, +0 at −∞ and where the result lies below `2^-150`,
otherwise a value within 1 ulp of the exact one. -/
def vExp (x a : BitVec 32) : BitVec 32 :=
  match exactDiff x a with
  | .nan => qnan32
  | .inf n => if n then 0 else posInf32
  | .fin n m e =>
    if m = 0 then one32
    else if magLt (if n then (104, 0) else (90, 0)) (m, e) then (if n then 0 else posInf32)
    else
      let mag := expMag n m e
      if magLt mag (1, -150) then 0 else near32 mag 1 (pick 1 x a 0)

/-- `exp(x − a) ÷ b` within 2 ulp (VNORM kind 2, VSMAX, VROUTE; Table 5-6); an exponential below `2^-150` is +0 (R161). Where
the exponential alone exceeds FP32 and the quotient does not, the quotient is the result, within the bound (DESIGN CHOICE, log 4). -/
def vExpDiv (tag : Nat) (x a b : BitVec 32) : BitVec 32 :=
  match exactDiff x a, f32 b with
  | .nan, _ => qnan32
  | _, .nan => qnan32
  | .inf true, _ => 0
  | .inf false, .inf _ => qnan32
  | .inf false, _ => posInf32
  | .fin .., .inf _ => 0
  | .fin n m e, .fin k l d =>
    let sign := fun (r : BitVec 32) => if k then r ||| 0x80000000#32 else r
    let mag : Nat × Int := if m = 0 then (2 ^ 160, -160) else if magLt (104, 0) (m, e) && n then (0, 0) else expMag n m e
    if m != 0 && ! n && magLt (250, 0) (m, e) then sign posInf32
    else if magLt mag (1, -150) then (if l = 0 then qnan32 else sign 0)
    else if l = 0 then sign posInf32
    else if m = 0 && magEq (l, d) (1, 0) then sign one32
    else sign (near32 ((mag.1 <<< 120) / l, mag.2 - 120 - d) 2 (pick tag x a b))

/-- `y ÷ b` within 2 ulp, for the compatibility exponential's `y` (R199, Table 5-6). -/
def nearDiv (tag : Nat) (y b : BitVec 32) : BitVec 32 :=
  match f32 y, f32 b with
  | .nan, _ => qnan32
  | _, .nan => qnan32
  | .inf _, .inf _ => qnan32
  | .inf n, .fin k _ _ => if n = k then posInf32 else negInf32
  | .fin n _ _, .inf k => if n = k then 0 else 0x80000000#32
  | .fin n m e, .fin k l d =>
    if l = 0 then (if m = 0 then qnan32 else if n = k then posInf32 else negInf32)
    else if m = 0 then (if n = k then 0 else 0x80000000#32)
    else
      let r := near32 ((m <<< 200) / l, e - 200 - d) 2 (pick tag y b 0)
      if n = k then r else r ||| 0x80000000#32

/-- `num × √(k ÷ den)` within `ulps` of the exact value (VNORM kinds 0 and 1, Table 5-6). `num` and `den` are exact dyadics, the words
hold the operands. -/
def divSqrt (tag ulps k0 : Nat) (num den : Num) (a b c : Word) : BitVec 32 :=
  match num, den with
  | .nan, _ => qnan32
  | _, .nan => qnan32
  | .fin n m e, .fin k l d =>
    if k && l != 0 then qnan32
    else if l = 0 then (if m = 0 then qnan32 else if n then negInf32 else posInf32)
    else if m = 0 then (if n then 0x80000000#32 else 0)
    else
      -- m*2^e * sqrt(k0 / (l*2^d)) = sqrt(k0*m^2*2^(2e) / (l*2^d)), formed with 300 further bits
      let sh : Int := 300 + (Nat.log2 l : Int)
      let ex : Int := 2 * e - d - sh
      let sh' := if ex % 2 = 0 then sh else sh + 1
      let q := (m * m * k0) <<< sh'.toNat / l
      let mag := (isqrt q, (2 * e - d - sh') / 2)
      let r := near32 mag ulps (Config.pick tag a b c)
      if n then r ||| 0x80000000#32 else r
  | .inf n, .fin .. => if n then negInf32 else posInf32
  | .fin n _ _, .inf _ => if n then 0x80000000#32 else 0
  | .inf _, .inf _ => qnan32

/-- The FP32 square root of a sum of squares `m * 2^e` over `n` results (R168): exact where FP32 holds it, else one of the two FP32 values
around it; which of them is not stated (DESIGN CHOICE, log 5). -/
def rms32 (m : Nat) (e : Int) (n : Nat) : BitVec 32 :=
  if m = 0 || n = 0 then 0
  else
    let k := if e % 2 = 0 then m else 2 * m
    let x := if e % 2 = 0 then e else e - 1
    let r := isqrt ((k <<< 200) / n)
    let up := Config.pick 15 (BitVec.ofNat 64 m) (BitVec.ofInt 64 e) (BitVec.ofNat 64 n) % 2 = 1
    codeF32 (Enc.fp32.round (if up then .up else .rtz) false r (x / 2 - 100) (r * r * n != k <<< 200))

end Sys2Proof.Machine
end

