-- ==== Sys2Proof/Machine/Record.lean ====
section
/-! DEFINITION. The engine command record (R108, R545): its fields, its eight words and the reading of those words. -/

namespace Sys2Proof.Machine

/-- One address word of a record: class and address (Table 4-7). -/
structure Operand where
  cls : BitVec 2
  addr : BitVec 56
  deriving DecidableEq, Repr

/-- The operand that is not there: class `0b11` (Table 4-7). -/
def Operand.absent : Operand := ⟨3, 0⟩

/-- The fields of an engine command record (Table 4-7), its RSV bits apart. -/
structure Rec where
  code : BitVec 8
  engine : BitVec 4
  variant : BitVec 4
  ctx : BitVec 12
  job : BitVec 20
  home : BitVec 10
  tag : BitVec 2
  deadline : Word
  layer : BitVec 16
  oper : BitVec 16
  target : BitVec 32
  waits : Bool
  signals : Bool
  waitK : BitVec 8
  sigK : BitVec 8
  sigTile : BitVec 10
  incr : BitVec 16
  fa : BitVec 4
  fb : BitVec 4
  fd : BitVec 4
  bshape : BitVec 2
  la : Bool
  lb : Bool
  ld : Bool
  rows : BitVec 11
  extent : BitVec 24
  cols : BitVec 8
  param : BitVec 21
  a : Operand
  b : Operand
  d : Operand
  deriving DecidableEq, Repr

/-- One bit as a vector. -/
def bit (b : Bool) : BitVec 1 := BitVec.ofBool b

/-- An address word (offsets `0x28`, `0x30`, `0x38` of Table 4-7). -/
def Operand.word (o : Operand) : Word := o.cls ++ (0 : BitVec 6) ++ o.addr

/-- The eight little-endian words of a record (Table 4-7). -/
def Rec.words (r : Rec) : List Word :=
  [ r.code ++ r.engine ++ r.variant ++ r.ctx ++ r.job ++ r.home ++ r.tag ++ (0 : BitVec 4),
    r.deadline,
    r.layer ++ r.oper ++ r.target,
    bit r.waits ++ bit r.signals ++ r.waitK ++ r.sigK ++ r.sigTile ++ r.incr ++ r.fa ++ r.fb ++ r.fd ++ r.bshape
      ++ bit r.la ++ bit r.lb ++ bit r.ld ++ (0 : BitVec 3),
    r.rows ++ r.extent ++ r.cols ++ r.param,
    r.a.word, r.b.word, r.d.word ]

/-- The operand that an address word names. -/
def Operand.ofWord (w : Word) : Operand := ⟨w.extractLsb' 62 2, w.extractLsb' 0 56⟩

/-- The record that eight words spell; RSV bits are not read. -/
def Rec.ofWords (w0 w1 w2 w3 w4 w5 w6 w7 : Word) : Rec where
  code := w0.extractLsb' 56 8
  engine := w0.extractLsb' 52 4
  variant := w0.extractLsb' 48 4
  ctx := w0.extractLsb' 36 12
  job := w0.extractLsb' 16 20
  home := w0.extractLsb' 6 10
  tag := w0.extractLsb' 4 2
  deadline := w1
  layer := w2.extractLsb' 48 16
  oper := w2.extractLsb' 32 16
  target := w2.extractLsb' 0 32
  waits := w3.getLsbD 63
  signals := w3.getLsbD 62
  waitK := w3.extractLsb' 54 8
  sigK := w3.extractLsb' 46 8
  sigTile := w3.extractLsb' 36 10
  incr := w3.extractLsb' 20 16
  fa := w3.extractLsb' 16 4
  fb := w3.extractLsb' 12 4
  fd := w3.extractLsb' 8 4
  bshape := w3.extractLsb' 6 2
  la := w3.getLsbD 5
  lb := w3.getLsbD 4
  ld := w3.getLsbD 3
  rows := w4.extractLsb' 53 11
  extent := w4.extractLsb' 29 24
  cols := w4.extractLsb' 21 8
  param := w4.extractLsb' 0 21
  a := Operand.ofWord w5
  b := Operand.ofWord w6
  d := Operand.ofWord w7

/-- The record of a list of words; fewer than eight spell none. -/
def Rec.read : List Word → Option Rec
  | [w0, w1, w2, w3, w4, w5, w6, w7] => some (Rec.ofWords w0 w1 w2 w3 w4 w5 w6 w7)
  | _ => none

/-- The table row count that a PGATH or SSCAT record carries (R545). -/
def Rec.tableRows (r : Rec) : Nat := (r.cols ++ r.param).toNat % 2 ^ 24

/-- The layer and operator identifiers as `LAYOP` holds them. -/
def Rec.layop (r : Rec) : BitVec 32 := r.layer ++ r.oper

/-- The scratchpad tile and offset of an address word of class scratchpad (Table 3-1). -/
def Operand.spTile (o : Operand) : Nat := (o.addr.toNat >>> 26) % 1024
def Operand.spOff (o : Operand) : Nat := o.addr.toNat % 2 ^ 26

end Sys2Proof.Machine
end

