-- ==== Sys2Proof/Machine/State.lean ====
section
/-! DEFINITION. The state of the package as plain data, its reset value, and the reasons a step can stop. -/

namespace Sys2Proof.Machine

/-- Where bytes of an operand lie: a scratchpad, the package's physical memory, far memory behind a window (node and offset
of the far node), host memory of one address space, or another node of the domain. -/
inductive Place where
  | sp (tile off : Nat)
  | pa (a : Nat)
  | far (node off : Nat)
  | host (space a : Nat)
  | node (n off : Nat)
  deriving DecidableEq, Repr

/-- A part of an access that lies in one page: its place and length and, for a device page, the leaf entry that maps it, the
offset in the page and the page's number `CVA[46:21]` (R288, R293). -/
structure Part where
  place : Place
  len : Nat
  leaf : Option Nat
  poff : Nat
  page : Nat
  deriving DecidableEq, Repr

/-! ### The Helm core -/

/-- What a home slot's code waits for. A remote access keeps its request ID and what its answer does; a tensor instruction the records
that have not been accepted yet, by tile, and the register that takes its count (R79). -/
inductive Stall where
  | none
  | token (k : BitVec 8) (target : BitVec 32)
  | fence (scope : BitVec 2)
  | tsig (k : BitVec 8) (tile : BitVec 10) (incr : BitVec 16)
  | remote (id : BitVec 32)
  | issue (rest : List (Nat × Rec)) (rd count : Nat)
  deriving DecidableEq, Repr

/-- How a load's bytes become a register value: access size, sign extension, and the `f` register form (R96). -/
structure LoadForm where
  size : Nat
  signed : Bool
  float : Bool
  deriving DecidableEq, Repr

/-- The scalar state of a home slot (Table 3-2), with what the model keeps beside it: whether its code runs, what it waits
for, the Near-tier lines that its stores made dirty since its previous fence (R549), whether it has posted a write to host memory
since that fence (R542), and whether a fall-back run has set f (R271). -/
structure Slot where
  g : FMap Word
  f : FMap Word
  t : FMap Word
  pc : BitVec 48
  stepno : BitVec 32
  layop : BitVec 32
  deadline : Word
  ctx : BitVec 12
  job : BitVec 20
  excstat : BitVec 16
  code : Bool
  stall : Stall
  dirty : List Nat
  posted : Bool
  learnt : Bool
  deriving DecidableEq, Repr

def Slot.empty : Slot := ⟨[], [], [], 0, 0, 0xFFFFFFFF#32, BitVec.allOnes 64, 0, 0, 0, false, .none, [], false, false⟩

/-! ### Queues and pieces of a tile -/

/-- A queued or parked command: its record, its place in the entry order, and whether its wait is satisfied (R47, R256). -/
structure Entry where
  cmd : Rec
  ord : Nat
  ready : Bool
  deriving DecidableEq, Repr

/-- What kind of access a request of a pilot or stow piece makes at its place. -/
inductive ReqKind where
  | read
  | write
  | atomic
  deriving DecidableEq, Repr

/-- A tile or span request of a pilot or stow piece (R292): its number, the row it serves, the parts of its memory-side bytes
page by page, the bytes a write or atomic carries, where a read's bytes land (offset from D, byte of the data, bits; bits past
the data are zero), when it was issued, whether it has been counted late, and, once the memory has performed it, its outcome: a
status or the bytes read, which reach the engine when the request ends (R85); whether an island crossing discarded it (R448). -/
structure Req where
  seq : Nat
  unit : Nat
  kind : ReqKind
  parts : List Part
  data : List Byte
  plan : List (Nat × Nat × Nat)
  issued : Option Word
  late : Bool
  answer : Option (Status ⊕ List Byte)
  lost : Bool
  deriving DecidableEq, Repr

/-- What a running piece has measured for the norm watch (R163, R165): events, the sum of squares `m * 2^e`, the count. -/
structure Measure where
  events : Events
  sqm : Nat
  sqe : Int
  n : Nat
  deriving DecidableEq, Repr

def Measure.none : Measure := ⟨.none, 0, 0, 0⟩

/-- A piece that its engine has selected: whether its rows have been computed or its requests formed, its status, its
requests, the bytes read that wait to land with the piece, each with where they land (R138), the last write to
host memory that no zero-length read has confirmed (R542), the source and detail of its failure (R495), whether it may still signal (R83), and the
pages and bytes it counts. -/
structure Run where
  cmd : Rec
  eng : Nat
  ord : Nat
  formed : Bool
  status : Status
  reqs : List Req
  got : List (List (Nat × Nat × Nat) × List Byte)
  posted : Option Part
  spot : Nat × Nat
  suppressed : Bool
  started : Word
  measure : Measure
  cfg : Word
  cells : Nat
  deriving DecidableEq, Repr

/-- The kept accumulator result (R115): context, step tag, rows, output columns, FP32 words by row and column; what the checksum cells
hold of each element, its exact sum and its magnitude sum, and the depth groups of the chain so far (R158, R477). -/
structure Kept where
  ctx : Nat
  tag : BitVec 2
  rows : Nat
  cols : Nat
  data : List (List (BitVec 32))
  sums : List (List (Num × Num))
  groups : Nat
  deriving DecidableEq, Repr

/-- A counter set (R46): the context's 256 counters, its priority and FF-5020 attribute (R199, R259). -/
structure CounterSet where
  ctx : Nat
  prio : BitVec 2
  ff5020 : Bool
  k : FMap (BitVec 32)
  deriving DecidableEq, Repr

/-- A signal on its way from a tile to a counter, with the step it belongs to (R48, R81). -/
structure Signal where
  ctx : Nat
  tag : BitVec 2
  home : Nat
  tile : Nat
  k : BitVec 8
  incr : BitVec 16
  src : Nat
  deriving DecidableEq, Repr

/-- A pending norm-watch bank of one entry for one context and step tag (R164, R168). -/
structure Bank where
  entry : Nat
  tag : BitVec 2
  sat : Nat
  zero : Nat
  nonfin : Nat
  jumps : Nat
  sqm : Nat
  sqe : Int
  n : Nat
  deriving DecidableEq, Repr

/-- A collective in progress at a member (R130 to R133): its record, group, the contributions that have arrived, and the
parts of D, resolved before anything moves (R113). -/
structure Coll where
  cmd : Rec
  ord : Nat
  inst : BitVec 16
  pos : Nat
  members : List (Nat × Nat)
  got : FMap (List Byte)
  parts : List (List Part)
  deriving DecidableEq, Repr

/-- Who made a remote request (R342): a piece's unit, a scalar load, store (with its step) or atomic of a slot, a
contribution; or nobody any more. -/
inductive Owner where
  | piece (eng ord unit : Nat)
  | load (slot : Nat) (form : LoadForm) (rd : Nat) (pc : BitVec 48)
  | store (slot : Nat) (pc : BitVec 48) (no : BitVec 32)
  | amo (slot : Nat) (rd : Nat) (pc : BitVec 48)
  | contribution (ord : Nat)
  | nobody
  deriving DecidableEq, Repr

/-- A remote request of this tile (R343): its header fields, data, owner, and when it left the tile. -/
structure Remote where
  id : BitVec 32
  kind : BitVec 4
  op : BitVec 4
  node : Nat
  off : Nat
  len : Nat
  w3 : Word
  w4 : Word
  data : List Byte
  ctx : Nat
  owner : Owner
  sent : Option Word
  deriving DecidableEq, Repr

/-- A spill or restore order in progress on a tile (R264 to R268), and the status of a parked record that could not be written (R544). -/
structure Order where
  restore : Bool
  n : Nat
  m : Nat
  bene : Nat
  off : Nat
  victim : Nat
  accRows : Nat
  failed : Status
  deriving DecidableEq, Repr

/-- A parked record, the spill entry that it waits for, and its place in the park area. -/
structure Parked where
  entry : Nat
  place : Nat
  ent : Entry
  deriving DecidableEq, Repr

/-- The scratchpad of a tile: bytes, uncorrectable words by word number, and the granules' previous owners (R36 to R42). -/
structure Scratch where
  bytes : FMap Byte
  bad : FMap Bool
  owners : FMap (Option Nat)
  zeroing : List Nat
  deriving DecidableEq, Repr

/-- The queues, pieces and counters of a tile (R43 to R49). -/
structure Work where
  inbox : List Rec
  queues : FMap (List Entry)
  nextOrd : Nat
  nextSeq : Nat
  running : List Run
  sets : List CounterSet
  kept : Option Kept
  sel : FMap Nat
  lastFloor : FMap Nat
  parked : List Parked
  order : Option Order
  accSave : FMap Kept
  banks : List Bank
  deriving DecidableEq, Repr

/-- The fabric side of a tile (R345, R329): requests not yet answered, next request ID, grants and route holds by node. -/
structure FabricSide where
  remotes : List Remote
  nextId : BitVec 32
  grants : FMap (BitVec 8)
  holds : List Nat
  deriving DecidableEq, Repr

/-- What the tile keeps for tests, faults and traces, its links and its operating point (chapters 7 and 16 to 19), and how many of its
requests timed out whose answers may still come (R302). -/
structure Upkeep where
  ftValid : List Nat
  ftDamaged : List Nat
  faults : List Word
  state : Nat
  injChecksum : Bool
  injResidue : Bool
  injVector : Bool
  trace : List (List Word)
  tagSums : FMap (BitVec 32)
  resends : FMap Nat
  linkDown : List Nat
  retrains : FMap Nat
  point : Nat
  wanted : Nat
  unanswered : Nat
  deriving DecidableEq, Repr

/-- One tile (Table 2-1): home slots, the slot whose state the core runs, the parts above, and contributions that came before
their collective began here. -/
structure TileState where
  slots : FMap Slot
  active : Option Nat
  last : Option Nat
  flushing : Bool
  sp : Scratch
  work : Work
  fab : FabricSide
  colls : List Coll
  early : List Contribution
  upkeep : Upkeep
  deriving DecidableEq, Repr

def Scratch.empty : Scratch := ⟨[], [], [], []⟩
def Work.empty : Work := ⟨[], [], 0, 0, [], [], none, [], [], [], none, [], []⟩
def FabricSide.empty : FabricSide := ⟨[], 0, [], []⟩
def Upkeep.empty : Upkeep := ⟨[], [], [], 0, false, false, false, [], [], [], [], [], 0, 0, 0⟩
def TileState.empty : TileState := ⟨[], none, none, false, .empty, .empty, .empty, [], [], .empty⟩

/-! ### Contexts, steps and charts -/

/-- The KV pool descriptor (R212): KV layers, page area, pages, metadata area, sequence slots, pages per sequence. -/
structure Pool where
  lp : Nat
  area : Nat
  pages : Nat
  info : Nat
  slots : Nat
  maxPages : Nat
  deriving DecidableEq, Repr

/-- A sequence entry of a step as admission read it (R218): slot, appended positions, where the entry lies. -/
structure SeqUse where
  slot : Nat
  add : Nat
  entry : Nat
  deriving DecidableEq, Repr

/-- One save entry of a waypoint list (Table 6-2): the region, its save area, its bytes. -/
structure Save where
  region : Operand
  area : Nat
  bytes : Nat
  deriving DecidableEq, Repr

/-- The waypoint of a step (R172): saved counters by tile and counter, the save list, the recompute list (descriptor words). -/
structure Waypoint where
  limit : Nat
  counters : FMap (BitVec 32)
  saves : List Save
  recomp : List (List Word)
  deriving DecidableEq, Repr

/-- Where an in-flight step stands: its save copies run, its code or pieces run, tiles are being flushed (with the replay
bit), it is being restored for a replay, or its completion waits. -/
inductive Phase where
  | saving
  | running
  | flushing (replay : Bool)
  | restoring
  | complete
  deriving DecidableEq, Repr

/-- What the home tile counts for a step (R61, R91, R136, R177). -/
structure Tally where
  issued : Nat
  received : Nat
  tiles : List Nat
  awaiting : List Nat
  status : Status
  further : Nat
  noted : BitVec 16
  failLayop : BitVec 32
  failTile : Nat
  failPiece : Bool
  replays : Nat
  cause : Status
  deriving DecidableEq, Repr

/-- What Lodestar keeps for a step (R270 to R276). -/
structure Watch where
  start : Word
  next : Word
  p0 : BitVec 32
  fallback : Bool
  usedFallback : Bool
  deriving DecidableEq, Repr

/-- A step in flight (R60): its ring record and index, its phase, counts, waypoint, Lodestar values, the chart and resolved
generation, whether it holds a pin there (R385), and its sequences;
`codeStart` is when its code first started, `rerun` is set while it waits to run again because an earlier step was aborted (R83). -/
structure Step where
  stepno : BitVec 32
  index : Nat
  words : List Word
  phase : Phase
  ended : Bool
  codeStart : Option Word
  tally : Tally
  wp : Waypoint
  watch : Watch
  chart : Option (Nat × Nat)
  pinned : Bool
  pinDrop : Nat
  seqs : List SeqUse
  generation : BitVec 32
  rerun : Bool
  deriving DecidableEq, Repr

/-- Chart generation states (Table 14-14). -/
inductive GenState where
  | loading | ready | current | retiring | retired | failed
  deriving DecidableEq, Repr

/-- A chart generation: number, state, request pins, drops reserved, step pins, key slot, digest (R381 to R385). -/
structure Gen where
  num : Nat
  st : GenState
  pins : Nat
  reserved : Nat
  steps : Nat
  slot : Nat
  digest : List Byte
  deriving DecidableEq, Repr

/-- One chart ID of a context: its generations and the last number given. -/
structure Chart where
  gens : List Gen
  last : Nat
  deriving DecidableEq, Repr

def Chart.empty : Chart := ⟨[], 0⟩

/-- Context states (R373). -/
inductive CtxState where
  | unbound | running | faulted
  deriving DecidableEq, Repr

/-- What the creation record fixes (Table 14-7). -/
structure Creation where
  prio : BitVec 2
  ff5020 : Bool
  job : BitVec 20
  fn : BitVec 8
  vector : BitVec 11
  pasid : BitVec 20
  root : Nat
  ringLog : Nat
  ring : Nat
  cring : Nat
  sline : Nat
  pool : Option Pool
  spill : Nat
  spillSize : Nat
  deriving DecidableEq, Repr

/-- Sweep and ring state of a context (R249, R376, R378); `hold` keeps a failed fetch for the next sweep. -/
structure Ring where
  interval : Nat
  unchanged : Nat
  tail : BitVec 32
  fetched : BitVec 32
  written : BitVec 32
  ahead : List Nat
  waiting : List (Nat × List Word)
  fetching : Option Nat
  fails : Nat
  hold : Bool
  deriving DecidableEq, Repr

/-- A live context (R58, R372): creation fields, state, home tile and slot, ring, steps in flight, charts. -/
structure Ctx where
  cr : Creation
  st : CtxState
  faultStatus : Status
  home : Option (Nat × Nat)
  ring : Ring
  nextStep : BitVec 32
  steps : List Step
  charts : FMap Chart
  destroying : Bool
  deriving DecidableEq, Repr

/-! ### Mailboxes of the home tiles and package blocks -/

/-- A completion notice or report on its way home (R136), with the source and detail of the failure for the error record (R495). -/
structure Report where
  home : Nat
  ctx : Nat
  tag : BitVec 2
  status : Status
  eng : Nat
  tile : Nat
  layop : BitVec 32
  piece : Bool
  spot : Nat × Nat
  deriving DecidableEq, Repr

/-- A flush (or its confirmation) of one step at one tile, with the replay bit (R83, R169). -/
structure Flush where
  tile : Nat
  ctx : Nat
  tag : BitVec 2
  replay : Bool
  deriving DecidableEq, Repr

/-- A norm-watch commit for one step at one tile (R168). -/
structure Commit where
  tile : Nat
  ctx : Nat
  tag : BitVec 2
  valid : Bool
  deriving DecidableEq, Repr

/-- Messages on the mesh command channel that a row takes in turn: commands by tile, contributions by source and destination. -/
structure Mail where
  channel : List (Nat × Rec)
  signals : List Signal
  notices : List Report
  reports : List Report
  flushes : List Flush
  confirms : List Flush
  commits : List Commit
  contribs : List (Nat × Nat × Contribution)
  deriving DecidableEq, Repr

/-- A chart load in flight (R381). -/
structure Load where
  ctx : Nat
  chart : Nat
  num : Nat
  src : Nat
  base : Nat
  keys : FMap (Option (List Byte))
  deriving DecidableEq, Repr

/-- The management engine (R370, R375): records taken, log entries written, entries that wait, the record in progress with
its ring index, loads in flight, when each tail line was last read (512 for the management tail word), and whether a
function-level reset of PF0 waits for the record in progress (R460). -/
structure Mgmt where
  taken : BitVec 32
  logged : BitVec 32
  events : List (List Word)
  current : Option (List Word × Nat)
  loads : List Load
  swept : FMap Word
  stopping : Bool
  deriving DecidableEq, Repr

/-! ### Light ports and the fabric's receiving side -/

/-- What a sequenced block carries: flits of a request or response, or a control payload (R312, R317, R326, R334). -/
inductive Cargo where
  | flits (bytes : List Byte)
  | capability (c : Capability)
  | result (c : TestCounts)
  | linkState (x : LinkState)
  | slots (l : List (Nat × BitVec 20 × BitVec 16))
  deriving DecidableEq, Repr

/-- Whose request a block carries: nobody's, one of a tile of this package, or one of another node that passes through. -/
inductive Party where
  | nobody
  | own (tile : Nat) (id : BitVec 32)
  | other (node : BitVec 12) (tile : BitVec 10) (id : BitVec 32) (job : BitVec 20)
  deriving DecidableEq, Repr

/-- A block without its sequence: virtual channel, contents, and whose request it carries. -/
structure Parcel where
  vc : BitVec 6
  cargo : Cargo
  party : Party
  deriving DecidableEq, Repr

/-- A block as it left by a port (R312): its 280 bytes, and the lanes of the mode, pair and wavelength, in the order in which its
bytes are dealt over them, one byte a lane and then from the first lane again. -/
structure SentBlock where
  port : Nat
  lanes : List (Nat × Nat)
  bytes : List Byte
  deriving DecidableEq, Repr

/-- A block held for re-send (R314): sequence, contents, sends so far, since when it waits. -/
structure Held where
  seq : BitVec 24
  parcel : Parcel
  sends : Nat
  since : Word
  deriving DecidableEq, Repr

/-- A candidate mode of a negotiation (R318): rate, wavelengths, the pairs that qualify. -/
structure Candidate where
  fast : Bool
  w : Nat
  pairs : List Nat
  deriving DecidableEq, Repr

/-- What a light port holds beside its registers: the next sequence to send, the last acknowledged, the blocks held for
re-send, the sequence expected and whether a re-send has been requested (R314); since when it is in its state, the settings of
`LP_CFG[4:0]` that this negotiation uses, its pairs' receive results, the partner's capabilities, the candidate mode on test,
both test results (R317 to R320); its epoch (R326), the partner's slots (R334), blocks that the partner has freed by channel, probes
by pair; the blocks that wait to be sent, blocks sent and freed here by channel and the channel freed last (R333); the arbitration's
slot, its blocks so far and each slot's place in the rotation of classes (R335); the job-slot entries in effect (R334) and the slots
that are fixed-share (R400); the landing entries that the port's landing unit caches, each with its context (R349); the channels of blocks
freed in a fix, whose credits wait for its end (R504); the slots that the partner has advertised last, which take effect slot by slot
(R334); the candidates of the choice (R318); the blocks of a codeword that has begun (R315); and the pairs whose gate has closed during a
loopback test (R539). -/
structure Port where
  next : BitVec 24
  acked : BitVec 24
  held : List Held
  expect : BitVec 24
  resending : Bool
  since : Word
  mine : BitVec 5
  passed : FMap (BitVec 8)
  cap : Option Capability
  tried : Nat
  own : Option TestCounts
  peer : Option TestCounts
  epoch : BitVec 32
  slots : FMap (BitVec 20 × BitVec 16)
  freed : FMap (BitVec 16)
  probed : FMap Word
  waiting : List Parcel
  sentOn : FMap (BitVec 16)
  given : FMap (BitVec 16)
  lastGiven : Nat
  turn : Nat
  used : Nat
  classes : FMap Nat
  active : FMap Word
  fixed : FMap Bool
  entries : List (Nat × List Word)
  withheld : List Nat
  offered : FMap (BitVec 20 × BitVec 16)
  cands : List Candidate
  frame : List (List Byte)
  shut : List Nat
  deriving DecidableEq, Repr

def Port.empty : Port :=
  ⟨0, 0xFFFFFF, [], 0, false, 0, 0, [], none, 0, none, none, 0, [], [], [], [], [], [], 0, 0, 0, [], [], [], [], [], [], [], [], []⟩

/-- What the link-state map holds of one torus link end (R326). -/
structure LinkInfo where
  node : BitVec 12
  up : Bool
  epoch : BitVec 32
  deriving DecidableEq, Repr

/-- A request that a landing unit has checked and forwarded to its target (R350, R354); `old` when its context's table has
been loaded or removed since (R349). -/
structure Forward where
  port : Nat
  req : FabricRequest
  ctx : Nat
  target : Operand
  old : Bool
  deriving DecidableEq, Repr

/-- A response that the package sends (R343): destination node and tile, request ID, job tag, offset and length of the request,
status, grant, data. -/
structure Answer where
  node : BitVec 12
  tile : BitVec 10
  id : BitVec 32
  job : BitVec 20
  off : BitVec 44
  len : Nat
  status : Status
  grant : Nat
  data : List Byte
  deriving DecidableEq, Repr

/-- The light ports, the link map and the landing units (chapters 12 and 13). `job` is the fabric command in progress, true for a landing drain and false
for a reach-map invalidation; `answers` are the responses sent. -/
structure Light where
  ports : FMap Port
  links : FMap LinkInfo
  dups : List Nat
  forwards : List Forward
  answers : List Answer
  job : Option Bool
  farQuery : FMap Word
  deriving DecidableEq, Repr

/-! ### Function tables, security, power, start, safety, debug -/

/-- A function-table command in progress (R185, R188): slot, load or unload, the image once it has been read, tiles yet to confirm, whether
the other Binnacle empties the slot because the first one failed, and when the command began. -/
structure FtCmd where
  slot : Nat
  load : Bool
  image : List Word
  awaiting : List Nat
  abandoned : Bool
  since : Word
  deriving DecidableEq, Repr

/-- The function tables: images by slot, and the command in progress. -/
structure Tables where
  images : FMap (List Word)
  cmd : Option FtCmd
  deriving DecidableEq, Repr

/-- The security command in progress (R406 to R415). -/
inductive SecCmd where
  | verify (started : Word)
  | svn (value : Nat)
  | cert
  | attest (report : List Byte)
  | key (slot : Nat) (put : Bool)
  deriving DecidableEq, Repr

/-- Security state that no register shows whole: the command in progress and the host address that it was given, publisher keys, the
fused minimum version of Binnacle A and of Binnacle B (R404, R407). -/
structure Secure where
  cmd : Option SecCmd
  addr : Nat
  keys : FMap (List Byte)
  fused : Nat
  running : Nat
  fusedB : Nat
  deriving DecidableEq, Repr

/-- What the Sextant keeps of one watch from the last period (R432): learned gain, rate, full-activity estimate (units of
`2^-24` of 10 mW), point. -/
structure WatchPower where
  g : BitVec 32
  r : Nat
  e : Nat
  point : Nat
  deriving DecidableEq, Repr

def WatchPower.zero : WatchPower := ⟨0, 0, 0, 0⟩

/-- Power and thermal state beside the registers (chapter 16). `phase` is 1 Running, 2 Stowed, 4 entering or 5 leaving
Stowed; `trimmed` lies over it, and `cool` says since when every sensor permits its end (R440). `held` lists tiles that were
held before a STOW; `duty` a die's gate duty and `clamped` the dies of R451; `droops` the dies whose clocks are halved, with the nanosecond
of the islands' running at their last droop (R439); `lease` when the rack cap was last renewed;
`lowHost` and `lowRack` caps below 1,200 W that stand (R427); `missed` reads by rail; `estSum` and `estN` the tile estimates
since the last k (R430); `timers` when each timed row last acted; `billAt` and `billRan` the
Chronometer and the nanoseconds of the islands' running at the last adjustment of the watch bill (R279). -/
structure Power where
  phase : Nat
  trimmed : Bool
  cool : Option Word
  held : List Nat
  duty : FMap Nat
  clamped : List Nat
  droops : FMap Word
  lease : Option Word
  rackCap : Nat
  rackSeen : Bool
  lowHost : Bool
  lowRack : Bool
  missed : FMap Nat
  estSum : Nat
  estN : Nat
  decode : WatchPower
  prefill : WatchPower
  island : Bool
  throttled : Bool
  timers : FMap Word
  billAt : Word
  billRan : Word
  deriving DecidableEq, Repr

/-- Where a reset or staged start stands (R421, R456 to R471): held in reset, in staged start or working, a warm reset that
waits for a fuse write (R459), that flushes, that holds the islands; the package is off. -/
inductive Boot where
  | held
  | stage
  | warmWait
  | warmFlush
  | warmHold
  | off
  deriving DecidableEq, Repr

/-- Reset and start: KEEP as asked and as it applies (R458), when the present stage or reset step began, the straps as
sampled, the tile whose reset runs, and whether `BN_RESET_N` and `HI_PERST_N` are low. -/
structure Start where
  boot : Boot
  keep : Bool
  kept : Bool
  since : Word
  straps : BitVec 8
  tileReset : Option Nat
  resetLow : Bool
  perstLow : Bool
  deriving DecidableEq, Repr

/-- One Binnacle's heartbeats (R482 to R484): sequence, last message, last toggle of the live line, whether each path is good,
and until when an injection suppresses each (R500). -/
structure Beat where
  seq : BitVec 32
  msgAt : Word
  lineAt : Word
  msgGood : Bool
  lineGood : Bool
  quietMsg : Word
  quietLine : Word
  deriving DecidableEq, Repr

/-- Safety state (chapter 18) and the control lands (chapter 20): the safe state, its causes and when it was entered; the
Sextant's latch; heartbeats; error ring and retained area, newest first; corrected-error counts at the last summary; crossings
that stopped after an overrun; the lands `PW_PREQ`, `PW_TRIP_N`, `BN_FAULT_N`, emergency-off asserted, `BN_MGMT_ALERT_N`, `PW_PG`
(R522); and the status of the last entry into the safe state, 0 for none (R488, R500). -/
structure Safety where
  safe : Bool
  causes : List Status
  since : Word
  latch : Bool
  beatA : Beat
  beatB : Beat
  ring : List (List Word)
  retained : List (List Word)
  summary : FMap Word
  stopped : List Crossing
  preq : Bool
  tripN : Bool
  faultN : Bool
  eoff : Bool
  alertN : Bool
  pg : BitVec 16
  entry : Status
  deriving DecidableEq, Repr

/-- Data registers of the test access port (R535 to R537). -/
inductive TapReg where
  | idcode | boundary | bypass
  deriving DecidableEq, Repr

/-- What the boundary-scan lands do (R537): their service function, or the effect of an instruction. -/
inductive Pins where
  | service | extest | pulse | train | clamp | highz
  deriving DecidableEq, Repr

/-- Lands that the model has a level for and that have observe-only cells in the boundary-scan register (Table 20-1). -/
inductive Land where
  | perstN
  | powerGood (i : Fin 16)
  | resetN
  | eoffN
  | preq
  | tripN
  | faultN
  | strap (i : Fin 8)
  | laserEn (p : Fin 8)
  deriving DecidableEq, Repr

/-- What a stopped tile learns when a fix ends (R504, R506): the host link has been lost; a fabric request has failed; the host has
refused a request of a piece, or the read that a fence waits for. -/
inductive Deferred where
  | hostLost
  | remote (tile : Nat) (id : BitVec 32) (st : Status)
  | request (tile ord seq : Nat)
  | fence (tile slot : Nat)
  deriving DecidableEq, Repr

/-- A coded word on a lane of the log line (R512): the lane, the two bits that mark data in 64b/66b coding, and the 64 bits before they
are scrambled (log 12). -/
structure LaneWord where
  lane : Nat
  sync : BitVec 2
  data : Word
  deriving DecidableEq, Repr

/-- The words of a packet on their lanes: word i on lane i mod 8, starting on lane 0 (R512). -/
def lanesOf (packet : List Word) : List LaneWord := packet.zipIdx.map fun x => ⟨x.2 % 8, 1, x.1⟩

/-- Debug state (chapter 19), the management port's last answer and the test port (chapter 20): watchpoint entries before
their last write and when that was (R511); the words that left on the log line, idle words apart; packets lost by tile; the round-robin places
(R515); the scan in progress with its address and options; `latched` the upper halves of R516; `deferred` what stopped tiles have yet to
learn (R506), in order; `cells` what the observe-only cells captured last (R537). -/
structure Debug where
  wpOld : FMap Word
  wpAt : FMap Word
  sent : List LaneWord
  lost : FMap Nat
  column : Nat
  rowAt : FMap Nat
  scan : Option (Nat × Nat)
  mgmtOut : List Word
  ir : BitVec 8
  tap : TapReg
  pins : Pins
  latched : FMap Word
  deferred : List Deferred
  cells : List (Land × Bool)
  deriving DecidableEq, Repr

/-- What the model is given of the world outside: functions for which ATS is enabled, functions that their configuration space enables
(R388, R460; log 111), host pages that the host refuses (by address space and page), and, as outputs, the MSI-X messages sent (function, vector) and the blocks that left by the light
ports, idle blocks apart. -/
structure Outside where
  ats : List Nat
  enabled : List Nat
  denied : List (Nat × Nat)
  msix : List (Nat × Nat)
  aer : Nat
  blocks : List SentBlock
  deriving DecidableEq, Repr

/-! ### The package -/

/-- Memories of the package and of the host, as sparse bytes: an unlisted byte is zero (DESIGN CHOICE, log 9). `bad` names
uncorrectable 64-byte blocks of Near and Mid; `cache` holds the bytes that Helm-core caches have made dirty; `job` is the tier
command in progress, true for a harvest and false for an invalidation (R290, R295); `inval` names the requests in flight, by tile
and sequence, that use an entry under invalidation. -/
structure Memory where
  near : FMap Byte
  far : FMap Byte
  host : FMap Byte
  bad : FMap Bool
  cache : FMap Byte
  lines : FMap (List (Nat × Nat))
  job : Option Bool
  inval : List (Nat × Nat)
  deriving DecidableEq, Repr

/-- What registers need beside their values: the bits of a write-one-to-clear register that hardware has set in the present
nanosecond (R10), for how many nanoseconds the tile islands have run since the last package reset, from which of these each counter of
cycles counts (R54), what each tile's backlog count was at the last adjustment of the watch bill (R279), and what its busy cycles were in
the last period of the sharing of the cap (R432); and the source and the place of the access that failed last, for the error record of
what it ends (R495). -/
structure Marks where
  fresh : FMap Word
  ran : Word
  since : FMap Word
  backlog : FMap Word
  busy : FMap Word
  spot : Nat × Nat
  deriving DecidableEq, Repr

/-- The state of the package and the queue of waiting commands. `free` counts the free values drawn (the model's own). -/
structure State where
  chron : Word
  free : Nat
  regs : FMap Word
  marks : Marks
  mem : Memory
  tiles : FMap TileState
  ctxs : FMap Ctx
  mail : Mail
  mgmt : Mgmt
  light : Light
  tables : Tables
  sec : Secure
  power : Power
  start : Start
  safety : Safety
  dbg : Debug
  outside : Outside
  pending : List Instr
  deriving DecidableEq, Repr

def Memory.empty : Memory := ⟨[], [], [], [], [], [], none, []⟩
def Marks.empty : Marks := ⟨[], 0, [], [], [], (0, 0)⟩
def Mail.empty : Mail := ⟨[], [], [], [], [], [], [], []⟩
def Mgmt.empty : Mgmt := ⟨0, 0, [], none, [], [], false⟩
def Light.empty : Light := ⟨[], [], [], [], [], none, []⟩
def Tables.empty : Tables := ⟨[], none⟩
def Secure.empty : Secure := ⟨none, 0, [], 0, 0, 0⟩
def Power.empty : Power := ⟨1, false, none, [], [], [], [], none, 5600, false, false, false, [], 0, 0, .zero, .zero, false, false, [], 0, 0⟩
def Start.reset : Start := ⟨.held, false, false, 0, 0, none, true, true⟩
def Beat.reset : Beat := ⟨0, 0, 0, false, false, 0, 0⟩
def Safety.reset : Safety := ⟨false, [], 0, false, .reset, .reset, [], [], [], [], false, true, true, false, true, 0xFFFF#16, 0⟩
def Debug.reset : Debug := ⟨[], [], [], [], 0, [], none, [], 1, .idcode, .service, [], [], []⟩
def Outside.empty : Outside := ⟨[], [], [], [], 0, []⟩

/-- The package right after reset: every register at its Reset column (the map lists none), memories with nothing listed,
no context, empty queues (R455). -/
def State.reset : State :=
  { chron := 0, free := 0, regs := [], marks := .empty, mem := .empty, tiles := [], ctxs := [], mail := .empty, mgmt := .empty,
    light := .empty, tables := .empty, sec := .empty, power := .empty, start := .reset, safety := .reset, dbg := .reset,
    outside := .empty, pending := [] }

/-- No row of the part stops it with a fault: every illegal input has a named status (R5). -/
inductive Fault where
  deriving DecidableEq, Repr

/-- Why a step gives no next state. -/
inductive Refusal where
  /-- Raised by `exec` for a command that has no meaning yet; safe. -/
  | notModelled (mnemonic : String)
  /-- Raised by a meaning whose command carries operands outside its row's range (Sys2Proof.WellFormed), which nothing
  can send; safe. -/
  | illFormed
  deriving DecidableEq, Repr

end Sys2Proof.Machine
end

