-- ==== Sys2Proof/Machine/Regs.lean ====
section
/-! DEFINITION. The register map: windows of PF0 BAR0 (Table 14-3), and for each register its access and reset value.
A register that no row lists is read-only with reset value zero (counters and most status registers), or a range that reads
zero; writes to both are ignored (R8, R365). -/

namespace Sys2Proof.Machine

/-- A writable field: place, width, and which encodings are legal (R5). -/
structure Field where
  lo : Nat
  width : Nat
  legal : Nat → Bool

/-- Access of a register (R8): read-only, read-write by fields, write-one-to-clear by mask, a register whose writes have a row
of their own, or a write-only command register with the mask of its fields. -/
inductive Access where
  | ro
  | rw (fields : List Field)
  | rw1c (mask : Nat)
  | own
  | wo (mask : Nat)

/-- One line of a register table: `count` registers from `base`, `stride` apart. -/
structure RegRow where
  base : Nat
  stride : Nat
  count : Nat
  access : Access
  reset : Nat

/-- A field whose every encoding is legal. -/
def whole (lo width : Nat) : Field := ⟨lo, width, fun _ => true⟩

/-- Windows (Table 14-3). -/
def hiBase : Nat := 0x000000
def bnBase : Nat := 0x010000
def sxBase : Nat := 0x020000
def pwBase : Nat := 0x030000
def scBase : Nat := 0x040000
def dbBase : Nat := 0x050000
def mtBase : Nat := 0x060000
def fbBase : Nat := 0x070000
def lpBase : Nat := 0x080000
def tileBase (t : Nat) : Nat := 0x100000 + 0x1000 * t

/-- `n` low bits are zero (an aligned address, in units of the field). -/
def lowZero (n : Nat) (v : Nat) : Bool := v % 2 ^ n = 0

/-- Host-interface registers (Table 14-16). The ring, log and size fields are further bound by ENABLE (R387). -/
def hiRows : List RegRow := [
  ⟨0x018, 8, 1, .rw [⟨0, 64, lowZero 15⟩], 0⟩,
  ⟨0x020, 8, 1, .rw [⟨0, 64, lowZero 6⟩], 0⟩,
  ⟨0x028, 8, 1, .rw [⟨0, 64, lowZero 6⟩], 0⟩,
  ⟨0x030, 8, 1, .rw [⟨0, 64, lowZero 3⟩], 0⟩,
  ⟨0x038, 8, 1, .rw [⟨0, 64, lowZero 3⟩], 0⟩,
  ⟨0x040, 8, 1, .rw [⟨0, 5, fun n => 4 ≤ n && n ≤ 12⟩, ⟨8, 5, fun n => 4 ≤ n && n ≤ 12⟩, whole 16 1], 0⟩,
  ⟨0x048, 8, 1, .rw [whole 0 32], 0⟩,
  ⟨0x1F8, 8, 1, .wo 1, 0⟩]

/-- Binnacle registers (Tables 17-7 and 18-9) and the function-table registers (Table 7-4). -/
def bnRows : List RegRow := [
  ⟨0x000, 8, 1, .ro, 0x71604101⟩,
  ⟨0x018, 8, 1, .rw [⟨8, 4, fun n => n ≤ 6⟩, ⟨0, 4, fun n => 1 ≤ n && n ≤ 12⟩], 0x60C⟩,
  ⟨0x020, 8, 1, .wo 3, 0⟩,
  ⟨0x028, 8, 1, .wo 3, 0⟩,
  ⟨0x030, 8, 1, .ro, 1⟩,
  ⟨0x040, 8, 1, .wo 0x3FF, 0⟩,
  ⟨0x200, 8, 1, .ro, 0x10⟩,
  ⟨0x218, 8, 1, .rw [whole 63 1, whole 32 4, whole 0 32], 0⟩,
  ⟨0x260, 8, 1, .rw [whole 0 7], 0⟩,
  ⟨0x268, 8, 1, .wo 0xF0000000000003FF, 0⟩,
  ⟨0x2F8, 8, 1, .wo 1, 0⟩,
  ⟨0xC00, 8, 1, .rw [⟨0, 64, lowZero 6⟩], 0⟩,
  ⟨0xC08, 8, 1, .wo 0xF3, 0⟩]

/-- A band's limit pair is legal: lower at most upper, upper at most 10 (R279). -/
def limitPair (n : Nat) : Bool := n % 16 ≤ n / 16 && n / 16 ≤ 10

/-- Sextant registers (Tables 10-9 and 16-8). -/
def sxRows : List RegRow := [
  ⟨0x010, 8, 1, .rw [whole 63 1, ⟨0, 48, lowZero 7⟩], 0⟩,
  ⟨0x020, 8, 1, .rw [whole 0 1], 1⟩,
  ⟨0x030, 8, 1, .ro, 0x3F800000⟩,
  ⟨0x100, 8, 16, .rw [whole 62 2, ⟨56, 6, fun n => n ≤ 1⟩, whole 48 7, whole 40 8], 0⟩,
  ⟨0x3F8, 8, 1, .wo 1, 0⟩,
  ⟨0x400, 8, 1, .rw [⟨0, 48, lowZero 6⟩], 0⟩,
  ⟨0x408, 8, 1, .rw [⟨24, 16, fun n => 1 ≤ n⟩, whole 16 8, whole 0 1], 0⟩,
  ⟨0x410, 8, 1, .rw [⟨0, 8, limitPair⟩, ⟨8, 8, limitPair⟩, ⟨16, 8, limitPair⟩, ⟨24, 8, limitPair⟩, ⟨32, 8, limitPair⟩,
    ⟨40, 8, limitPair⟩], 0xA0A0A0A0A0A0⟩,
  ⟨0x418, 8, 1, .wo 0xFFFFFF, 0⟩,
  ⟨0x420, 8, 1, .ro, 0x222222⟩]

/-- Power registers (Table 16-7). `PW_FLAGS[5]` is read-only; `[0]` is further bound by the cap (R427). -/
def pwRows : List RegRow := [
  ⟨0x000, 8, 1, .ro, 0x11⟩,
  ⟨0x008, 8, 1, .wo 3, 0⟩,
  ⟨0x018, 8, 1, .own, 0x15E0⟩,
  ⟨0x020, 8, 1, .ro, 0x15E015E015E0⟩,
  ⟨0x028, 8, 1, .own, 0⟩,
  ⟨0x030, 8, 1, .ro, 0x40400000⟩,
  ⟨0x038, 8, 1, .rw1c 0x1F, 0⟩,
  ⟨0x040, 8, 1, .rw [⟨0, 8, fun n => 20 ≤ n && n ≤ 100⟩], 0x28⟩,
  ⟨0x0F8, 8, 1, .wo 1, 0⟩]

/-- Security registers (Table 15-9). -/
def scRows : List RegRow := [
  ⟨0x008, 8, 1, .own, 0⟩,
  ⟨0x010, 8, 1, .rw [⟨0, 64, lowZero 6⟩], 0⟩,
  ⟨0x018, 8, 1, .wo 1, 0⟩,
  ⟨0x028, 8, 1, .wo 0x7F, 0⟩,
  ⟨0x100, 8, 1, .rw [⟨0, 64, lowZero 6⟩], 0⟩,
  ⟨0x108, 8, 1, .wo 1, 0⟩,
  ⟨0x200, 8, 1, .rw [⟨0, 64, lowZero 6⟩], 0⟩,
  ⟨0x208, 8, 1, .wo 0x1F9FFF, 0⟩,
  ⟨0x300, 8, 1, .rw [⟨0, 64, lowZero 6⟩], 0⟩,
  ⟨0x308, 8, 1, .wo 0xF3, 0⟩,
  ⟨0x380, 8, 8, .own, 0⟩]

/-- Debug registers (Table 19-11). The tiles of `DB_TR_TILES` are further bound: the first at most the last, and that at most 639. -/
def dbRows : List RegRow := [
  ⟨0x000, 8, 1, .own, 0⟩,
  ⟨0x010, 8, 1, .wo 3, 0⟩,
  ⟨0x028, 8, 1, .rw [⟨0, 64, lowZero 6⟩], 0⟩,
  ⟨0x030, 8, 1, .rw [whole 0 64], 0⟩,
  ⟨0x038, 8, 1, .rw [whole 0 2], 0⟩,
  ⟨0x100, 0x20, 16, .own, 0⟩,
  ⟨0x108, 0x20, 16, .rw [⟨0, 56, lowZero 6⟩], 0⟩,
  ⟨0x110, 0x20, 16, .rw [⟨0, 56, lowZero 6⟩], 0⟩,
  ⟨0x300, 8, 1, .rw [whole 29 13, whole 16 9, whole 4 12, whole 0 2], 0⟩,
  ⟨0x308, 8, 1, .rw [whole 16 10, whole 0 10], 0x27F0000⟩,
  ⟨0x310, 8, 1, .rw [whole 0 64], 0⟩,
  ⟨0x400, 8, 16, .own, 0⟩,
  ⟨0x700, 8, 1, .rw1c 0x3FF, 0⟩,
  ⟨0x708, 8, 1, .rw [whole 0 7], 0⟩,
  ⟨0x7F8, 8, 1, .wo 1, 0⟩]

/-- Memory-tier registers (Table 11-9). -/
def mtRows : List RegRow := [
  ⟨0x018, 8, 1, .rw [⟨16, 4, fun n => 1 ≤ n && n ≤ 2⟩], 0x20000⟩,
  ⟨0x048, 8, 1, .rw [⟨32, 16, fun n => n != 0⟩, ⟨16, 16, fun n => n != 0⟩, ⟨0, 16, fun n => n != 0⟩], 0x138807D003E8⟩,
  ⟨0x050, 8, 1, .rw1c 0x7FF, 0⟩,
  ⟨0x180, 8, 16, .own, 0⟩,
  ⟨0x400, 8, 1, .wo 0x7F, 0⟩,
  ⟨0x408, 8, 1, .rw [⟨0, 64, lowZero 6⟩], 0⟩,
  ⟨0x410, 8, 1, .wo 0x3FFFFFFFFFFFF, 0⟩,
  ⟨0x418, 8, 1, .wo 0x8003FFFFFFFFFFFF, 0⟩,
  ⟨0x420, 8, 1, .wo 1, 0⟩,
  ⟨0x428, 8, 1, .rw [⟨32, 16, fun n => 60 ≤ n⟩, ⟨0, 16, fun n => 60 ≤ n⟩], 0x5A0000005A0⟩,
  ⟨0x430, 8, 1, .rw [whole 0 2], 3⟩]

/-- Fabric registers (Table 13-8). -/
def fbRows : List RegRow := [
  ⟨0x000, 8, 1, .rw [⟨0, 6, fun n => n != 0⟩], 0x10⟩,
  ⟨0x010, 8, 1, .rw [whole 21 23], 0⟩,
  ⟨0x018, 8, 1, .wo 0x1FFF, 0⟩,
  ⟨0x030, 8, 1, .wo 1, 0⟩,
  ⟨0x0F8, 8, 1, .wo 1, 0⟩,
  ⟨0x8000, 8, 4096, .own, 0⟩]

/-- Light-port registers (Tables 12-6 and 20-10). `LP_COORD` and `LP_NODE` reset from the strap lands (R322). -/
def lpRows : List RegRow := [
  ⟨0x008, 8, 1, .own, 0⟩,
  ⟨0x010, 8, 1, .own, 0⟩,
  ⟨0x018, 8, 1, .own, 0⟩,
  ⟨0x020, 8, 1, .own, 1⟩,
  ⟨0x048, 8, 1, .wo 1, 0⟩,
  ⟨0x100, 0x80, 7, .own, 0x10100⟩,
  ⟨0x480, 8, 1, .own, 0x10000⟩,
  ⟨0x120, 0x80, 8, .wo 1, 0⟩,
  ⟨0x168, 0x80, 8, .own, 0⟩,
  ⟨0x600, 8, 48, .own, 0⟩,
  ⟨0x8000, 8, 4096, .rw [whole 63 1, ⟨61, 2, fun n => n != 3⟩, whole 0 7], 0⟩]

/-- Tile and Helm-core registers by offset in the tile window (Tables 2-6, 2-7, 6-3, 6-4, 10-7, 10-8). -/
def tileRows : List RegRow := [
  ⟨0x008, 8, 1, .own, 1⟩,
  ⟨0x018, 8, 1, .rw1c 0x1FF, 0⟩,
  ⟨0x100, 8, 16, .own, 0⟩,
  ⟨0x200, 8, 1, .rw [⟨0, 16, fun n => 16 ≤ n⟩], 0x40⟩,
  ⟨0x3F8, 8, 1, .wo 1, 0⟩,
  ⟨0x400, 0x30, 16, .own, 0⟩,
  ⟨0x700, 8, 1, .rw1c 0xFFFF, 0⟩,
  ⟨0x720, 8, 1, .wo 0x1FFFF, 0⟩,
  ⟨0x728, 8, 1, .rw [⟨0, 7, fun n => 2 ≤ n && n ≤ 64⟩], 8⟩,
  ⟨0x730, 8, 1, .wo 0xFFFFFF0000FFFFFF, 0⟩,
  ⟨0x808, 8, 1, .own, 0⟩,
  ⟨0x890, 8, 1, .rw1c 7, 0⟩,
  ⟨0x898, 8, 1, .wo 1, 0⟩,
  ⟨0x900, 8, 16, .rw [⟨0, 48, lowZero 6⟩], 0⟩,
  ⟨0xA00, 0x20, 16, .own, 0⟩]

/-- Whether a register lies on a row. -/
def RegRow.covers (r : RegRow) (o : Nat) : Bool :=
  r.base ≤ o && (o - r.base) % r.stride = 0 && (o - r.base) / r.stride < r.count

/-- Whether `o` is the offset of a tile window. -/
def inTile (a : Nat) : Bool := 0x100000 ≤ a && a < 0x100000 + 0x1000 * 640

/-- The rows of the window that holds a BAR0 offset, and the offset within the window. -/
def window (a : Nat) : List RegRow × Nat :=
  if inTile a then (tileRows, (a - 0x100000) % 0x1000)
  else
    (match a / 0x10000 with
     | 0 => hiRows | 1 => bnRows | 2 => sxRows | 3 => pwRows | 4 => scRows | 5 => dbRows | 6 => mtRows | 7 => fbRows
     | 8 => lpRows
     | _ => [], a % 0x10000)

/-- The row of a register, if one is listed. -/
def rowAt (a : Nat) : Option RegRow := (window a).1.find? (fun r => r.covers (window a).2)

/-- Access of the register at a BAR0 offset. -/
def accessAt (a : Nat) : Access :=
  match rowAt a with
  | some r => r.access
  | none => .ro

/-- Reset column of the register at a BAR0 offset. -/
def resetAt (a : Nat) : Word :=
  match rowAt a with
  | some r => BitVec.ofNat 64 r.reset
  | none => 0

/-- The register that holds the last status of the block of a BAR0 offset, in bits `[31:16]` (R5, R7): the tile's or the
Helm core's, and one for each other window. The Sextant's is `PW_STATUS`; the Binnacle's `BN_CMD_STATUS`, and
`BN_FT_STATUS` for the function-table registers. -/
def statusReg (a : Nat) : Nat :=
  if inTile a then
    let b := a - (a - 0x100000) % 0x1000
    if (a - 0x100000) % 0x1000 < 0x800 then b + 0x010 else b + 0x800
  else match a / 0x10000 with
    | 0 => hiBase + 0x008
    | 1 => if a % 0x10000 < 0xC00 then bnBase + 0x050 else bnBase + 0xC10
    | 2 => pwBase + 0x010
    | 3 => pwBase + 0x010
    | 4 => scBase + 0x000
    | 5 => dbBase + 0x008
    | 6 => mtBase + 0x020
    | 7 => fbBase + 0x008
    | _ => lpBase + 0x028

end Sys2Proof.Machine
end

