-- ==== Sys2Proof/WellFormed.lean ====
section
/-! DEFINITION. Which operands a command may carry: the ranges that the spec's rows give their events. An instruction or a
register write with an illegal encoding is not ill-formed: the spec names its outcome (R5, R95), and the machine gives it. -/

namespace Sys2Proof

/-- A fabric request as a header and its data can spell it (Table 13-2): length 1 to 131,072; data exactly for writes and
collective contributions. -/
def FabricRequest.wf (q : FabricRequest) : Bool :=
  1 ≤ q.len && q.len ≤ 131072 &&
    (if q.kind = 2 || q.kind = 6 then q.data.length = q.len else q.data.length = 0)

/-- A rate code and a width that a link can train to (R362). -/
def linkMode (rate : BitVec 4) (width : BitVec 6) : Bool := 1 ≤ rate.toNat && rate.toNat ≤ 7 && (width.toNat ∈ [1, 2, 4, 8, 16])

/-- Operands are in their row's range. -/
def Instr.wf : Instr → Bool
  | .lpBlockReceive _ block _ => block.length = 280 || block.length = 1184
  | .lpCapabilityBlock _ cap => cap.pairs.length = 16
  | .lpLoopDone _ _ errs => errs.length = 64
  | .landingCheck _ q => q.wf
  | .remoteResponse _ _ _ grant _ => 1 ≤ grant.toNat && grant.toNat ≤ 64
  | .thermalSample temps => temps.length = 100
  | .pmbusRead rails => rails.length = 16
  | .memoryStageDone near mid => near.length = 12 && mid.length = 24
  | .spScrub _ word _ => word < 6291456
  | .stackFailed mid n => if mid then n.val < 6 else true
  | .pcieLinkUp rate width _ => linkMode rate width
  | _ => true

end Sys2Proof
end

