-- ==== Sys2Proof/Machine/Ops.lean ====
section
/-! DEFINITION. The named operations over the state: registers and counters, tiles and contexts, the states in which the package works,
the mesh. -/

namespace Sys2Proof.Machine

/-- The outcome type of every meaning. -/
abbrev Result := Host.Outcome State Fault Refusal

/-! ### Bit fields -/

/-- Field `[lo + w - 1 : lo]` of a word, as a number. -/
def bits (v : Word) (lo w : Nat) : Nat := (v.toNat >>> lo) % 2 ^ w

/-- The mask of a field. -/
def maskOf (lo w : Nat) : Word := BitVec.ofNat 64 ((2 ^ w - 1) <<< lo)

/-- A word with one field replaced. -/
def setBits (v : Word) (lo w x : Nat) : Word := (v &&& ~~~ (maskOf lo w)) ||| BitVec.ofNat 64 ((x % 2 ^ w) <<< lo)

/-- One bit of a word. -/
def tst (v : Word) (i : Nat) : Bool := v.getLsbD i

/-- A word from parts `(lo, value)`. -/
def pack (ps : List (Nat × Nat)) : Word := BitVec.ofNat 64 (ps.foldl (fun acc p => acc + p.2 <<< p.1) 0)

/-- A Boolean as a number. -/
def b2n (b : Bool) : Nat := if b then 1 else 0

/-- Little-endian bytes of a word's low part (R6). -/
def bytesOf (n : Nat) (v : Nat) : List Byte := (List.range n).map fun i => BitVec.ofNat 8 (v >>> (8 * i))

/-- The number that little-endian bytes spell. -/
def ofBytes : List Byte → Nat
  | [] => 0
  | b :: bs => b.toNat + 256 * ofBytes bs

/-- The 64-bit words of a byte list, little-endian. -/
def wordsOf (n : Nat) (bs : List Byte) : List Word :=
  (List.range n).map fun i => BitVec.ofNat 64 (ofBytes ((bs.drop (8 * i)).take 8))

/-! ### Registers and counters -/

/-- The register at a BAR0 offset. -/
def State.reg (s : State) (a : Nat) : Word := FMap.get (resetAt a) s.regs a

/-- Set the register at a BAR0 offset. -/
def State.setReg (s : State) (a : Nat) (v : Word) : State := { s with regs := FMap.put (resetAt a) s.regs a v }

/-- Set one field of a register. -/
def State.setField (s : State) (a lo w x : Nat) : State := s.setReg a (setBits (s.reg a) lo w x)

/-- The register is one whose bits a write of ones clears. -/
def clearsOnOne (a : Nat) : Bool := match accessAt a with | .rw1c _ => true | _ => false

/-- Set bits of a register (status bits that hardware sets). Of a register that a write of ones clears, the bits set in this
nanosecond are remembered: they stay set through a write of the same nanosecond, which the model takes for the same clock cycle
(R10; DESIGN CHOICE, log 88). -/
def State.orReg (s : State) (a : Nat) (m : Nat) : State :=
  { s.setReg a (s.reg a ||| BitVec.ofNat 64 m) with
    marks := if clearsOnOne a then
        { s.marks with fresh := FMap.put 0 s.marks.fresh a (FMap.get 0 s.marks.fresh a ||| BitVec.ofNat 64 m) }
      else s.marks }

/-- A register of a tile's window. -/
def State.treg (s : State) (t o : Nat) : Word := s.reg (tileBase t + o)
def State.setTreg (s : State) (t o : Nat) (v : Word) : State := s.setReg (tileBase t + o) v

/-- Record a status in the `_STATUS` register of the block that owns a register (R5). -/
def State.record (s : State) (a : Nat) (st : Status) : State := s.setField (statusReg a) 16 16 st.toNat

/-- The `DB_OVF` bit of a block (R516, Table 19-11). -/
def ovfBit (a : Nat) : Nat :=
  if inTile a then (if (a - 0x100000) % 0x1000 < 0x800 then 0 else 1)
  else match a / 0x10000 with
    | 0 => 5 | 1 => 8 | 2 => 6 | 3 => 6 | 4 => 7 | 5 => 9 | 6 => 2 | 7 => 4 | _ => 3

/-- Send an MSI-X message of a function. -/
def State.interrupt (s : State) (fn vec : Nat) : State :=
  { s with outside := { s.outside with msix := s.outside.msix ++ [(fn, vec)] } }

/-- PF0's number among interrupt senders: PF1 is 0 and a virtual function its number, so PF0 is 256. -/
def pf0 : Nat := 256

/-- A counter sets its overflow flag: the block's bit of `DB_OVF`; a bit that was clear gives the notification of R516. -/
def State.overflow (s : State) (a : Nat) : State :=
  let o := dbBase + 0x700
  let s1 := s.orReg o (2 ^ ovfBit a)
  let nv := s1.reg (dbBase + 0x708)
  if ! tst (s.reg o) (ovfBit a) && tst nv 6 then s1.interrupt pf0 (bits nv 0 6) else s1

/-- Add to an event counter of 48 bits that saturates with a sticky flag in bit 63 (R54); a counter whose flag is set stays as it is. -/
def State.count (s : State) (a n : Nat) : State :=
  if n = 0 || tst (s.reg a) 63 then s
  else
    let c := bits (s.reg a) 0 48 + n
    if c < 2 ^ 48 then s.setReg a (setBits (s.reg a) 0 48 c)
    else (s.setReg a (BitVec.ofNat 64 (2 ^ 63 + (2 ^ 48 - 1)))).overflow a

/-- Add to a counter of a tile. -/
def State.tcount (s : State) (t o n : Nat) : State := s.count (tileBase t + o) n

/-- Counters of cycles that go on whatever is commanded, by place in a tile's window: bank conflicts, router stalls, and the two
clocks' cycles (Tables 2-6 and 2-7). -/
def tileTimers : List Nat := [0x318, 0x330, 0x338, 0x340, 0x348, 0x3F0, 0x8B0]

/-- The register is such a counter. -/
def timerAt (a : Nat) : Bool := inTile a && tileTimers.contains ((a - 0x100000) % 0x1000)

/-- From which nanosecond of the islands' running such a counter counts. -/
def State.countsFrom (s : State) (a : Nat) : Word := (FMap.find? s.marks.since a).getD 0

/-- What such a counter counts in one nanosecond in which the islands run: open (log 20), but fewer than 256, as no clock ticks more than
three times in it and few requesters wait (DEDUCED, log 20). -/
def cyclesNow (a : Nat) (at_ : Word) : Nat := min 255 (Config.elapsed at_ a)

/-- What it counts in `n` such nanoseconds from one on. -/
def cyclesIn (a : Nat) (start : Word) : Nat → Nat
  | 0 => 0
  | n + 1 => cyclesIn a start n + cyclesNow a (start + BitVec.ofNat 64 n)

/-- What such a counter shows: it has counted since it was cleared, while the islands ran: a stopped clock counts nothing (R421, R456,
R504). Those of a clock are 64 bits wide and wrap, the others hold 48 bits, saturate and keep a flag of it (R54). -/
def State.elapsed (s : State) (a : Nat) (wide : Bool) : Word :=
  let n := cyclesIn a (s.countsFrom a) (s.marks.ran - s.countsFrom a).toNat
  if wide then BitVec.ofNat 64 n else if n < 2 ^ 48 then BitVec.ofNat 64 n else BitVec.ofNat 64 (2 ^ 63 + (2 ^ 48 - 1))

/-- Clear the registers of a list; a counter of cycles counts from now. -/
def State.clearRegs (s : State) (as : List Nat) : State :=
  let s1 := as.foldl (fun acc a => acc.setReg a 0) s
  { s1 with marks := { s1.marks with since := (as.filter timerAt).foldl (fun m a => FMap.insert m a s.marks.ran) s1.marks.since } }

/-- `n` registers from `a`, eight bytes apart. -/
def span (a n : Nat) : List Nat := (List.range n).map fun i => a + 8 * i

/-! ### Tiles and contexts -/

def State.tile (s : State) (t : Nat) : TileState := FMap.get .empty s.tiles t

def State.setTile (s : State) (t : Nat) (x : TileState) : State := { s with tiles := FMap.put .empty s.tiles t x }

/-- Change a tile. -/
def State.onTile (s : State) (t : Nat) (f : TileState → TileState) : State := s.setTile t (f (s.tile t))

def State.ctx? (s : State) (c : Nat) : Option Ctx := FMap.find? s.ctxs c

def State.setCtx (s : State) (c : Nat) (x : Ctx) : State := { s with ctxs := FMap.insert s.ctxs c x }

/-- Change a live context. -/
def State.onCtx (s : State) (c : Nat) (f : Ctx → Ctx) : State :=
  match s.ctx? c with
  | some x => s.setCtx c (f x)
  | none => s

/-- Change the home slot `n` of a tile. -/
def TileState.onSlot (x : TileState) (n : Nat) (f : Slot → Slot) : TileState :=
  { x with slots := FMap.put .empty x.slots n (f (FMap.get .empty x.slots n)) }

def TileState.slot (x : TileState) (n : Nat) : Slot := FMap.get .empty x.slots n

def State.onWork (s : State) (t : Nat) (f : Work → Work) : State := s.onTile t fun x => { x with work := f x.work }

def State.onUpkeep (s : State) (t : Nat) (f : Upkeep → Upkeep) : State := s.onTile t fun x => { x with upkeep := f x.upkeep }

/-- The home slot of a tile that a context occupies (`HC_SLOT[n]`, Table 2-7). -/
def State.slotCtx (s : State) (t n : Nat) : Option Nat :=
  let v := s.treg t (0x810 + 8 * n)
  if tst v 12 then some (bits v 0 12) else none

/-- Home slots occupied on a tile. -/
def State.occupied (s : State) (t : Nat) : Nat := (List.range 16).countP fun n => (s.slotCtx t n).isSome

/-- Draw a fresh free value (log 3). -/
def State.draw (s : State) : Word × State := (Config.free s.free, { s with free := s.free + 1 })

/-! ### The stage and the states in which the package works -/

/-- The stage value (`BN_STAGE[7:0]`, Table 17-5). -/
def State.stage (s : State) : Nat := bits (s.reg (bnBase + 0x008)) 0 8

/-- The PCI Express link is up (`HI_LINK[11]`). -/
def State.linkUp (s : State) : Bool := tst (s.reg (hiBase + 0x000)) 11

/-- A fix holds the islands: FIXED is set, or the stop began 200 ns ago (R504). -/
def State.fixed (s : State) : Bool :=
  let v := s.reg (dbBase + 0x008)
  tst v 2 || (tst v 1 && 200 ≤ (s.chron - s.reg (dbBase + 0x020)).toNat)

/-- The commanded state, reached, is Running, with or without Trimmed over it (Table 16-1). -/
def State.running (s : State) : Bool := s.power.phase = 1

/-- The power state that `PW_STATUS` shows is Running or Trimmed (Table 16-1): a fix may be taken (R503). -/
def State.fixable (s : State) : Bool := s.running || s.power.trimmed

/-- The package is in staged start or works: not held in reset, not on its way into a reset, not off. -/
def State.normal (s : State) : Bool := s.start.boot = .stage || s.start.boot = .warmWait

/-- Whether tile islands run: not in the safe state, no fix in force, not held in reset, not Stowed (R421, R456, R486, R504). -/
def State.moving (s : State) : Bool :=
  ! s.safety.safe && ! s.fixed && s.running && (s.normal || s.start.boot = .warmFlush)

/-- The Sextant works: not in the safe state, off or held in reset, but in a fix (R456, R457, R505). -/
def State.sextant (s : State) : Bool := ! s.safety.safe && (s.normal || s.start.boot = .warmFlush)

/-- Context rings are swept (R421, R457, R468). -/
def State.sweeps (s : State) : Bool := s.moving && s.normal && s.stage = 6 && s.linkUp

/-- A recurring row may act: its period has passed since it last did. -/
def State.due (s : State) (row period : Nat) : Bool :=
  match FMap.find? s.power.timers row with
  | some a => period ≤ (s.chron - a).toNat
  | none => true

/-- A recurring row acts now. -/
def State.acted (s : State) (row : Nat) : State :=
  { s with power := { s.power with timers := FMap.insert s.power.timers row s.chron } }

/-! ### The mesh -/

/-- The tile that a port (+X, −X, +Y, −Y) joins, and the port that faces back. -/
def neighbour (t port : Nat) : Option Nat :=
  let col := t % 20
  let row := t / 20
  match port with
  | 0 => if col < 19 then some (t + 1) else none
  | 1 => if 0 < col then some (t - 1) else none
  | 2 => if row < 31 then some (t + 20) else none
  | _ => if 0 < row then some (t - 20) else none

def facing (port : Nat) : Nat := match port with | 0 => 1 | 1 => 0 | 2 => 3 | _ => 2

/-- Whether a crossing is the one that a port of a tile belongs to. -/
def crossesLink (x : Crossing) (t port : Nat) : Bool :=
  match x with
  | .own _ => false
  | .link u p => (u.val = t && p.val = port) || (neighbour t port = some u.val && p.val = facing port)

/-- A mesh link carries flits: not down (R51, R492), its crossing not stopped (R448). -/
def State.linkOpen (s : State) (t port : Nat) : Bool :=
  let down := fun u p => (s.tile u).upkeep.linkDown.contains p
  ! down t port && (match neighbour t port with | some u => ! down u (facing port) | none => true) &&
  ! s.safety.stopped.any fun x => crossesLink x t port

/-- The links from tile `a` to tile `b`, in X first, then in Y (R50). -/
def meshPath : Nat → Nat → Nat → List (Nat × Nat)
  | 0, _, _ => []
  | n + 1, a, b =>
    if a = b then []
    else
      let p := if a % 20 < b % 20 then 0 else if b % 20 < a % 20 then 1 else if a < b then 2 else 3
      (a, p) :: meshPath n ((neighbour a p).getD b) b

/-- A message between two tiles gets through: every link on its way is open, and no crossing of either tile has stopped. -/
def State.pathClear (s : State) (a b : Nat) : Bool :=
  ((meshPath 50 a b).all fun l => s.linkOpen l.1 l.2) &&
  ! s.safety.stopped.any fun x => match x with | .own t => t.val = a || t.val = b | .link _ _ => false

end Sys2Proof.Machine
end

