-- ==== Sys2Proof/Machine/Observe.lean ====
section
/-! DEFINITION. What is observed of a run: trace packets (R513, R514), the fix trigger (R503), watchpoint hits (R510, R511),
error records (R494 to R497). -/

namespace Sys2Proof.Machine

/-! ### Trace -/

/-- A trace event: kind, and tile, engine, context and `LAYOP` where it carries them, status, step tag, details. -/
structure Event where
  kind : Nat
  tile : Option Nat
  eng : Option Nat
  ctx : Option Nat
  layop : Option (BitVec 32)
  status : Status
  tag : Nat
  a : Nat
  b : Nat

/-- The four words of a packet (Table 19-7). -/
def Event.words (e : Event) (now : Word) : List Word :=
  [ pack [(58, e.kind), (48, e.tile.getD 0x3FF), (44, e.eng.getD 0xF), (32, e.ctx.getD 0xFFF), (16, e.status.toNat), (14, e.tag % 4)],
    now,
    pack [(32, (e.layop.getD 0xFFFFFFFF#32).toNat), (0, e.a % 2 ^ 32)],
    BitVec.ofNat 64 e.b ]

/-- The filters of R514. -/
def State.traced (s : State) (e : Event) : Bool :=
  let c := s.reg (dbBase + 0x300)
  let r := s.reg (dbBase + 0x308)
  let g := s.reg (dbBase + 0x310)
  tst c 0 && tst c (4 + e.kind) &&
  (match e.eng with | some n => tst c (16 + n) | none => true) &&
  (match e.tile with | some t => bits r 0 10 ≤ t && t ≤ bits r 16 10 | none => true) &&
  (match e.ctx with | some x => tst c 41 || bits c 29 12 = x | none => true) &&
  (match e.layop with
   | some l => (l.extractLsb' 16 16 ^^^ g.extractLsb' 48 16) &&& g.extractLsb' 32 16 = 0 &&
               (l.extractLsb' 0 16 ^^^ g.extractLsb' 16 16) &&& g.extractLsb' 0 16 = 0
   | none => true)

/-- Places in a tile's trace buffer (R515). -/
def traceDepth : Nat := 64

/-- The lanes of the log line are not in electrical idle: no safe state, no reset, not off (R531). -/
def State.logLine (s : State) : Bool :=
  tst (s.reg (dbBase + 0x000)) 1 && ! s.safety.safe && (s.normal || s.start.boot = .warmFlush)

/-- A packet leaves on the log line (R512). -/
def State.sendPacket (s : State) (p : List Word) : State :=
  { s.count (dbBase + 0x318) 1 with dbg := { s.dbg with sent := s.dbg.sent ++ lanesOf p } }

/-- The loss packet that precedes a tile's next packet, when packets were lost and the filters pass it (R514, R515). -/
def State.lossPacket (s : State) (t : Nat) : List (List Word) :=
  let lost := FMap.get 0 s.dbg.lost t
  let e : Event := ⟨0x0B, some t, none, none, none, 0, 0, lost, 0⟩
  if lost = 0 || ! s.traced e then [] else [e.words s.chron]

/-- A packet of a tile goes to its buffer. In DROP mode a full buffer discards and counts, and the loss packet needs a place of its own; in
STALL mode no packet is lost: those of engines that work already wait behind the 64 that the buffer holds (DESIGN CHOICE, log 12). -/
def State.buffer (s : State) (t : Nat) (p : List Word) : State :=
  let lost := FMap.get 0 s.dbg.lost t
  let front := s.lossPacket t
  if ! tst (s.reg (dbBase + 0x300)) 1 && (s.tile t).upkeep.trace.length + front.length + 1 > traceDepth then
    { s.count (dbBase + 0x320) 1 with dbg := { s.dbg with lost := FMap.put 0 s.dbg.lost t (lost + 1) } }
  else
    let s1 := s.onUpkeep t fun u => { u with trace := u.trace ++ front ++ [p] }
    { s1 with dbg := { s1.dbg with lost := FMap.put 0 s1.dbg.lost t (if front.isEmpty then lost else 0) } }

/-- Emit a packet that passes the filters: a package event goes to the log line's end at once, while the line runs (log 12), a tile's event
to its buffer. -/
def State.emit (s : State) (e : Event) : State :=
  if ! s.traced e then s
  else match e.tile with
    | none => if s.logLine then s.sendPacket (e.words s.chron) else s
    | some t => s.buffer t (e.words s.chron)

/-! ### The fix trigger -/

/-- Which of two triggers of one nanosecond is recorded: the lower rank (command, watchpoint by number, error record). -/
def fixRank (cause wp : Nat) : Nat := cause * 16 + wp

/-- Take a fix (R503, Table 19-2): only at FULL, in Running or Trimmed, with no fix in force. Cause 1 command, 2 watchpoint,
3 error record. A trigger of the same nanosecond as the one that began the stop may replace the recorded cause. -/
def State.trigger (s : State) (cause wp seq : Nat) : State :=
  let st := s.reg (dbBase + 0x008)
  let word := pack [(63, 1), (60, cause), (56, wp), (0, seq % 2 ^ 32)]
  if tst st 1 && s.reg (dbBase + 0x020) = s.chron then
    let old := s.reg (dbBase + 0x018)
    if fixRank cause wp < fixRank (bits old 60 3) (bits old 56 4) then s.setReg (dbBase + 0x018) word else s
  else if s.stage = 6 && s.normal && s.fixable && ! tst st 1 && ! tst st 2 && ! s.safety.safe then
    (((s.setReg (dbBase + 0x018) word).setReg (dbBase + 0x020) s.chron).orReg (dbBase + 0x008) 2).count (dbBase + 0x330) 1
  else s

/-! ### Watchpoints -/

/-- The kinds of access a watchpoint selects. -/
inductive Touch where
  | read | write | atomic
  deriving DecidableEq, Repr

/-- `DB_WP_CFG[n]` as an access sees it: within 2 µs of a write, the old or the new entry, a free choice (R511). -/
def State.watchEntry (s : State) (n : Nat) : Word :=
  let now := s.reg (dbBase + 0x100 + 0x20 * n)
  let at_ := FMap.get 0 s.dbg.wpAt n
  if at_ != 0 && (s.chron - at_).toNat < 2000 && (Config.free s.free).getLsbD n then FMap.get 0 s.dbg.wpOld n else now

/-- Whether an access hits watchpoint `n` (R510). -/
def State.hits (s : State) (n kind ctx : Nat) (k : Touch) (lo hi : Nat) : Bool :=
  let v := s.watchEntry n
  tst v 63 && bits v 61 2 = kind &&
  (match k with | .read => tst v 60 | .write => tst v 59 | .atomic => tst v 58) &&
  (tst v 55 || bits v 0 12 = ctx) &&
  lo ≤ bits (s.reg (dbBase + 0x110 + 0x20 * n)) 0 56 && bits (s.reg (dbBase + 0x108 + 0x20 * n)) 0 56 ≤ hi

/-- What a hit on watchpoint `n` does (R511): counts, and emits and triggers as the entry's actions say. -/
def State.hit (s : State) (n ctx lo : Nat) (tile : Option Nat) : State :=
  let v := s.watchEntry n
  let s1 := s.count (dbBase + 0x118 + 0x20 * n) 1
  let s2 := if tst v 57 then s1.emit ⟨0x05, tile, none, some ctx, none, 0, 0, n, lo⟩ else s1
  if tst v 56 then s2.trigger 2 n 0 else s2

/-- What an access presents to the watchpoints: a kind of address (0 scratchpad, 1 CVA, 2 physical), an inclusive range, and the tile of
a scratchpad (Table 19-6). -/
structure Span where
  kind : Nat
  lo : Nat
  hi : Nat
  tile : Option Nat

/-- One access of a context: a watchpoint that any of its ranges meets is hit once (R510, R511). -/
def State.watch (s : State) (ctx : Nat) (k : Touch) (xs : List Span) : State :=
  (List.range 16).foldl (fun acc n =>
    match xs.find? fun x => s.hits n x.kind ctx k x.lo x.hi with
    | some x => acc.hit n ctx x.lo x.tile
    | none => acc) s

/-! ### Error records -/

/-- One step of the CRC-32 of IEEE 802.3, least significant bit first (PRESUMED, log 10: the standard's polynomial). -/
def crcBit (c : BitVec 32) : BitVec 32 := if c.getLsbD 0 then (c >>> 1) ^^^ 0xEDB88320#32 else c >>> 1

/-- One byte of the CRC-32. -/
def crcByte (c : BitVec 32) (b : Byte) : BitVec 32 :=
  (List.range 8).foldl (fun acc _ => crcBit acc) (c ^^^ b.setWidth 32)

/-- The CRC-32 of a byte list. -/
def crc32 (bs : List Byte) : BitVec 32 := ~~~ (bs.foldl crcByte 0xFFFFFFFF#32)

/-- The source codes of an error record (Table 18-6). -/
structure Fault495 where
  status : Status
  source : Nat
  tile : Nat
  unit : Nat
  ctx : Nat
  layop : BitVec 32
  stepno : BitVec 32
  detail : Nat
  die : Nat

/-- The engine that a record names: the unit of an event of a context's piece in a tile. -/
def Fault495.engine? (f : Fault495) : Option Nat := if f.source = 0 && f.ctx != 0xFFF && f.tile != 0x3FF then some f.unit else none

/-- Die of a tile (R15): `(row div 4) * 10 + column div 2`. -/
def dieOf (t : Nat) : Nat := (t / 20) / 4 * 10 + (t % 20) / 2

/-- Binnacle B is the active one: A is held or failed (`BN_SAFETY[5:4]`). -/
def State.activeB (s : State) : Bool := bits (s.reg (bnBase + 0x200)) 4 2 != 1

/-- `BN_SAFETY`. -/
def bnSafety : Nat := bnBase + 0x200

/-- State of a Binnacle in `BN_SAFETY`: 0 standby, 1 active, 2 held, 3 failed. -/
def State.binnacle (s : State) (b : Bool) : Nat := bits (s.reg bnSafety) (if b then 6 else 4) 2

/-- The package has power and has not been switched off: what guards it works, in reset too (R441, R456, R491). -/
def State.powered (s : State) : Bool := s.start.boot != .off

/-- A Binnacle runs: its clock is not held by its partner. -/
def State.runsB (s : State) (b : Bool) : Bool := s.powered && s.binnacle b ≤ 1

/-- Complete a record with its CRC over bytes 0 to 55. -/
def sealRecord (ws : List Word) : List Word :=
  ws.take 7 ++ [BitVec.setWidth 64 (crc32 ((ws.take 7).flatMap fun w => bytesOf 8 w.toNat))]

/-- Sequence number of the newest record, 0 with none. -/
def Safety.lastSeq (x : Safety) : BitVec 32 :=
  match x.ring with
  | r :: _ => (r.getD 1 0).extractLsb' 32 32
  | [] => 0

/-- Records a new event merges into (R496): the same status, source, tile, unit and context within 1 ms. -/
def mergesWith (w0 : Word) (now : Word) (r : List Word) : Bool :=
  (r.getD 0 0) >>> 16 = w0 >>> 16 && (now - r.getD 3 0).toNat ≤ 1000000

/-- Count one more occurrence in a record. -/
def bumpRecord (now : Word) (r : List Word) : List Word :=
  let n := bits (r.getD 1 0) 0 32
  sealRecord [r.getD 0 0, setBits (r.getD 1 0) 0 32 (min (n + 1) (2 ^ 32 - 1)), r.getD 2 0, now, r.getD 4 0, r.getD 5 0, r.getD 6 0]

/-- A retained record follows the record of its sequence number in the ring (R494). -/
def followRing (ring : List (List Word)) (r : List Word) : List Word :=
  (ring.find? fun x => bits (x.getD 1 0) 32 32 = bits (r.getD 1 0) 32 32 && x.getD 0 0 = r.getD 0 0).getD r

/-- Merge into the first of the newest records that matches. -/
def mergeRing (w0 now : Word) : Nat → List (List Word) → Option (List (List Word))
  | 0, _ => none
  | _, [] => none
  | n + 1, r :: rs =>
    if mergesWith w0 now r then some (bumpRecord now r :: rs)
    else (mergeRing w0 now n rs).map (r :: ·)

/-- The class of a status: bits `[15:12]` (R12). -/
def classOf (st : Status) : Nat := st.toNat / 2 ^ 12

/-- Write an error record (R494 to R497): merge, or a new record in the ring, with its alert, notification, trace packet and
fix trigger. -/
def State.log (s : State) (f : Fault495) : State :=
  let w0 := pack [(48, f.status.toNat), (44, f.source), (34, f.tile), (28, f.unit % 64), (16, f.ctx), (0, if s.activeB then 2 else 1)]
  match mergeRing w0 s.chron 16 s.safety.ring with
  | some ring => { s with safety := { s.safety with ring := ring, retained := s.safety.retained.map (followRing ring) } }
  | none =>
    let seq := s.safety.lastSeq + 1
    let r := sealRecord [w0, pack [(32, seq.toNat), (0, 1)], s.chron, s.chron,
      pack [(32, f.layop.toNat), (0, f.stepno.toNat)], BitVec.ofNat 64 f.detail, BitVec.ofNat 64 f.die]
    let keep := if classOf f.status = 15 then (r :: s.safety.retained).take 16 else s.safety.retained
    let s1 := { s with safety := { s.safety with ring := (r :: s.safety.ring).take 1024, retained := keep } }
    let nv := s1.reg (bnBase + 0x260)
    let high := 5 ≤ classOf f.status
    let s2 := if high then { s1 with safety := { s1.safety with alertN := false } } else s1
    let s3 := if high && tst nv 6 then s2.interrupt pf0 (bits nv 0 6) else s2
    let s4 := s3.emit ⟨0x06, if f.tile = 0x3FF then none else some f.tile, f.engine?, if f.ctx = 0xFFF then none else some f.ctx,
      if f.layop = 0xFFFFFFFF#32 then none else some f.layop, f.status, 0, seq.toNat, 0⟩
    if high && tst (s4.reg (dbBase + 0x000)) 2 then s4.trigger 3 0 seq.toNat else s4

/-- Whether an event of this status is recorded (R496). -/
def recorded (st : Status) : Bool := classOf st = 5 || classOf st = 6 || classOf st = 11 || classOf st = 15

/-- Record an event when its class asks for it. -/
def State.logIf (s : State) (f : Fault495) : State := if recorded f.status then s.log f else s

/-- A record of a tile's own event, with no step. -/
def tileFault (st : Status) (source t unit ctx detail : Nat) : Fault495 :=
  ⟨st, source, t, unit, ctx, 0xFFFFFFFF#32, 0, detail, dieOf t⟩

/-- A record of a package event. Table 18-6 has a die number for an event of a die and 0x7F for none: the record of a package block, a
stack, a Mid group or a light port names its unit in word 0 and no die (DESIGN CHOICE, log 70). -/
def packageFault (st : Status) (source unit detail : Nat) : Fault495 :=
  ⟨st, source, 0x3FF, unit, 0xFFF, 0xFFFFFFFF#32, 0, detail, 0x7F⟩

end Sys2Proof.Machine
end

