-- ==== Sys2Proof/Machine/Write.lean ====
section
/-! DEFINITION. Accesses to registers: what turns one away (R53, R364, R366, R463, R505), its size (R7), the fields that a write
reaches (R5, R8). -/

namespace Sys2Proof.Machine

/-- The part of a register that a write touches: its value in place and its mask; `none` for an illegal size or alignment
(R7). The half that a 32-bit write does not touch is zero in the value; a register that keeps a value merges it under the mask, and
a write-only command takes its unwritten half as zero (DESIGN CHOICE, log 89). -/
def wrPart (w : Wr) : Option (Word × Word) :=
  if w.size = 8 && w.sub = 0 then some (w.v, BitVec.allOnes 64)
  else if w.size = 4 && w.sub = 0 then some (w.v &&& 0xFFFFFFFF#64, 0xFFFFFFFF#64)
  else if w.size = 4 && w.sub = 4 then some (w.v <<< 32, 0xFFFFFFFF00000000#64)
  else none

/-- No access arrives in the safe state, while the host link is down, or with the package off (R364, R486). -/
def State.cutOff (s : State) : Bool := s.safety.safe || ! s.linkUp || s.start.boot = .off

/-- The BAR0 offset lies in the window of a block; the other ranges are reserved (Table 14-3). -/
def owned (a : Nat) : Bool := inTile a || a / 0x10000 ≤ 8

/-- An access of illegal size or alignment is recorded by the block that it names (R7). -/
def State.wrongSize (s : State) (a : Nat) : State := if owned a then s.record a 0x2007 else s

/-- Windows that a fix leaves running: `HI_`, `BN_`, `SC_`, `DB_` (R505), and those of the Sextant, which keeps running and refuses power
commands with a status of its own (R505, R507; DEDUCED, log 113). -/
def runsInFix (a : Nat) : Bool := a / 0x10000 ≤ 5

/-- Windows that PF0 reaches at the present stage (R463, R470, R505). -/
def State.open (s : State) (a : Nat) : Bool :=
  let g := s.stage
  let blk := a / 0x10000
  if g = 6 then true
  else if blk = 0 || blk = 1 || blk = 4 then true
  else g ≥ 0x80 && (blk = 6 || blk = 8)

/-- What turns an access of a function to a BAR0 offset away before it reaches a register, and the state that this leaves: no
access arrives at all (`cutOff`); PF1 and the virtual functions reach only their own registers, which are read-only (R53, R366, R388);
a window may not be open yet (R463, R470); a fix stops some windows (R505). -/
def State.turnedAway (s : State) (fn a : Nat) : Option State :=
  if s.cutOff then some s
  else if fn != 0 then
    if a < 0x1000 then some s
    else some ((s.record hiBase 0x3001).count (hiBase + 0x130) 1)
  else if ! s.open a then some ((s.record hiBase 0xB002).log (packageFault 0xB002 8 0 a))
  else if s.fixed && ! runsInFix a then some s
  else none

/-- A function writes its own registers, which are read-only: the size alone can be wrong (R7, R388). -/
def State.ownWrite (s : State) (w : Wr) (a : Nat) : Bool := w.fn != 0 && a < 0x1000 && ! s.cutOff

/-- A write reaches a field of the register: of a write-only command register, one half may hold none, and a write of that half
alone starts nothing (R7, R8). -/
def reachesField (a : Nat) (m : Word) : Bool :=
  match accessAt a with
  | .wo mask => m &&& BitVec.ofNat 64 mask != 0
  | _ => true

/-- Every register write: what is not turned away and has a legal size (R7) acts through `k` on the value in place and its
mask. -/
def State.write (s : State) (a : Nat) (w : Wr) (k : State → Word → Word → State) : State :=
  match s.turnedAway w.fn a with
  | some s1 => if s.ownWrite w a && (wrPart w).isNone then s.wrongSize a else s1
  | none =>
    match wrPart w with
    | none => s.wrongSize a
    | some (v, m) => if reachesField a m then k s v m else s

/-- The register's value after a write of `v` under mask `m`. -/
def merge (old v m : Word) : Word := (old &&& ~~~ m) ||| (v &&& m)

/-- Write the fields of a register that the mask touches: an illegal encoding leaves its field unchanged and is recorded
(R5). The Boolean says whether a field was refused. -/
def writeFields (old v m : Word) : List Field → Word × Bool
  | [] => (old, false)
  | f :: fs =>
    let r := writeFields old v m fs
    if m &&& maskOf f.lo f.width = 0 then r
    else
      let x := bits (merge old v m) f.lo f.width
      if f.legal x then (setBits r.1 f.lo f.width x, r.2) else (r.1, true)

/-- `REJECTED_ENCODING` and the other statuses of register writes. -/
def rejected : Status := 0x2006

end Sys2Proof.Machine
end

