-- ==== Sys2Proof/Machine/Access.lean ====
section
/-! DEFINITION. Memory: scratchpads, the tiers, host memory; translation (R284 to R300), uncorrectable blocks, dirty
frames, the coherent Helm-core caches (R30, R549). -/

namespace Sys2Proof.Machine

/-! ### Physical memory -/

/-- Tiers of the physical map (Table 11-1). -/
inductive Tier where
  | near | mid | far | none
  deriving DecidableEq, Repr

def tierOf (pa : Nat) : Tier :=
  if pa < 0x0C000000000 then .near
  else if 0x10000000000 ≤ pa && pa < 0x28000000000 then .mid
  else if 0x40000000000 ≤ pa && pa < 0x60000000000 then .far
  else .none

/-- The Near stack or Mid group of an address, as its unit number (R285, R286). -/
def unitOf (pa : Nat) : Nat :=
  match tierOf pa with
  | .near => pa / 2 ^ 36
  | .mid => (pa - 0x10000000000) / 2 ^ 38
  | .far => (pa - 0x40000000000) / 2 ^ 37
  | .none => 0

/-- Whether a Near stack or Mid group is absent (`MT_NEAR_STATE`, `MT_MID_STATE`). -/
def State.absent (s : State) (pa : Nat) : Bool :=
  match tierOf pa with
  | .near => tst (s.reg (mtBase + 0x000)) (12 + unitOf pa)
  | .mid => tst (s.reg (mtBase + 0x008)) (48 + unitOf pa)
  | _ => false

/-- The far window slice of an address: valid for translation when valid and not pending (R307). -/
def State.farWin (s : State) (pa : Nat) : Word := s.reg (mtBase + 0x180 + 8 * unitOf pa)
def State.farValid (s : State) (pa : Nat) : Bool := tst (s.farWin pa) 63 && ! tst (s.farWin pa) 62 && bits (s.farWin pa) 60 2 != 0

/-- The byte of Near or Mid memory as the tier holds it. -/
def State.pa8 (s : State) (a : Nat) : Byte := FMap.get 0 s.mem.near a

/-- A 64-bit word of Near memory. -/
def State.pa64 (s : State) (a : Nat) : Word := BitVec.ofNat 64 (ofBytes (FMap.getList 0 s.mem.near a 8))

/-- Replace bytes of the tiers' memory. -/
def State.setPa (s : State) (a : Nat) (bs : List Byte) : State :=
  { s with mem := { s.mem with near := FMap.putList 0 s.mem.near a bs } }

/-- Replace a 64-bit word. -/
def State.setPa64 (s : State) (a : Nat) (v : Word) : State := s.setPa a (bytesOf 8 v.toNat)

/-- The byte as Helm cores see it: their dirty lines first (R30). -/
def State.helm8 (s : State) (a : Nat) : Byte := (FMap.find? s.mem.cache a).getD (s.pa8 a)

/-- The byte as an engine sees it: of a dirty line, the old byte or the new one (R88, R549). -/
def State.engine8 (s : State) (a : Nat) : Byte :=
  match FMap.find? s.mem.cache a with
  | some b => if Config.seesDirty s.free (a / 64) then b else s.pa8 a
  | none => s.pa8 a

/-- What is wrong with a block: lost (R300) or uncorrectable (R298). -/
inductive Flaw where
  | lost | bad
  deriving DecidableEq, Repr

/-- Whether a lost-line entry holds the line of an address. -/
def State.isLost (s : State) (pa : Nat) : Bool :=
  (List.range 64).any fun i => let v := s.reg (mtBase + 0x200 + 8 * i); tst v 63 && bits v 6 38 = pa / 64

/-- The first flawed block of `n` bytes from `a`. -/
def State.flaw (s : State) (a n : Nat) : Option (Flaw × Nat) :=
  (List.range ((a + n - 1) / 64 + 1 - a / 64)).findSome? fun i =>
    let b := a / 64 + i
    if s.isLost (b * 64) then some (.lost, b * 64) else if FMap.get false s.mem.bad b then some (.bad, b * 64) else none

/-- Record an uncorrectable block, or the far node's error response for one: `MT_ERR`, the first address, the counter and the
error record (R296, R297, R298, R496). -/
def State.noteFlaw (s : State) (pa : Nat) (st : Status) : State :=
  let b := match tierOf pa with | .mid => 3 | .far => 4 | _ => 1
  let tier := match tierOf pa with | .near => 0 | .mid => 1 | _ => 2
  let e := s.reg (mtBase + 0x050)
  let s1 := if tst e 1 || tst e 3 || tst e 4 then s
    else s.setReg (mtBase + 0x058) (pack [(63, 1), (61, tier), (0, pa % 2 ^ 44)])
  let s2 := (s1.orReg (mtBase + 0x050) (2 ^ b)).count (mtBase + 0x0F0) 1
  if tst e b then s2 else s2.log (packageFault st (4 + tier) (unitOf pa) pa)

/-- The status of a read that meets a flaw, as a piece reports it (Table 11-5). -/
def Flaw.readStatus : Flaw → Status
  | .lost => 0x5062
  | .bad => 0x5020

/-! ### Translation -/

/-- The outcome of a translation: a part, a failure with its cause (Table 11-3; cause 0 is a denied write), or a flawed
table entry. -/
inductive Trans where
  | ok (p : Part)
  | fail (st : Status) (cause : Nat)
  | flawed (f : Flaw) (pa : Nat)
  deriving DecidableEq, Repr

def unmapped : Status := 0x3012
def writeDenied : Status := 0x3013

/-- A legal frame code (Table 11-2). -/
def frameLegal (f : Nat) : Bool := f ≤ 10 || f = 15

/-- The place that a page offset of a leaf entry names. -/
def State.placeOf (s : State) (tier pa : Nat) : Place :=
  if tier = 2 then
    let w := s.farWin pa
    .far (bits w 44 12) (bits w 37 7 * 2 ^ 37 + pa % 2 ^ 37)
  else .pa pa

/-- The part of a leaf entry (R288, R289), causes in their order; the denied write last. -/
def State.leafPart (s : State) (leaf : Nat) (cva n : Nat) (k : Touch) : Trans :=
  let e := s.pa64 leaf
  let tier := bits e 59 2
  let page := bits e 21 23 * 2 ^ 21
  if ! tst e 63 || (k = .read && ! tst e 62) then .fail unmapped 1
  else if tier = 3 || ! frameLegal (bits e 55 4) || bits e 44 11 != 0 || bits e 0 21 != 0 then .fail unmapped 2
  else if (tier = 0 && tierOf page != .near) || (tier = 1 && tierOf page != .mid) || (tier = 2 && tierOf page != .far) then
    .fail unmapped 3
  else if s.absent page || (tier = 2 && ! s.farValid page) then .fail unmapped 4
  else if tier = 2 && k = .atomic && bits (s.farWin page) 60 2 = 1 then .fail unmapped 5
  else if k != .read && ! tst e 61 then .fail writeDenied 0
  else .ok ⟨s.placeOf tier (page + cva % 2 ^ 21), n, some leaf, cva % 2 ^ 21, cva / 2 ^ 21 % 2 ^ 26⟩

/-- Where the leaf entry of a device CVA lies (R288), or why it has none. -/
def State.leafOf (s : State) (root cva : Nat) : Nat ⊕ Trans :=
  let a := root + (cva / 2 ^ 30 % 2 ^ 17) * 8
  match s.flaw a 8 with
  | some (f, pa) => .inr (.flawed f pa)
  | none =>
    let e := s.pa64 a
    let leaf := bits e 15 29 * 2 ^ 15
    if ! tst e 63 then .inr (.fail unmapped 1)
    else if bits e 44 19 != 0 || bits e 0 15 != 0 then .inr (.fail unmapped 2)
    else if tierOf leaf != .near then .inr (.fail unmapped 3)
    else if s.absent leaf then .inr (.fail unmapped 4)
    else .inl (leaf + (cva / 2 ^ 21 % 2 ^ 9) * 64)

/-- Translate `n` bytes of a device CVA that lie in one page. -/
def State.walk (s : State) (root cva n : Nat) (k : Touch) : Trans :=
  match s.leafOf root cva with
  | .inr t => t
  | .inl leaf =>
    match s.flaw leaf 64 with
    | some (f, pa) => .flawed f pa
    | none => s.leafPart leaf cva n k

/-- Record a failed translation in `MT_XLAT_FAULT`. -/
def State.noteXlat (s : State) (c cause cva : Nat) : State :=
  s.setReg (mtBase + 0x040) (pack [(63, 1), (60, cause), (48, c), (0, cva % 2 ^ 48)])

/-- Cut `n` bytes from `a` at the boundaries of aligned blocks of `z` bytes: start and length of each piece. -/
def chop (z : Nat) : Nat → Nat → Nat → List (Nat × Nat)
  | 0, _, _ => []
  | fuel + 1, a, n =>
    if n = 0 then []
    else
      let k := min n (z - a % z)
      (a, k) :: chop z fuel (a + k) (n - k)

/-- The pieces of `n` bytes from `a` that lie in one aligned block of `z` bytes each. -/
def pieces (z a n : Nat) : List (Nat × Nat) := chop z (n / z + 2) a n

/-- The pieces of `n` bytes from `a` that lie in one 2 MiB page each. -/
def pagesOf (a n : Nat) : List (Nat × Nat) := pieces (2 ^ 21) a n

/-- The number of a host address space: owning function (0 PF1, 1 to 255 virtual functions) and PASID (R367). -/
def hostSpace (fn pasid : Nat) : Nat := fn * 2 ^ 20 + pasid

/-- PF0's host bus addresses (R368). -/
def pf0Space : Nat := 256 * 2 ^ 20

/-- Whether the host refuses a page of an address space. -/
def State.refuses (s : State) (space a : Nat) : Bool := s.outside.denied.contains (space, a / 4096)

/-- Whether the host refuses any page of `n` bytes. -/
def State.refusesAny (s : State) (space a n : Nat) : Bool :=
  (List.range ((a + n - 1) / 4096 + 1 - a / 4096)).any fun i => s.refuses space ((a / 4096 + i) * 4096)

/-- A memory block has failed an access. -/
def State.blamePa (s : State) (a : Nat) : State := { s with marks := { s.marks with spot := (if tierOf a = .mid then 5 else 4, a) } }

/-- Resolve the parts of an access page by page; the first failure ends it (R113). -/
def State.deviceParts (s : State) (c root : Nat) (k : Touch) : List (Nat × Nat) → State × Except Status (List Part)
  | [] => (s, .ok [])
  | (a, n) :: rest =>
    match s.walk root a n k with
    | .fail st cause => (s.noteXlat c cause a, .error st)
    | .flawed f pa =>
      let st : Status := match f with | .lost => 0x5062 | .bad => 0x5061
      ((if f = .bad then s.noteFlaw pa st else s).blamePa pa, .error st)
    | .ok p =>
      match s.deviceParts c root k rest with
      | (s1, .ok ps) => (s1, .ok (p :: ps))
      | (s1, .error st) => (s1, .error st)

/-- Resolve `n` bytes of a CVA of a live context (R64, R65). -/
def State.cvaParts (s : State) (c : Nat) (cva n : Nat) (k : Touch) : State × Except Status (List Part) :=
  match s.ctx? c with
  | none => (s, .error unmapped)
  | some x =>
    if cva / 2 ^ 47 % 2 = 1 then
      let sp := hostSpace x.cr.fn.toNat x.cr.pasid.toNat
      if ! s.linkUp then (s, .error 0x6101)
      else if s.outside.ats.contains x.cr.fn.toNat && s.refusesAny sp (cva % 2 ^ 47) n then (s, .error 0x3014)
      else (s, .ok [⟨.host sp (cva % 2 ^ 47), n, none, 0, 0⟩])
    else s.deviceParts c x.cr.root k (pagesOf cva n)

/-- This package's node number (`LP_NODE`). -/
def State.node (s : State) : Nat := bits (s.reg (lpBase + 0x010)) 0 12

/-- Resolve `n` bytes of a global address: of this node, the same offset as a device CVA of the context (R66). -/
def State.globalParts (s : State) (c : Nat) (ga n : Nat) (k : Touch) : State × Except Status (List Part) :=
  let node := ga / 2 ^ 44 % 4096
  if node = s.node then s.cvaParts c (ga % 2 ^ 44) n k
  else (s, .ok [⟨.node node (ga % 2 ^ 44), n, none, 0, 0⟩])

/-- Resolve `n` bytes at an offset from an operand's address. -/
def State.operandParts (s : State) (c : Nat) (o : Operand) (off n : Nat) (k : Touch) : State × Except Status (List Part) :=
  match o.cls.toNat with
  | 0 => (s, .ok [⟨.sp o.spTile (o.spOff + off), n, none, 0, 0⟩])
  | 1 => s.cvaParts c (o.addr.toNat % 2 ^ 48 + off) n k
  | _ => s.globalParts c (o.addr.toNat + off) n k

/-- Some part of an access is host memory. -/
def Part.isHost (p : Part) : Bool := match p.place with | .host _ _ => true | _ => false

/-- A request reads host memory: it is non-posted, as a write is not (R542). -/
def Req.host (q : Req) : Bool := q.kind != .write && q.parts.any Part.isHost

/-- A home slot waits for the zero-length read of a fence. -/
def Slot.fencing (z : Slot) : Bool := z.posted && match z.stall with | .fence _ | .tsig .. => true | _ => false

/-- Host reads of a tile that are in flight: requests of its pieces and zero-length reads of its fences. -/
def TileState.hostReads (x : TileState) : Nat :=
  (x.work.running.map fun r => r.reqs.countP fun q => q.issued.isSome && q.host).sum + x.slots.countP fun p => p.2.fencing

/-- Host reads in flight: record fetches, chart loads, a function-table fetch, and those of the tiles (R546). -/
def State.hostReads (s : State) : Nat :=
  s.ctxs.countP (fun p => p.2.ring.fetching.isSome) + s.mgmt.loads.length +
  (match s.tables.cmd with | some x => b2n (x.load && x.image.isEmpty) | none => 0) + (s.tiles.map fun p => p.2.hostReads).sum

/-- Outstanding non-posted requests at most (Table 14-1). -/
def maxHostReads : Nat := 768

/-- One more host read may start. -/
def State.hostReadFree (s : State) : Bool := s.hostReads < maxHostReads

/-! ### Dirty frames -/

/-- Frame size of a frame code (Table 11-4); 0 for untracked. -/
def frameSize (code : Nat) : Nat :=
  match code with
  | 0 => 65536 | 1 => 32768 | 2 => 16384 | 3 => 16384 | 4 => 16896 | 5 => 16896 | 9 => 16896 | 6 => 12800 | 7 => 12800
  | 8 => 8704 | 10 => 18432
  | _ => 0

/-- Mark one frame in the dirty map of a leaf entry (R294). -/
def State.markFrame (s : State) (leaf i : Nat) : State :=
  let a := leaf + 8 + 8 * (i / 64)
  let v := s.pa64 a
  if tst v (i % 64) then s else (s.setPa64 a (v ||| BitVec.ofNat 64 (2 ^ (i % 64)))).count (mtBase + 0x160) 1

/-- Mark every frame that `n` bytes at a page offset touch (R293, R294). -/
def State.markDirty (s : State) (leaf : Option Nat) (poff n : Nat) : State :=
  match leaf with
  | none => s
  | some leaf =>
    let z := frameSize (bits (s.pa64 leaf) 55 4)
    if z = 0 || n = 0 then s
    else (List.range ((poff + n - 1) / z + 1 - poff / z)).foldl (fun acc i => acc.markFrame leaf (poff / z + i)) s

/-! ### The Helm-core caches -/

/-- Remember that the leaf entry of a part, if it has one, maps a dirty line at its page offset. -/
def addLeaf (p : Part) (l : List (Nat × Nat)) : List (Nat × Nat) :=
  match p.leaf with
  | none => l
  | some leaf => if l.contains (leaf, p.poff / 64 * 64) then l else l ++ [(leaf, p.poff / 64 * 64)]

/-- A Helm-core store to the Near tier: the bytes become dirty in the cache (R549). -/
def State.cacheStore (s : State) (p : Part) (a : Nat) (bs : List Byte) : State :=
  let line := a / 64
  let cache := (List.range bs.length).foldl (fun c i => FMap.insert c (a + i) (bs.getD i 0)) s.mem.cache
  let ls := addLeaf p (FMap.get [] s.mem.lines line)
  { s with mem := { s.mem with cache := cache, lines := FMap.put [] s.mem.lines line ls } }

/-- Clear the lost-line entry and the flaw of a block that is written whole (R299, R300). -/
def State.healBlock (s : State) (b : Nat) : State :=
  let s1 := (List.range 64).foldl (fun acc i =>
    let a := mtBase + 0x200 + 8 * i
    let v := acc.reg a
    if tst v 63 && bits v 6 38 = b then acc.setReg a 0 else acc) s
  { s1 with mem := { s1.mem with bad := FMap.put false s1.mem.bad b false } }

/-- Write back a dirty line: the tier takes the whole block, whose check code is then right (R299), and its frames are marked
(R294). -/
def State.writeBack (s : State) (line : Nat) : State :=
  match FMap.find? s.mem.lines line with
  | none => s
  | some ls =>
    let a := line * 64
    let s1 := (List.range 64).foldl (fun acc i =>
      match FMap.find? acc.mem.cache (a + i) with
      | some b => { acc with mem := { acc.mem with near := FMap.put 0 acc.mem.near (a + i) b, cache := FMap.erase acc.mem.cache (a + i) } }
      | none => acc) (s.healBlock line)
    let s2 := { s1 with mem := { s1.mem with lines := FMap.erase s1.mem.lines line } }
    ls.foldl (fun acc l => acc.markDirty (some l.1) l.2 64) s2

/-- Write back every line of a list. -/
def State.writeBackAll (s : State) (lines : List Nat) : State := lines.foldl State.writeBack s

/-- Write back every dirty line. -/
def State.flushCaches (s : State) : State := s.writeBackAll (s.mem.lines.map (·.1))

/-- A write by an engine or a device drops the dirty bytes it replaces: it is the later write (R30). -/
def State.supersede (s : State) (a n : Nat) : State :=
  { s with mem := { s.mem with cache := FMap.clear s.mem.cache a n } }

/-! ### Lost lines (R57, R300) -/

/-- A stack or group becomes absent (R300, R303). -/
def State.loseUnit (s : State) (mid : Bool) (n : Nat) : State :=
  if mid then s.setField (mtBase + 0x008) (48 + n) 1 1 else s.setField (mtBase + 0x000) (12 + n) 1 1

/-- The Near tier records the loss of a dirty line in the first free entry, with the context that held it; when none is free,
the line's stack becomes absent (R300). -/
def State.loseLine (s : State) (c line : Nat) : State :=
  match (List.range 64).find? fun i => ! tst (s.reg (mtBase + 0x200 + 8 * i)) 63 with
  | some i => (s.setReg (mtBase + 0x200 + 8 * i) (pack [(63, 1), (44, c), (6, line % 2 ^ 38)])).orReg (mtBase + 0x050) 64
  | none =>
    let n := unitOf (line * 64)
    (((s.loseUnit false n).orReg (mtBase + 0x050) 128).record mtBase 0x5063).log (packageFault 0x5063 4 n (line * 64))

/-- A Helm-core cache drops a line. -/
def State.dropLine (s : State) (line : Nat) : State :=
  { s with mem := { s.mem with cache := FMap.clear s.mem.cache (line * 64) 64, lines := FMap.erase s.mem.lines line } }

/-- An uncorrectable error of a Helm-core cache, in a tag or in data: the line is invalidated, and when it was dirty its copy in
the Near tier is fenced (R57). The model holds one coherent cache for all Helm cores, so the line is dirty when any core's store
made it so (DESIGN CHOICE, log 90). -/
def State.cacheError (s : State) (t c line : Nat) (tag : Bool) : State :=
  let s1 := (s.orReg (tileBase t + 0x890) (if tag then 2 else 4)).dropLine line
  if (FMap.find? s.mem.lines line).isSome then s1.loseLine c line else s1

/-! ### Scratchpad -/

/-- The scratchpad's size (R36). -/
def spSize : Nat := 0x3000000

/-- Bytes of a scratchpad. -/
def State.spRead (s : State) (t off n : Nat) : List Byte := FMap.getList 0 (s.tile t).sp.bytes off n

/-- The first uncorrectable 64-bit word that `n` bytes touch (R42). -/
def State.spFlaw (s : State) (t off n : Nat) : Option Nat :=
  (List.range ((off + n - 1) / 8 + 1 - off / 8)).findSome? fun i =>
    if FMap.get false (s.tile t).sp.bad (off / 8 + i) then some ((off / 8 + i) * 8) else none

/-- Record an uncorrectable scratchpad word: `TL_ERR[1]`, its first address, the error record (R42, R496). -/
def State.noteSp (s : State) (t off ctx : Nat) : State :=
  let e := s.treg t 0x018
  if tst e 1 then s
  else (((s.setTreg t 0x020 (pack [(31, 1), (0, off)])).orReg (tileBase t + 0x018) 2)).log (tileFault 0x5001 0 t 0 ctx off)

/-- Replace bytes of a scratchpad; whole 64-bit words become correct (R42). -/
def State.spWrite (s : State) (t off : Nat) (bs : List Byte) : State :=
  s.onTile t fun x =>
    let first := (off + 7) / 8
    let past := (off + bs.length) / 8
    { x with sp := { x.sp with
        bytes := FMap.putList 0 x.sp.bytes off bs,
        bad := FMap.keep (fun w => ! (first ≤ w && w < past)) x.sp.bad } }

/-- The uncorrectable word that a write touches only in part, if any (R42). -/
def State.spPartialFlaw (s : State) (t off n : Nat) : Option Nat :=
  let bad := fun (w : Nat) => FMap.get false (s.tile t).sp.bad w
  if off % 8 != 0 && bad (off / 8) then some (off / 8 * 8)
  else if (off + n) % 8 != 0 && bad ((off + n) / 8) then some ((off + n) / 8 * 8)
  else none

/-! ### Reads and writes of parts -/

/-- Host bytes are held by address space and address. -/
def hostKey (space a : Nat) : Nat := space * 2 ^ 64 + a

/-- Bytes of host memory. -/
def State.hostRead (s : State) (space a n : Nat) : List Byte := FMap.getList 0 s.mem.host (hostKey space a) n

/-- Write host memory: no PCI Express request crosses a 4 KiB page, and the host refuses each by itself (R65, R542, R543). -/
def State.hostWrite (s : State) (space a : Nat) (bs : List Byte) : State :=
  { s with mem := { s.mem with host := (pieces 4096 a bs.length).foldl (fun m p =>
      if s.refuses space p.1 then m else FMap.putList 0 m (hostKey space p.1) ((bs.drop (p.1 - a)).take p.2)) s.mem.host } }

/-- Light port F is Up (Table 12-6), and the tier has not acted on a loss of its light (R304): Far requests reach their node. -/
def State.farUp (s : State) : Bool := tst (s.reg (mtBase + 0x010)) 1 && bits (s.reg (lpBase + 0x108 + 0x80 * 6)) 0 4 = 5

/-- The window address of a Far part: its leaf entry's page and the page offset. -/
def State.farPa (s : State) (p : Part) : Nat := bits (s.pa64 (p.leaf.getD 0)) 21 23 * 2 ^ 21 + p.poff

/-! ### What an access meets (R57, R296, R297, R302, R359) -/

/-- The address of a part in Near or Mid memory. -/
def Part.pa? (p : Part) : Option Nat := match p.place with | .pa a => some a | _ => none

/-- The part lies in a scratchpad. -/
def Part.isSp (p : Part) : Bool := match p.place with | .sp _ _ => true | _ => false

/-- The part lies in far memory. -/
def Part.isFar (p : Part) : Bool := match p.place with | .far _ _ => true | _ => false

/-- The address of the first part of a list in Near or Mid memory. -/
def firstPa (ps : List Part) : Option Nat := ps.findSome? Part.pa?

/-- The tier corrects an error: it is counted per stack or group (R297). -/
def State.corrected (s : State) (a : Nat) : State :=
  if tierOf a = .near then (s.orReg (mtBase + 0x050) 1).count (mtBase + 0x060 + 8 * unitOf a) 1
  else (s.orReg (mtBase + 0x050) 4).count (mtBase + 0x0C0 + 8 * unitOf a) 1

/-- A block of Near or Mid memory has an error that its check code does not correct. -/
def State.spoilBlock (s : State) (a : Nat) : State := { s with mem := { s.mem with bad := FMap.put false s.mem.bad (a / 64) true } }

/-- A request has had no answer in time (R302): `MT_ERR[5]`, and `n` counted: the timeout, and the answer if one came later. -/
def State.timedOut (s : State) (n : Nat) : State := (s.orReg (mtBase + 0x050) 32).count (mtBase + 0x158) n

/-- A request of a tile timed out without an answer: one may still come, and is then discarded and counted (R302). -/
def State.timedOutOpen (s : State) (t : Nat) : State := (s.timedOut 1).onUpkeep t fun u => { u with unanswered := u.unanswered + 1 }

/-- The tier that serves a part: 0 Near, 1 Mid, 2 Far. -/
def Part.tier? (p : Part) : Option Nat :=
  match p.place with
  | .pa a => (match tierOf a with | .near => some 0 | .mid => some 1 | _ => none)
  | .far _ _ => some 2
  | _ => none

/-- After how long a request times out (R302). -/
def timeoutOf (tier : Nat) : Nat := if tier = 2 then 10000000 else 1000000

/-- `MT_LATE_NS` of a tier (R301). -/
def State.lateAfter (s : State) (tier : Nat) : Nat := bits (s.reg (mtBase + 0x048)) (16 * tier) 16

/-- A request of a tier is counted late (R301). -/
def State.countLate (s : State) (tier : Nat) : State := s.count (mtBase + 0x140 + 8 * tier) 1

/-- The source and detail that an error record gives for a part: its scratchpad offset, physical address, window address, host CVA or
global address (Table 18-6). -/
def State.spotOf (s : State) (p : Part) : Nat × Nat :=
  match p.place with
  | .sp _ off => (0, off)
  | .pa a => (if tierOf a = .mid then 5 else 4, a)
  | .far _ _ => (6, s.farPa p)
  | .host _ a => (8, 2 ^ 47 + a % 2 ^ 47)
  | .node n off => (7, n * 2 ^ 44 + off)

/-- An access to some parts has failed: the first of them is where (R495). -/
def State.blame (s : State) (ps : List Part) : State :=
  match ps with
  | [] => s
  | p :: _ => { s with marks := { s.marks with spot := s.spotOf p } }

/-- What an access by tile `t` for context `c` meets on its way to its parts: what it leaves, and the status that ends the
access, if one does. A hazard of a place that the access does not use is none; while port F is down nothing but that comes of a Far
access (R304). A scalar access that has no answer in time was late before it (R301). -/
def State.meet (s : State) (t c : Nat) (helm : Bool) (h : Hazard) (k : Touch) (ps : List Part) : State × Option Status :=
  let near := if helm then (firstPa ps).filter fun a => tierOf a = .near else none
  if ps.any Part.isFar && ! s.farUp then (s.blame ps, some 0x6041)
  else match h with
  | .none | .datapath => (s, none)
  | .cacheCorrected => (if near.isSome then s.orReg (tileBase t + 0x890) 1 else s, none)
  | .cacheTag => match near with | some a => ((s.cacheError t c (a / 64) true).blame ps, some 0x5002) | none => (s, none)
  | .cacheData => match near with | some a => ((s.cacheError t c (a / 64) false).blame ps, some 0x5002) | none => (s, none)
  | .corrected => match firstPa ps with | some a => (s.corrected a, none) | none => (s, none)
  | .uncorrectable => match firstPa ps with | some a => (s.spoilBlock a, none) | none => (s, none)
  | .farError =>
    match ps.find? Part.isFar with
    | some p => ((s.noteFlaw (s.farPa p) (if k = .read then 0x5020 else 0x5060)).blame [p], some (if k = .read then 0x5020 else 0x5060))
    | none => (s, none)
  | .farDenied => if ps.any Part.isFar then (s, some 0x3020) else (s, none)
  | .timeout =>
    match ps.findSome? Part.tier? with
    | some n =>
      let s1 := if helm && s.lateAfter n < timeoutOf n then s.countLate n else s
      ((s1.timedOutOpen t).blame ps, some 0x6040)
    | none => (s, none)
  | .parity => (s, if ps.isEmpty then none else some (if ps.any Part.isSp then 0x3011 else 0x3012))

/-! ### Accesses and watchpoints (R510, R511) -/

/-- The CVA at which a part lies: a device page and its offset, or a context's host address (R64, R65). -/
def Part.cva? (p : Part) : Option Nat :=
  match p.place with
  | .host sp a => if sp < pf0Space then some (2 ^ 47 + a) else none
  | .pa _ | .far _ _ => if p.leaf.isSome then some (p.page * 2 ^ 21 + p.poff) else none
  | .sp .. | .node .. => none

/-- What a part presents to the watchpoints: its scratchpad or physical address, and its CVA (Table 19-6). -/
def State.spansOf (s : State) (p : Part) : List Span :=
  (match p.place with
   | .sp t off => [⟨0, t * 2 ^ 26 + off, t * 2 ^ 26 + off + p.len - 1, some t⟩]
   | .pa a => [⟨2, a, a + p.len - 1, none⟩]
   | .far _ _ => [⟨2, s.farPa p, s.farPa p + p.len - 1, none⟩]
   | .host .. | .node .. => []) ++
  match p.cva? with
  | some a => [⟨1, a, a + p.len - 1, none⟩]
  | none => []

/-- One access of a context, which has passed its checks, to a list of parts. -/
def State.touch (s : State) (c : Nat) (k : Touch) (ps : List Part) : State := s.watch c k (ps.flatMap s.spansOf)

/-- The bytes of one part; `helm` reads see the caches whole, an engine's may see a dirty line's old bytes. -/
def State.fetchPart (s : State) (c : Nat) (helm : Bool) (p : Part) : State × Except Status (List Byte) :=
  match p.place with
  | .sp t off =>
    match s.spFlaw t off p.len with
    | some w => ((s.noteSp t w c).blame [p], .error 0x5001)
    | none => (s, .ok (s.spRead t off p.len))
  | .pa a =>
    match s.flaw a p.len with
    | some (f, b) => ((if f = .bad then s.noteFlaw b f.readStatus else s).blamePa b, .error f.readStatus)
    | none =>
      let bs := (List.range p.len).map fun i => if helm then s.helm8 (a + i) else s.engine8 (a + i)
      ({ s with free := s.free + 1 }, .ok bs)
  | .far n a =>
    if s.farUp then (s, .ok (FMap.getList 0 s.mem.far (n * 2 ^ 44 + a) p.len)) else (s.blame [p], .error 0x6041)
  | .host sp a =>
    if ! s.linkUp then (s.blame [p], .error 0x6101)
    else if s.refusesAny sp a p.len then ((s.count (hiBase + 0x118) 1).blame [p], .error 0x6100)
    else (s, .ok (s.hostRead sp a p.len))
  | .node .. => (s, .ok [])

/-- The bytes of parts, in order. -/
def State.fetchParts (s : State) (c : Nat) (helm : Bool) : List Part → State × Except Status (List Byte)
  | [] => (s, .ok [])
  | p :: ps =>
    match s.fetchPart c helm p with
    | (s1, .error st) => (s1, .error st)
    | (s1, .ok bs) =>
      match s1.fetchParts c helm ps with
      | (s2, .ok more) => (s2, .ok (bs ++ more))
      | (s2, .error st) => (s2, .error st)

/-- A read of parts, one access. -/
def State.readParts (s : State) (c : Nat) (helm : Bool) (ps : List Part) : State × Except Status (List Byte) :=
  (s.touch c .read ps).fetchParts c helm ps

/-- A read of one part. -/
def State.readPart (s : State) (c : Nat) (helm : Bool) (p : Part) : State × Except Status (List Byte) :=
  (s.touch c .read [p]).fetchPart c helm p

/-- Blocks that `n` bytes cover whole. -/
def wholeBlocks (a n : Nat) : List Nat :=
  (List.range (n / 64 + 1)).filterMap fun i =>
    let b := (a + 63) / 64 + i
    if (b + 1) * 64 ≤ a + n then some b else none

/-- A flaw in a block that a write covers only in part (R298, R299). -/
def State.partialFlaw (s : State) (a n : Nat) : Option (Flaw × Nat) :=
  let head := if a % 64 != 0 || n < 64 then s.flaw a 1 else none
  let tail := if (a + n) % 64 != 0 then s.flaw (a + n - 1) 1 else none
  match head with
  | some x => some x
  | none => tail

/-- Why a part refuses a write, if it does, and the state that the refusal leaves: a word or block with an uncorrectable error
that the write covers only in part (R42, R298, R299), or a link that is down (R304, R364). -/
def State.refuseWrite (s : State) (c : Nat) (p : Part) : Option (State × Status) :=
  match p.place with
  | .sp t off => (s.spPartialFlaw t off p.len).map fun w => ((s.noteSp t w c).blame [p], 0x5001)
  | .pa a => (s.partialFlaw a p.len).map fun x =>
      if x.1 = .bad then ((s.noteFlaw x.2 0x5060).blamePa x.2, 0x5060) else (s.blamePa x.2, 0x5062)
  | .far _ _ => if s.farUp then none else some (s.blame [p], 0x6041)
  | .host _ _ => if s.linkUp then none else some (s.blame [p], 0x6101)
  | .node _ _ => none

/-- The bytes of one part take effect: a block of Near and Mid written whole is healed, and frames are marked (R294, R299). -/
def State.putPart (s : State) (p : Part) (bs : List Byte) : State :=
  match p.place with
  | .sp t off => s.spWrite t off bs
  | .pa a =>
    let s1 := (wholeBlocks a p.len).foldl State.healBlock s
    ((s1.supersede a p.len).setPa a bs).markDirty p.leaf p.poff p.len
  | .far n a => { s with mem := { s.mem with far := FMap.putList 0 s.mem.far (n * 2 ^ 44 + a) bs } }.markDirty p.leaf p.poff p.len
  | .host sp a => s.hostWrite sp a bs
  | .node _ _ => s

/-- The bytes of parts take effect, in order. -/
def State.putParts (s : State) : List Part → List Byte → State
  | [], _ => s
  | p :: ps, bs => (s.putPart p (bs.take p.len)).putParts ps (bs.drop p.len)

/-- Store bytes to parts as one unit: when one of them refuses, nothing is written (R292, R352). -/
def State.storeParts (s : State) (c : Nat) (ps : List Part) (bs : List Byte) : State × Except Status Unit :=
  match ps.findSome? (s.refuseWrite c) with
  | some x => (x.1, .error x.2)
  | none => (s.putParts ps bs, .ok ())

/-- Store several writes one after the other, up to a part that refuses its write. -/
def State.storeSeq (s : State) (c : Nat) : List (List Part × List Byte) → Except Part State
  | [] => .ok s
  | x :: xs =>
    match x.1.find? fun p => (s.refuseWrite c p).isSome with
    | some p => .error p
    | none => (s.putParts x.1 x.2).storeSeq c xs

/-- Store several writes as one unit: when a part refuses, nothing is written (R138, R292). A part that refuses after earlier writes of
the unit refuses before them, since writes only heal. -/
def State.storeUnit (s : State) (c : Nat) (xs : List (List Part × List Byte)) : State × Except Status Unit :=
  match s.storeSeq c xs with
  | .ok s1 => (s1, .ok ())
  | .error p =>
    match s.refuseWrite c p with
    | some x => (x.1, .error x.2)
    | none => (s, .error 0x5060)

/-- A write or atomic to parts, one access. -/
def State.writeParts (s : State) (c : Nat) (k : Touch) (ps : List Part) (bs : List Byte) : State × Except Status Unit :=
  (s.touch c k ps).storeParts c ps bs

/-- Write one part. -/
def State.writePart (s : State) (c : Nat) (k : Touch) (p : Part) (bs : List Byte) : State × Except Status Unit :=
  s.writeParts c k [p] bs

end Sys2Proof.Machine
end

