-- ==== Sys2Proof/Machine/HostOps.lean ====
section
/-! DEFINITION. The writes that the host interface makes for itself: status lines, completion records, the management log
and its events (R373, R375, R378, R543), and the Faulted state of a context (R93, R376). -/

namespace Sys2Proof.Machine

/-- Codes of a context state in the status line (R373). -/
def CtxState.code : CtxState → Nat
  | .unbound => 0 | .running => 1 | .faulted => 2

/-- Words as little-endian bytes. -/
def wordBytes (ws : List Word) : List Byte := ws.flatMap fun w => bytesOf 8 w.toNat

/-! ### The management log -/

/-- A log entry (R375). -/
def logEntry (code : Nat) (st : Status) (index ctx tile chart gen : Nat) : List Word :=
  [ pack [(56, code), (32, st.toNat)], pack [(0, index % 2 ^ 32)], pack [(0, ctx), (12, tile), (22, chart), (28, gen)],
    0, 0, 0, 0, 0 ]

/-- Whether the log has room: fewer than 2^m entries beyond `HI_MGMT_CONSUMED`, enabled, and the link up. -/
def State.logRoom (s : State) : Bool :=
  let cfg := s.reg (hiBase + 0x040)
  let used := (s.mgmt.logged - (s.reg (hiBase + 0x048)).setWidth 32).toNat
  tst cfg 16 && s.linkUp && used < 2 ^ bits cfg 8 5

/-- Write one log entry, then the count word (R375). -/
def State.putLog (s : State) (e : List Word) : State :=
  let m := bits (s.reg (hiBase + 0x040)) 8 5
  let at_ := (s.reg (hiBase + 0x028)).toNat + 64 * (s.mgmt.logged.toNat % 2 ^ m)
  let n := s.mgmt.logged + 1
  let s1 := s.hostWrite pf0Space at_ (wordBytes e)
  let s2 := s1.hostWrite pf0Space (s.reg (hiBase + 0x038)).toNat (bytesOf 8 n.toNat)
  { s2 with mgmt := { s2.mgmt with logged := n } }

/-- Write waiting events while the log has room. -/
def State.drainEvents : Nat → State → State
  | 0, s => s
  | n + 1, s =>
    match s.mgmt.events with
    | [] => s
    | e :: es => if s.logRoom then State.drainEvents n ({ s with mgmt := { s.mgmt with events := es } }.putLog e) else s

/-- Events that wait at most (R375). -/
def eventDepth : Nat := 1024

/-- Raise an event: it waits in the queue, or is dropped and counted when 1,024 wait (R375). -/
def State.event (s : State) (e : List Word) : State :=
  if s.mgmt.events.length < eventDepth then
    State.drainEvents (eventDepth + 1) { s with mgmt := { s.mgmt with events := s.mgmt.events ++ [e] } }
  else s.count (hiBase + 0x120) 1

/-! ### Status lines, the Faulted state, completion records -/

/-- The status line of a context (R373). -/
def statusLineWords (x : Ctx) : List Word :=
  [ x.ring.written.setWidth 64, x.ring.fetched.setWidth 64, pack [(0, x.st.code), (16, x.faultStatus.toNat)], 0, 0, 0, 0, 0 ]

/-- Whether ATS makes the host refuse a page of a context's own host area (R543). -/
def State.atsRefuses (s : State) (x : Ctx) (a n : Nat) : Bool :=
  s.outside.ats.contains x.cr.fn.toNat && s.refusesAny (hostSpace x.cr.fn.toNat x.cr.pasid.toNat) (a % 2 ^ 47) n

/-- Enter Faulted and raise CONTEXT_FAULTED (R376). -/
def State.enterFaulted (s : State) (c : Nat) (st : Status) : State :=
  (s.onCtx c fun x => { x with st := .faulted, faultStatus := st }).event (logEntry 0x32 st 0xFFFFFFFF c 0 0 0)

/-- Attempt a write of the status line: one that the host refuses under ATS is not sent, and is counted (R543). The Boolean says
that it was refused. -/
def State.tryStatusLine (s : State) (c : Nat) : State × Bool :=
  match s.ctx? c with
  | none => (s, false)
  | some x =>
    if ! s.linkUp then (s, false)
    else if s.atsRefuses x x.cr.sline 64 then (s.count (hiBase + 0x118) 1, true)
    else (s.hostWrite (hostSpace x.cr.fn.toNat x.cr.pasid.toNat) (x.cr.sline % 2 ^ 47) (wordBytes (statusLineWords x)), false)

/-- A context has entered Faulted already. -/
def State.isFaulted (s : State) (c : Nat) : Bool := match s.ctx? c with | some x => x.st = .faulted | none => true

/-- Write the status line. A refusal faults a context that is not Faulted, whose new status line is attempted in its turn
(R543). -/
def State.statusLine (s : State) (c : Nat) : State :=
  match s.tryStatusLine c with
  | (s1, true) => if s1.isFaulted c then s1 else ((s1.enterFaulted c 0x3014).tryStatusLine c).1
  | (s1, false) => s1

/-- A context becomes Faulted: its state, its status line, its event (R92, R376). -/
def State.faultCtx (s : State) (c : Nat) (st : Status) : State :=
  match s.ctx? c with
  | none => s
  | some x => if x.st = .faulted then s else (s.enterFaulted c st).statusLine c

/-- Records in a context's ring. -/
def Ctx.size (x : Ctx) : Nat := 2 ^ x.cr.ringLog

/-- Extend the unbroken run of written completion records (R378). -/
def runOn : Nat → BitVec 32 → List Nat → BitVec 32 × List Nat
  | 0, n, ahead => (n, ahead)
  | k + 1, n, ahead => if ahead.contains n.toNat then runOn k (n + 1) (ahead.erase n.toNat) else (n, ahead)

/-- Write the completion record of ring index `i`, then the count in the status line, then the interrupt (R378, R543), and trace it (R513). -/
def State.putCompletion (s : State) (c i : Nat) (ws : List Word) (irq : Bool) : State :=
  match s.ctx? c with
  | none => s
  | some x =>
    if ! s.linkUp then s
    else
      let a := x.cr.cring + 64 * (i % x.size)
      if s.atsRefuses x a 64 then
        let s1 := s.count (hiBase + 0x118) 1
        if x.st = .faulted then s1.statusLine c else (s1.enterFaulted c 0x3014).statusLine c
      else
        let s1 := s.hostWrite (hostSpace x.cr.fn.toNat x.cr.pasid.toNat) (a % 2 ^ 47) (wordBytes ws)
        let r := runOn (x.size + 1) x.ring.written (x.ring.ahead ++ [i])
        let s2 := (s1.onCtx c fun x => { x with ring := { x.ring with written := r.1, ahead := r.2, interval := 2, unchanged := 0 } }).statusLine c
        let s3 := if irq then s2.interrupt x.cr.fn.toNat x.cr.vector.toNat else s2
        let no := bits (ws.getD 1 0) 0 32
        s3.emit ⟨0x04, x.home.map (·.1), none, some c, none, BitVec.ofNat 16 (bits (ws.getD 0 0) 32 16), no % 4, no, i⟩

end Sys2Proof.Machine
end

