-- ==== Sys2Proof/Machine/Operands.lean ====
section
/-! DEFINITION. Operand forms: descriptors (R71 to R74), the geometry of an operand in memory (R144, R145, R545), its lines,
element codes and scales, conversion of result rows (R147 to R153), and the region checks of a scratchpad (R39). -/

namespace Sys2Proof.Machine

/-! ### Geometry -/

/-- Shape and layout of an operand or of a piece's part of it. For row-major, `stride` is between rows; for tiled, between
tile-rows. -/
structure Geo where
  fmt : Fmt
  tiled : Bool
  rows : Nat
  cols : Nat
  stride : Nat
  deriving DecidableEq, Repr

/-- `n` over `k`, rounded up. -/
def cdiv (n k : Nat) : Nat := (n + k - 1) / k

/-- `n` rounded up to a multiple of 64. -/
def up64 (n : Nat) : Nat := cdiv n 64 * 64

/-- Bytes of one row-major row, and of one tile-row. -/
def rowBytes (fmt : Fmt) (cols : Nat) : Nat := cols * fmt.width / 8
def tileRowBytes (fmt : Fmt) (cols : Nat) : Nat := cdiv cols 128 * fmt.tileBytes

/-- The dense stride (R107). -/
def denseStride (fmt : Fmt) (tiled : Bool) (cols : Nat) : Nat :=
  if tiled then tileRowBytes fmt cols else up64 (rowBytes fmt cols)

/-- A dense operand (R107, R545). -/
def Geo.dense (fmt : Fmt) (tiled : Bool) (rows cols : Nat) : Geo := ⟨fmt, tiled, rows, cols, denseStride fmt tiled cols⟩

/-- Lines of an operand: rows, or tile-rows. -/
def Geo.lines (g : Geo) : Nat := if g.tiled then cdiv g.rows 128 else g.rows

/-- Bytes of a line. -/
def Geo.lineBytes (g : Geo) : Nat := if g.tiled then tileRowBytes g.fmt g.cols else rowBytes g.fmt g.cols

/-- Bytes from the operand's address to past its last byte. -/
def Geo.span (g : Geo) : Nat := if g.lines = 0 then 0 else (g.lines - 1) * g.stride + g.lineBytes

/-- The line that holds row `r`. -/
def Geo.lineOf (g : Geo) (r : Nat) : Nat := if g.tiled then r / 128 else r

/-- The bit within its line at which element `(r, c)` begins (R144, R145). -/
def Geo.elemBit (g : Geo) (r c : Nat) : Nat :=
  if g.tiled then
    let q := r % 128
    let base := c / 128 * g.fmt.tileBytes + q / 16 * g.fmt.groupBytes + q % 16 * (16 * g.fmt.width)
    base * 8 + c % 128 * g.fmt.width
  else c * g.fmt.width

/-- The byte within its line of the scale of row `r`, columns `32 j` on (R144). -/
def Geo.scaleByte (g : Geo) (r j : Nat) : Nat :=
  let q := r % 128
  j / 4 * g.fmt.tileBytes + q / 16 * g.fmt.groupBytes + 16 * (16 * g.fmt.width) + 4 * (q % 16) + j % 4

/-- `w` bits of a byte list from a bit position. -/
def bitsAt (bs : List Byte) (pos w : Nat) : Nat :=
  (ofBytes ((bs.drop (pos / 8)).take (w / 8 + 2)) >>> (pos % 8)) % 2 ^ w

/-- The code of element `(r, c)`, and its block's scale code, in an image of lines. -/
def Geo.code (g : Geo) (img : List (List Byte)) (r c : Nat) : Nat :=
  bitsAt (img.getD (g.lineOf r) []) (g.elemBit r c) g.fmt.width
def Geo.scale (g : Geo) (img : List (List Byte)) (r c : Nat) : Nat :=
  if g.fmt.block then ((img.getD (g.lineOf r) []).getD (g.scaleByte r (c / 32)) 0).toNat else 127

/-- The exact value of element `(r, c)`. -/
def Geo.value (g : Geo) (img : List (List Byte)) (r c : Nat) : Num := g.fmt.value (g.code img r c) (g.scale img r c)

/-- The FP32 value of element `(r, c)`: exact for every format but a decode beyond FP32 range (R154, R162). -/
def Geo.f32 (g : Geo) (img : List (List Byte)) (r c : Nat) : BitVec 32 :=
  if g.fmt.toNat = 0 then BitVec.ofNat 32 (g.code img r c) else toF32 (g.value img r c)

/-- The byte at `k` of a payload whose elements have codes `f`, `w` bits each (R144). -/
def payloadByte (w : Nat) (f : Nat → Nat) (k : Nat) : Byte :=
  BitVec.ofNat 8 ((List.range 8).foldl (fun acc i =>
    let p := 8 * k + i
    acc + (if (f (p / w)).testBit (p % w) then 2 ^ i else 0)) 0)

/-- One group of 16 rows of an engine-ready tile: payloads, then the scale word. -/
def groupImage (fmt : Fmt) (code : Nat → Nat → Nat) (scale : Nat → Nat → Nat) (r0 c0 : Nat) : List Byte :=
  ((List.range 16).flatMap fun q => (List.range (16 * fmt.width)).map fun k => payloadByte fmt.width (fun c => code (r0 + q) (c0 + c)) k)
  ++ (if fmt.block then (List.range 64).map fun i => BitVec.ofNat 8 (scale (r0 + i / 4) (c0 / 32 + i % 4)) else [])

/-- One line of an operand from its codes and scales. -/
def Geo.lineImage (g : Geo) (code : Nat → Nat → Nat) (scale : Nat → Nat → Nat) (i : Nat) : List Byte :=
  if g.tiled then
    (List.range (cdiv g.cols 128)).flatMap fun b => (List.range 8).flatMap fun q => groupImage g.fmt code scale (128 * i + 16 * q) (128 * b)
  else (List.range (rowBytes g.fmt g.cols)).map fun k => payloadByte g.fmt.width (fun c => code i c) k

/-- The lines of an operand from its rows of codes and scales; padding is zero, with the minimum scale (R73). -/
def Geo.image (g : Geo) (rows : List (List Nat × List Nat)) : List (List Byte) :=
  let code := fun r c => if r < g.rows && c < g.cols then (rows.getD r ([], [])).1.getD c 0 else 0
  let scale := fun r j => if r < g.rows then (rows.getD r ([], [])).2.getD j 0 else 0
  (List.range g.lines).map (g.lineImage code scale)

/-! ### Converting result rows -/

/-- A list cut into pieces of `n`. -/
def chunks {α : Type} (n : Nat) : Nat → List α → List (List α)
  | 0, _ => []
  | k + 1, xs => if xs.isEmpty then [] else xs.take n :: chunks n k (xs.drop n)

/-- Convert one row into a format: codes, scales, events (R149 to R153). -/
def convertRow (fmt : Fmt) (mode : Rnd) (xs : List Num) : List Nat × List Nat × Events :=
  if fmt.block then
    let bs := (chunks 32 (xs.length + 1) xs).map (convertBlock fmt mode)
    (bs.flatMap (·.2.1), bs.map (·.1), bs.foldl (fun acc b => acc.add b.2.2) .none)
  else
    let cs := xs.map (convertPlain fmt mode)
    (cs.map (·.1), [], cs.foldl (fun acc c => acc.add c.2) .none)

/-- Convert rows, adding up their events. -/
def convertRows (fmt : Fmt) (mode : Rnd) (xs : List (List Num)) : List (List Nat × List Nat) × Events :=
  let rs := xs.map (convertRow fmt mode)
  (rs.map fun r => (r.1, r.2.1), rs.foldl (fun acc r => acc.add r.2.2) .none)

/-! ### Measures for the norm watch -/

/-- Add a finite value's square to a sum of squares `m * 2^e`. -/
def addSquare (acc : Nat × Int) (x : Num) : Nat × Int :=
  match x with
  | .fin _ m e =>
    if m = 0 then acc
    else if acc.1 = 0 then (m * m, 2 * e)
    else let q := min acc.2 (2 * e); (scaleTo acc.1 acc.2 q + scaleTo (m * m) (2 * e) q, q)
  | _ => acc

/-- Add two sums of squares. -/
def addSums (a b : Nat × Int) : Nat × Int :=
  if a.1 = 0 then b else if b.1 = 0 then a
  else let q := min a.2 b.2; (scaleTo a.1 a.2 q + scaleTo b.1 b.2 q, q)

/-- What the vector unit measures over result rows before conversion (R165). -/
def measureRows (ev : Events) (xs : List (List Num)) : Measure :=
  let fins := xs.flatten.filter Num.isFin
  let sq := fins.foldl addSquare (0, 0)
  ⟨ev, sq.1, sq.2, fins.length⟩

/-! ### Descriptors -/

/-- A tensor descriptor (Table 3-3). -/
structure Desc where
  fmt : Fmt
  loc : Nat
  base : Nat
  tiled : Bool
  rows : Nat
  cols : Nat
  stride : Nat
  batch : Nat
  bstride : Nat
  deriving DecidableEq, Repr

/-- The base is legal for its class: unused high bits zero, 64-byte aligned, a scratchpad tile that exists or `0x3FF`
(R63, R71). -/
def baseLegal (loc base : Nat) : Bool :=
  base % 64 = 0 &&
  (if loc = 0 then base < 2 ^ 36 && (base / 2 ^ 26 < 640 || base / 2 ^ 26 = 0x3FF)
   else if loc = 1 then base < 2 ^ 48 else loc = 2)

/-- Read and validate the four words of a descriptor (R74). -/
def Desc.read (w : List Word) : Option Desc :=
  let w0 := w.getD 0 0
  let w1 := w.getD 1 0
  let w2 := w.getD 2 0
  let w3 := w.getD 3 0
  let fmt : Fmt := BitVec.ofNat 4 (bits w0 60 4)
  let tiled := bits w1 48 2 = 1
  let d : Desc := ⟨fmt, bits w0 56 4, bits w0 0 56, tiled, bits w1 0 24, bits w1 24 24, bits w2 0 48, bits w3 48 16, bits w3 0 48⟩
  if fmt.width != 0 && baseLegal d.loc d.base && bits w1 50 14 = 0 && bits w1 48 2 ≤ 1 && 1 ≤ d.rows && 1 ≤ d.cols &&
     bits w2 48 16 = 0 && d.stride % 64 = 0 && 1 ≤ d.batch && d.bstride % 64 = 0 &&
     (if tiled then fmt.tiledOk else fmt.rowMajorOk) &&
     (if tiled then tileRowBytes fmt d.cols else rowBytes fmt d.cols) ≤ d.stride
  then some d else none

/-- The geometry of a whole operand. -/
def Desc.geo (d : Desc) : Geo := ⟨d.fmt, d.tiled, d.rows, d.cols, d.stride⟩

/-- The operand is dense (R107). -/
def Desc.isDense (d : Desc) : Bool := d.stride = denseStride d.fmt d.tiled d.cols

/-! ### Regions of a scratchpad -/

/-- A granule is 256 KiB. -/
def granuleBytes : Nat := 0x40000

/-- Region entry `n` of a tile (`TL_SPREG[n]`). -/
def State.spEntry (s : State) (t n : Nat) : Word := s.treg t (0x100 + 8 * n)

/-- Whether a valid entry of a context covers a granule. -/
def State.covered (s : State) (t c gr : Nat) : Bool :=
  (List.range 16).any fun n =>
    let v := s.spEntry t n
    tst v 28 && bits v 0 12 = c && bits v 12 8 ≤ gr && gr < bits v 12 8 + bits v 20 8

/-- Granules that `n` bytes touch. -/
def granules (off n : Nat) : List Nat := (List.range ((off + n - 1) / granuleBytes + 1 - off / granuleBytes)).map (off / granuleBytes + ·)

/-- Every byte lies in the context's regions (R39). -/
def State.spAllowed (s : State) (t c off n : Nat) : Bool := n = 0 || (granules off n).all (s.covered t c)

/-- A granule that is being zeroed (R41). -/
def State.spZeroing (s : State) (t off n : Nat) : Bool := n != 0 && (granules off n).any fun gr => (s.tile t).sp.zeroing.contains gr

/-! ### Reading and writing whole operands -/

/-- The parts of every line of an operand, checked before anything moves (R113). -/
def State.lineParts (s : State) (c : Nat) (o : Operand) (g : Geo) (k : Touch) : List Nat → State × Except Status (List (List Part))
  | [] => (s, .ok [])
  | i :: is =>
    match s.operandParts c o (i * g.stride) g.lineBytes k with
    | (s1, .error st) => (s1, .error st)
    | (s1, .ok p) =>
      match s1.lineParts c o g k is with
      | (s2, .ok ps) => (s2, .ok (p :: ps))
      | (s2, .error st) => (s2, .error st)

/-- The parts of a whole operand. -/
def State.geoParts (s : State) (c : Nat) (o : Operand) (g : Geo) (k : Touch) : State × Except Status (List (List Part)) :=
  s.lineParts c o g k (List.range g.lines)

/-- Read every line. -/
def State.readLines (s : State) (c : Nat) : List (List Part) → State × Except Status (List (List Byte))
  | [] => (s, .ok [])
  | p :: ps =>
    match s.readParts c false p with
    | (s1, .error st) => (s1, .error st)
    | (s1, .ok b) =>
      match s1.readLines c ps with
      | (s2, .ok bs) => (s2, .ok (b :: bs))
      | (s2, .error st) => (s2, .error st)

/-- Write every line; when a line refuses, nothing is written (R138). -/
def State.writeLines (s : State) (c : Nat) (ps : List (List Part)) (bs : List (List Byte)) : State × Except Status Unit :=
  (ps.foldl (fun acc p => acc.touch c .write p) s).storeUnit c (ps.zip bs)

/-- An operand whose class is absent is skipped; otherwise its parts. -/
def State.partsIf (s : State) (c : Nat) (o : Operand) (g : Geo) (k : Touch) : State × Except Status (List (List Part)) :=
  if o.cls = 3 then (s, .ok []) else s.geoParts c o g k

end Sys2Proof.Machine
end

