-- ==== Sys2Proof/Machine/Counters.lean ====
section
/-! DEFINITION. Token counters (R46 to R49): counter sets, their allocation, addition, the wait test. -/

namespace Sys2Proof.Machine

/-- A wait on target `t` is satisfied by counter value `c` (R47). -/
def satisfied (c t : BitVec 32) : Bool := (c - t).toNat < 2 ^ 31

/-- The target lies exactly `2^31` ahead (R49). -/
def tooFar (c t : BitVec 32) : Bool := t - c = 0x80000000#32

/-- The counter set of a context on a tile. -/
def Work.set? (w : Work) (c : Nat) : Option CounterSet := w.sets.find? (fun x => x.ctx = c)

/-- A counter's value; a set that is not allocated reads zero. -/
def Work.counter (w : Work) (c k : Nat) : BitVec 32 :=
  match w.set? c with
  | some x => FMap.get 0 x.k k
  | none => 0

def State.counter (s : State) (t c k : Nat) : BitVec 32 := (s.tile t).work.counter c k

/-- Counter sets of a tile (R46). -/
def setsPerTile : Nat := 128

/-- A context holds a set on the tile, or one can be allocated (R46). -/
def State.setRoom (s : State) (t c : Nat) : Bool :=
  ((s.tile t).work.set? c).isSome || (s.tile t).work.sets.length < setsPerTile

/-- Allocate the context's set with every counter zero; priority and FF-5020 attribute are copied (R46, R199, R259). -/
def State.allocSet (s : State) (t c : Nat) : State :=
  if ((s.tile t).work.set? c).isSome then s
  else
    let x : CounterSet := match s.ctx? c with
      | some y => ⟨c, y.cr.prio, y.cr.ff5020, []⟩
      | none => ⟨c, 0, false, []⟩
    s.onWork t fun w => { w with sets := w.sets ++ [x] }

/-- The wait of a command is satisfied by the counters of its tile (R47). -/
def Work.waitMet (w : Work) (r : Rec) : Bool := ! r.waits || satisfied (w.counter r.ctx.toNat r.waitK.toNat) r.target

/-- Mark the queued and parked commands of a context whose wait is satisfied: the mark stays (R47). -/
def Work.mark (w : Work) (c : Nat) : Work :=
  let f := fun (e : Entry) => if e.cmd.ctx.toNat = c && w.waitMet e.cmd then { e with ready := true } else e
  { w with queues := w.queues.map (fun q => (q.1, q.2.map f)), parked := w.parked.map fun p => { p with ent := f p.ent } }

/-- Add to one counter of an allocated set, modulo `2^32` (R47). -/
def State.addCounter (s : State) (t c k n : Nat) : State :=
  s.onWork t fun w => Work.mark { w with sets := w.sets.map fun x =>
    if x.ctx = c then { x with k := FMap.put 0 x.k k (FMap.get 0 x.k k + BitVec.ofNat 32 n) } else x } c

/-- Release the context's set on a tile. -/
def State.dropSet (s : State) (t c : Nat) : State :=
  s.onWork t fun w => { w with sets := w.sets.filter fun x => x.ctx != c }

/-- The context's counters on every tile, as a waypoint keeps them (R172): key `256 t + k`. -/
def State.takeCounters (s : State) (c : Nat) : FMap (BitVec 32) :=
  s.tiles.flatMap fun p => match p.2.work.set? c with
    | some x => x.k.map fun q => (256 * p.1 + q.1, q.2)
    | none => []

/-- Restore the context's counters on one tile from a waypoint (R83). -/
def State.restoreCounters (s : State) (t c : Nat) (wp : FMap (BitVec 32)) : State :=
  let k := (FMap.keep (fun a => a / 256 = t) wp).map fun q => (q.1 % 256, q.2)
  s.onWork t fun w => Work.mark { w with sets := w.sets.map fun x => if x.ctx = c then { x with k := k } else x } c

end Sys2Proof.Machine
end

