-- ==== Sys2Proof/Machine/Device.lean ====
section
/-! DEFINITION. The device's own accesses to KV metadata, sequence lists and the spill reserve (R544), and copies between
regions (R172, R176). -/

namespace Sys2Proof.Machine

/-- Translate one page for the device: the entry must be valid and of tier Near; R and W are ignored (R544). Causes in the order of R289; a
legal entry of another tier has that of an entry that is not valid (DESIGN CHOICE, log 44). -/
def State.nearPart (s : State) (root cva n : Nat) : Trans :=
  match s.leafOf root cva with
  | .inr t => t
  | .inl leaf =>
    match s.flaw leaf 64 with
    | some (f, pa) => .flawed f pa
    | none =>
      let e := s.pa64 leaf
      let page := bits e 21 23 * 2 ^ 21
      if ! tst e 63 then .fail unmapped 1
      else if bits e 59 2 = 3 || ! frameLegal (bits e 55 4) || bits e 44 11 != 0 || bits e 0 21 != 0 then .fail unmapped 2
      else if bits e 59 2 != 0 then .fail unmapped 1
      else if tierOf page != .near then .fail unmapped 3
      else if s.absent page then .fail unmapped 4
      else .ok ⟨.pa (page + cva % 2 ^ 21), n, some leaf, cva % 2 ^ 21, cva / 2 ^ 21 % 2 ^ 26⟩

/-- Translate pages for the device; `quiet` for checks that record nothing (R213, R262). -/
def State.nearPages (s : State) (c root : Nat) (quiet : Bool) : List (Nat × Nat) → State × Except Status (List Part)
  | [] => (s, .ok [])
  | (a, n) :: rest =>
    match s.nearPart root a n with
    | .fail st cause => (if quiet then s else s.noteXlat c cause a, .error st)
    | .flawed f pa =>
      let st : Status := match f with | .lost => 0x5062 | .bad => 0x5061
      ((if f = .bad then s.noteFlaw pa st else s).blamePa pa, .error st)
    | .ok p =>
      match s.nearPages c root quiet rest with
      | (s1, .ok ps) => (s1, .ok (p :: ps))
      | r => r

/-- Parts of `n` bytes at a CVA for the device; a host CVA is not mapped to the Near tier. -/
def State.nearParts (s : State) (c root cva n : Nat) : State × Except Status (List Part) :=
  if cva / 2 ^ 47 % 2 = 1 then (s.noteXlat c 1 cva, .error unmapped) else s.nearPages c root false (pagesOf cva n)

/-- The translation root of a context. -/
def State.rootOf (s : State) (c : Nat) : Nat := match s.ctx? c with | some x => x.cr.root | none => 0

/-- Read for the device, through the Helm-core caches (R221, R544). -/
def State.devRead (s : State) (c cva n : Nat) : State × Except Status (List Byte) :=
  match s.nearParts c (s.rootOf c) cva n with
  | (s1, .ok ps) => s1.readParts c true ps
  | (s1, .error st) => (s1, .error st)

/-- Write for the device (R544). -/
def State.devWrite (s : State) (c cva : Nat) (bs : List Byte) : State × Except Status Unit :=
  match s.nearParts c (s.rootOf c) cva bs.length with
  | (s1, .ok ps) => s1.writeParts c .write ps bs
  | (s1, .error st) => (s1, .error st)

/-- The offset check and the region check of a scratchpad range (R36, R39). -/
def State.spCheck (s : State) (t c off n : Nat) : Option Status :=
  if spSize < off + n then some 0x2012
  else if ! s.spAllowed t c off n then some 0x3011
  else none

/-- Parts of `n` bytes of an operand, scratchpad regions checked. -/
def State.checkedParts (s : State) (c : Nat) (o : Operand) (n : Nat) (k : Touch) : State × Except Status (List Part) :=
  if o.cls = 0 then
    match s.spCheck o.spTile c o.spOff n with
    | some st => (s, .error st)
    | none => s.operandParts c o 0 n k
  else s.operandParts c o 0 n k

/-- Copy `n` bytes between two operands of a context. -/
def State.copyBytes (s : State) (c : Nat) (src dst : Operand) (n : Nat) : State × Option Status :=
  match s.checkedParts c src n .read with
  | (s1, .error st) => (s1, some st)
  | (s1, .ok ps) =>
    match s1.checkedParts c dst n .write with
    | (s2, .error st) => (s2, some st)
    | (s2, .ok qs) =>
      match s2.readParts c false ps with
      | (s3, .error st) => (s3, some st)
      | (s3, .ok bs) =>
        match s3.writeParts c .write qs bs with
        | (s4, .error st) => (s4, some st)
        | (s4, .ok ()) => (s4, none)

/-- A device CVA as an operand. -/
def cvaOperand (a : Nat) : Operand := ⟨1, BitVec.ofNat 56 a⟩

/-- Copy save entries: regions to their save areas, or back (R172, R176); the first failure ends it. -/
def State.copySaves (s : State) (c : Nat) (back : Bool) : List Save → State × Option Status
  | [] => (s, none)
  | e :: es =>
    let r := if back then s.copyBytes c (cvaOperand e.area) e.region e.bytes else s.copyBytes c e.region (cvaOperand e.area) e.bytes
    match r with
    | (s1, none) => s1.copySaves c back es
    | (s1, some st) => (s1, some st)

/-- The operand of a descriptor's batch member; tile `0x3FF` is the executing tile. -/
def Desc.operand (d : Desc) (t i : Nat) : Operand :=
  let a := d.base + i * d.bstride
  if d.loc = 0 && d.base / 2 ^ 26 = 0x3FF then ⟨0, BitVec.ofNat 56 (t * 2 ^ 26 + a % 2 ^ 26)⟩
  else ⟨BitVec.ofNat 2 d.loc, BitVec.ofNat 56 a⟩

/-- Scratchpad check of an operand's whole span. -/
def State.spanCheck (s : State) (c : Nat) (o : Operand) (n : Nat) : Option Status :=
  if o.cls = 0 then s.spCheck o.spTile c o.spOff n else none

/-- Convert one operand into another: values as FP32, then the destination's format (R119). -/
def State.convertOperand (s : State) (c : Nat) (mode : Rnd) (a : Operand) (ga : Geo) (d : Operand) (gd : Geo) : State × Option Status × Events :=
  match s.spanCheck c a ga.span, s.spanCheck c d gd.span with
  | some st, _ => (s, some st, .none)
  | _, some st => (s, some st, .none)
  | none, none =>
    match s.geoParts c a ga .read with
    | (s1, .error st) => (s1, some st, .none)
    | (s1, .ok pa) =>
      match s1.geoParts c d gd .write with
      | (s2, .error st) => (s2, some st, .none)
      | (s2, .ok pd) =>
        match s2.readLines c pa with
        | (s3, .error st) => (s3, some st, .none)
        | (s3, .ok img) =>
          let vals := (List.range ga.rows).map fun r => (List.range ga.cols).map fun k => ga.value img r k
          let out := convertRows gd.fmt mode vals
          match s3.writeLines c pd (gd.image out.1) with
          | (s4, .error st) => (s4, some st, out.2)
          | (s4, .ok ()) => (s4, none, out.2)

/-- Convert the batch members `i` of one copy in order; the first failure ends it. -/
def State.convertBatch (s : State) (c t : Nat) (m k : Desc) : List Nat → State × Option Status
  | [] => (s, none)
  | i :: is =>
    let x := s.convertOperand c .rne (m.operand t i) m.geo (k.operand t i) k.geo
    match x.2.1 with
    | some st => (x.1, some st)
    | none => x.1.convertBatch c t m k is

/-- Recompute one copy of a waypoint's list, every batch member (R176). -/
@[irreducible] def State.recomputeOne (s : State) (c t : Nat) (ws : List Word) : State × Option Status :=
  match Desc.read (ws.take 4), Desc.read (ws.drop 4) with
  | some m, some k => s.convertBatch c t m k (List.range m.batch)
  | _, _ => (s, none)

/-- Recompute the copies of a waypoint's list; the first failure ends it (R176). -/
def State.recompute (s : State) (c t : Nat) : List (List Word) → State × Option Status
  | [] => (s, none)
  | ws :: rest =>
    match s.recomputeOne c t ws with
    | (s1, some st) => (s1, some st)
    | (s1, none) => s1.recompute c t rest

end Sys2Proof.Machine
end

