-- ==== Sys2Proof/Machine/Home.lean ====
section
/-! DEFINITION. The home tile's handling of steps: the status of a step (R91, R92), scalar exceptions (R90), abort and flush
(R83, R169, R170), restore and replay (R176, R177), the start of code (R59 to R62, R172). -/

namespace Sys2Proof.Machine

/-! ### Steps of a context -/

/-- The step of a context with a `STEPNO`. -/
def State.step? (s : State) (c : Nat) (no : BitVec 32) : Option Step :=
  match s.ctx? c with
  | some x => x.steps.find? (fun p => p.stepno = no)
  | none => none

/-- The step in flight that a step tag names (R136). -/
def State.tagStep? (s : State) (c : Nat) (tag : BitVec 2) : Option Step :=
  match s.ctx? c with
  | some x => x.steps.find? (fun p => p.stepno.setWidth 2 = tag)
  | none => none

/-- Change a step. -/
def State.onStep (s : State) (c : Nat) (no : BitVec 32) (f : Step → Step) : State :=
  s.onCtx c fun x => { x with steps := x.steps.map fun p => if p.stepno = no then f p else p }

def State.onTally (s : State) (c : Nat) (no : BitVec 32) (f : Tally → Tally) : State :=
  s.onStep c no fun p => { p with tally := f p.tally }

/-- The home slot that holds a context. -/
def State.homeOf (s : State) (c : Nat) : Option (Nat × Nat) :=
  match s.ctx? c with
  | some x => x.home
  | none => none

/-- What a context's home tile sends to a tile gets through (R492). -/
def State.fromHome (s : State) (c t : Nat) : Bool :=
  match s.homeOf c with
  | some h => s.pathClear h.1 t
  | none => true

def State.onHomeSlot (s : State) (c : Nat) (f : Slot → Slot) : State :=
  match s.homeOf c with
  | some (t, n) => s.onTile t fun x => x.onSlot n f
  | none => s

/-- A step is in flight from the moment its code starts until its completion record is written (R60). -/
def Step.inFlight (p : Step) : Bool := p.codeStart.isSome

/-- A step that its home tile holds: in flight, or with its waypoint being saved. A step that ended at admission only waits for
its completion record. -/
def Step.held (p : Step) : Bool := p.phase != .complete || p.codeStart.isSome

/-! ### Status -/

def replayable (st : Status) : Bool := classOf st = 5 || classOf st = 6
def faulting (st : Status) : Bool := classOf st = 2 || classOf st = 3 || classOf st = 10

/-- The NOTED flag of a class `0x1` status (Table 14-10). -/
def notedBit (st : Status) : Nat :=
  match st.toNat with
  | 0x1010 => 0 | 0x1020 => 1 | 0x1030 => 2 | 0x1040 => 3 | 0x1041 => 4
  | _ => 15

def Tally.note (y : Tally) (st : Status) : Tally := { y with noted := y.noted ||| BitVec.ofNat 16 (2 ^ notedBit st) }

/-- Count one further failure, saturating at 255 (R91). -/
def Tally.more (y : Tally) : Tally := { y with further := min 255 (y.further + 1) }

/-- Where a status came from: the failing piece's layer and operator and tile, or an exception. -/
structure Origin where
  layop : BitVec 32
  tile : Nat
  piece : Bool

/-- An exception, or a failure of the home tile's own work: no piece (Table 14-10). -/
def Origin.none : Origin := ⟨0xFFFFFFFF#32, 0, false⟩

def Tally.fail (y : Tally) (st : Status) (o : Origin) : Tally :=
  { y with status := st, failLayop := o.layop, failTile := o.tile, failPiece := o.piece }

/-! ### Flush -/

/-- Stop the code of a step, if it is the one in the context's slot. -/
def State.stopCode (s : State) (c : Nat) (no : BitVec 32) : State :=
  s.onHomeSlot c fun x => if x.stepno = no then { x with code := false, stall := .none } else x

/-- Send a flush of a step to every tile that received a piece of it (R83). -/
def State.sendFlush (s : State) (c : Nat) (p : Step) (replay : Bool) : State :=
  let s1 := (s.stopCode c p.stepno).onStep c p.stepno fun q =>
    { q with phase := .flushing replay, tally := { q.tally with awaiting := q.tally.tiles } }
  let fs := p.tally.tiles.map fun t => (⟨t, c, p.stepno.setWidth 2, replay⟩ : Flush)
  { s1 with mail := { s1.mail with flushes := s1.mail.flushes ++ fs } }

/-- The limit of replays, and the work of a step's waypoint. -/
def Waypoint.none : Waypoint := ⟨2, [], [], []⟩

/-- A step ends with a status of the home tile's own work, without replay. -/
def State.endStep (s : State) (c : Nat) (no : BitVec 32) (st : Status) : State :=
  s.onStep c no fun p => { p with phase := .complete, tally := p.tally.fail st .none }

/-- Steps of a context after a given one. -/
def State.laterSteps (s : State) (c : Nat) (no : BitVec 32) : List Step :=
  match s.ctx? c with
  | some x => (x.steps.dropWhile fun p => p.stepno != no).drop 1
  | none => []

/-- A step that holds work of its own: its saves run, its code or pieces run, or it is being flushed or restored. -/
def Phase.live : Phase → Bool
  | .complete => false
  | _ => true

/-- The waypoint counters of the oldest live step of a context: the state that an abort of all of them returns to. -/
def State.rootCounters (s : State) (c : Nat) : FMap (BitVec 32) :=
  match s.ctx? c with
  | some x => (match x.steps.find? fun p => p.phase.live with | some p => p.wp.counters | none => [])
  | none => []

/-- Give every live step of a context the same waypoint counters. -/
def State.rootSteps (s : State) (c : Nat) : State :=
  let wp := s.rootCounters c
  s.onCtx c fun x => { x with steps := x.steps.map fun p => if p.phase.live then { p with wp := { p.wp with counters := wp } } else p }

/-- The tiles of a step have confirmed its flush, or there is none: signals on their way are dropped, and on the tiles that took
no flush the counters return to the waypoint (R83). -/
def State.backCounters (s : State) (c : Nat) (p : Step) : State :=
  let s0 := { s with mail := { s.mail with signals := s.mail.signals.filter fun g => ! (g.ctx = c && g.tag = p.stepno.setWidth 2) } }
  ((s0.tiles.map (·.1)).filter fun u => ! p.tally.tiles.contains u).foldl (fun acc u => acc.restoreCounters u c p.wp.counters) s0

/-- A step whose flush has ended completes without a replay. -/
def State.stopStep (s : State) (c : Nat) (p : Step) : State :=
  (s.backCounters c p).onStep c p.stepno fun q => { q with phase := .complete }

/-- Begin the flush of a step that is not replayed; with no tile to wait for it has ended. -/
def State.flushOff (s : State) (c : Nat) (no : BitVec 32) : State :=
  match s.step? c no with
  | some p =>
    let s1 := s.sendFlush c p false
    if p.tally.tiles.isEmpty then s1.stopStep c p else s1
  | none => s

/-- Abort the other steps of a context that became Faulted; each ends with the faulting status (R93). -/
def State.abortOthers (s : State) (c : Nat) (no : BitVec 32) (st : Status) : State :=
  match s.ctx? c with
  | none => s
  | some x => x.steps.foldl (fun acc p =>
      if p.stepno = no then acc
      else
        let acc1 := acc.onTally c p.stepno fun y => if classOf y.status ≤ 1 then y.fail st .none else y
        match p.phase with
        | .saving | .running => acc1.flushOff c p.stepno
        | .flushing true => acc1.onStep c p.stepno fun q => { q with phase := .flushing false }
        | .restoring => acc1.onStep c p.stepno fun q => { q with phase := .complete }
        | _ => acc1) s

/-- Count a replay that the core starts (R179, Table 6-4). -/
def State.countReplay (s : State) (c : Nat) (cause : Status) : State :=
  match s.homeOf c with
  | some (t, _) =>
    let s1 := s.tcount t 0x980 1
    if cause = 0x5030 then s1.tcount t 0x990 1 else s1
  | none => s

/-- A step that reached its replay limit (R177). -/
def State.limitReached (s : State) (c : Nat) (no : BitVec 32) (o : Origin) : State :=
  let s1 := s.onTally c no fun y => (y.fail 0x7001 o).more
  match s1.homeOf c with | some (t, _) => s1.tcount t 0x988 1 | none => s1

/-- The context of a step that ended with a status of class `0x2`, `0x3` or `0xA` becomes Faulted, and its other step is aborted
(R92, R93). -/
def State.faultWith (s : State) (c : Nat) (no : BitVec 32) (st : Status) : State :=
  ((s.faultCtx c st).rootSteps c).abortOthers c no st

/-- Restore a step for its replay: every save area is copied back and every copy recomputed (R176). A failure is handled by its
class (R92, R174): class `0x5` or `0x6` counts a replay and restores again, up to the limit (DESIGN CHOICE, log 92). -/
def State.restore : Nat → State → Nat → Nat → BitVec 32 → State
  | 0, s, _, _, _ => s
  | fuel + 1, s, t, c, no =>
    match s.step? c no with
    | none => s
    | some p =>
      let x := match s.copySaves c true p.wp.saves with
        | (s1, some st) => (s1, some st)
        | (s1, none) => s1.recompute c t p.wp.recomp
      match x with
      | (s1, none) => s1.onStep c no fun q => { q with phase := .restoring }
      | (s1, some st) =>
        if replayable st then
          if p.tally.replays < p.wp.limit then
            State.restore fuel ((s1.onTally c no fun y => { y with replays := y.replays + 1, cause := st }).countReplay c st) t c no
          else (s1.limitReached c no .none).onStep c no fun q => { q with phase := .complete }
        else
          let s2 := s1.endStep c no st
          if faulting st then s2.faultWith c no st else s2

/-- Every tile has confirmed (or none had to): restore for a replay, or let the step complete (R83, R176). -/
def State.flushed (s : State) (c : Nat) (no : BitVec 32) : State :=
  match s.step? c no, s.homeOf c with
  | some p, some (t, _) =>
    (match p.phase with
     | .flushing true => State.restore 9 (s.backCounters c p) t c no
     | .flushing false => s.stopStep c p
     | _ => s)
  | _, _ => s

/-- Begin the flush of one step; with no tile to wait for it is flushed at once. -/
def State.flushStep (s : State) (c : Nat) (no : BitVec 32) (replay : Bool) : State :=
  match s.step? c no with
  | some p =>
    let s1 := s.sendFlush c p replay
    if p.tally.tiles.isEmpty then s1.flushed c no else s1
  | none => s

/-- The later step in flight is aborted with an earlier one and runs again, uncounted; its counters return to the earlier step's
waypoint with the earlier step's (R83). A later step whose own flush or restore is under way runs again after it as well, unless it is
not to be replayed. A step whose code has not started is not in flight (R60): nothing of it is undone. -/
def State.abortLater (s : State) (c : Nat) (no : BitVec 32) (wp : FMap (BitVec 32)) : State :=
  (s.laterSteps c no).foldl (fun acc p =>
    let acc1 := acc.onStep c p.stepno fun q => { q with wp := { q.wp with counters := wp } }
    let acc2 := acc1.onStep c p.stepno fun q => { q with rerun := true }
    match p.phase with
    | .running => acc2.flushStep c p.stepno true
    | .flushing true | .restoring => acc2
    | .flushing false => acc1
    | _ => acc) s

/-- Abort a step (R83). -/
def State.abortStep (s : State) (c : Nat) (no : BitVec 32) (replay : Bool) : State :=
  let wp := match s.step? c no with | some p => p.wp.counters | none => []
  (s.flushStep c no replay).abortLater c no wp

/-- The first failure of a running step (Table 3-8, R177). -/
def State.failStep (s : State) (c : Nat) (p : Step) (st : Status) (o : Origin) : State :=
  let no := p.stepno
  if replayable st then
    if p.tally.replays < p.wp.limit then
      ((s.onTally c no fun y => { y with replays := y.replays + 1, cause := st }).countReplay c st).abortStep c no true
    else
      (s.limitReached c no o).abortStep c no false
  else
    let s1 := s.onTally c no fun y => y.fail st o
    if faulting st then ((((s1.faultCtx c st).rootSteps c).flushStep c no false).abortOthers c no st) else s1.abortStep c no false

/-- The home tile takes a status for a step (R91, R92, R136, R170, R177). -/
def State.takeStatus (s : State) (c : Nat) (no : BitVec 32) (st : Status) (o : Origin) : State :=
  match s.step? c no with
  | none => s
  | some p =>
    if classOf st = 0 then s
    else if classOf st = 1 then s.onTally c no (·.note st)
    else match p.phase with
      | .saving | .running => s.failStep c p st o
      | .flushing true | .restoring => if replayable st then s else s.onTally c no Tally.more
      | .flushing false | .complete => s.onTally c no Tally.more

/-! ### Error records of statuses -/

/-- Statuses whose source is the memory that served the access. -/
def ofMemory (st : Status) : Bool := [0x5020, 0x5060, 0x5061, 0x5062, 0x6040].contains st.toNat

/-- The source of a status (Table 18-6); of a status of a memory, the tier of the access that failed. -/
def sourceOf (st : Status) (spot : Nat × Nat) : Nat :=
  if ofMemory st then spot.1
  else match st.toNat with
  | 0x5002 => 1
  | 0x6010 => 2
  | 0x6012 => 3
  | 0x6041 => 6
  | 0x6020 | 0x6021 | 0x6022 | 0x6050 => 7
  | 0x6100 | 0x6101 => 8
  | _ => 0

/-- The detail of a status: the place of the access that failed, where one did (Table 18-6). -/
def detailOf (st : Status) (spot : Nat × Nat) : Nat :=
  if ofMemory st || [0x5001, 0x5002, 0x6010, 0x6020, 0x6021, 0x6022, 0x6041, 0x6050, 0x6100, 0x6101].contains st.toNat then spot.2 else 0

/-- Record a step's status of class `0x5` or `0x6` (R496), with the place of the access that failed. -/
def State.logStatus (s : State) (st : Status) (t eng c : Nat) (layop no : BitVec 32) (spot : Nat × Nat) : State :=
  s.logIf ⟨st, sourceOf st spot, t, eng, c, layop, no, detailOf st spot, dieOf t⟩

/-! ### Exceptions -/

/-- A scalar exception in home slot `n` of tile `t` (R90): the code stops at the instruction, the status is recorded, and
the step handles it by class. -/
def State.raise (s : State) (t n : Nat) (st : Status) (pc : BitVec 48) : State :=
  let x := (s.tile t).slot n
  let s1 := s.onTile t fun y => y.onSlot n fun z => { z with excstat := st, code := false, stall := .none }
  let s2 := (s1.setTreg t 0x8A0 (pack [(16, x.ctx.toNat), (0, st.toNat)])).setTreg t 0x8A8 (pc.setWidth 64)
  let s3 := (s2.setField (tileBase t + 0x800) 16 16 st.toNat).logStatus st t 0 x.ctx.toNat x.layop x.stepno s.marks.spot
  s3.takeStatus x.ctx.toNat x.stepno st ⟨0xFFFFFFFF#32, 0, false⟩

/-! ### Starting code -/

/-- Fields of a step record (Table 14-9). -/
def recKp (ws : List Word) : Nat := bits (ws.getD 0 0) 40 8
def recP (ws : List Word) : Nat := bits (ws.getD 0 0) 24 16
def recG (ws : List Word) : Nat := bits (ws.getD 0 0) 8 16
def recIrq (ws : List Word) : Bool := tst (ws.getD 0 0) 55
def recEntry (ws : List Word) : Nat := bits (ws.getD 1 0) 0 48
def recArg (ws : List Word) : Nat := bits (ws.getD 2 0) 0 48
def recDeadline (ws : List Word) : Word := ws.getD 3 0
def recFallback (ws : List Word) : Nat := bits (ws.getD 4 0) 0 48

/-- The step has a deadline: Lodestar watches it (R270). -/
def watched (ws : List Word) : Bool := recDeadline ws != BitVec.allOnes 64

/-- A store that an earlier run of the step sent is nobody's any more (R358). -/
def Remote.orphan (q : Remote) (c : Nat) (no : BitVec 32) : Remote :=
  match q.owner with
  | .store _ _ k => if q.ctx = c && k = no then { q with owner := .nobody } else q
  | _ => q

/-- Start a step's code at an entry (R59, R172, R176): `g1`, `DEADLINE`, the program counter and `LAYOP`; Lodestar starts. -/
def State.startCode (s : State) (c : Nat) (p : Step) (fallback : Bool) : State :=
  match s.homeOf c with
  | none => s
  | some (t, n) =>
    let entry := if fallback then recFallback p.words else recEntry p.words
    let s0 := s.onTile t fun y => { y with fab := { y.fab with remotes := y.fab.remotes.map fun q => q.orphan c p.stepno } }
    let s1 := s0.onTile t fun y => y.onSlot n fun z =>
      { z with g := FMap.put 0 z.g 1 (BitVec.ofNat 64 (recArg p.words)), pc := BitVec.ofNat 48 entry, stepno := p.stepno,
               layop := 0xFFFFFFFF#32, deadline := recDeadline p.words, code := true, stall := .none }
    let s2 := s1.onStep c p.stepno fun q =>
      { q with phase := .running, ended := false, rerun := false,
               codeStart := some (q.codeStart.getD s1.chron),
               watch := { q.watch with start := s1.chron, next := s1.chron + 8000, p0 := s1.counter t c (recKp p.words),
                                       fallback := fallback || q.watch.fallback, usedFallback := fallback || q.watch.usedFallback } }
    s2.emit ⟨0x03, some t, none, some c, none, 0, (p.stepno.setWidth 2).toNat, p.stepno.toNat, p.index⟩

/-- No earlier step of the context still runs its code, or waits to run it (R60). -/
def State.codeFree (s : State) (c : Nat) (no : BitVec 32) : Bool :=
  match s.ctx? c with
  | some x => (x.steps.takeWhile fun p => p.stepno != no).all fun p => match p.phase with
    | .running => p.ended
    | .complete => true
    | _ => false
  | none => false

end Sys2Proof.Machine
end

