-- ==== Sys2Proof/Machine/Helm.lean ====
section
/-! DEFINITION. The Helm core as the scalar rows see it: the slot that runs, its registers, retiring and exceptions (R28,
R29, R67, R90, R95), and the floating-point forms (R69, R70, R98). -/

namespace Sys2Proof.Machine

/-! ### Registers of a slot -/

/-- `g0` reads zero (Table 3-2). -/
def Slot.rg (z : Slot) (r : Nat) : Word := if r = 0 then 0 else FMap.get 0 z.g r

/-- Writes to `g0` are ignored (Table 3-2). -/
def Slot.wg (z : Slot) (r : Nat) (v : Word) : Slot := if r = 0 then z else { z with g := FMap.put 0 z.g r v }

def Slot.rf (z : Slot) (r : Nat) : Word := FMap.get 0 z.f r
def Slot.wf (z : Slot) (r : Nat) (v : Word) : Slot := { z with f := FMap.put 0 z.f r v }

/-- Word `w` of a tensor descriptor register. -/
def Slot.rt (z : Slot) (i w : Nat) : Word := FMap.get 0 z.t (4 * i + w)
def Slot.wt (z : Slot) (i w : Nat) (v : Word) : Slot := { z with t := FMap.put 0 z.t (4 * i + w) v }

/-- The four words of a descriptor register. -/
def Slot.desc (z : Slot) (i : Nat) : List Word := (List.range 4).map (z.rt i)

/-! ### Running an instruction -/

/-- The home slot whose code the core of a tile runs now: the core is not halted (R56), the slot is active, its code runs and
waits for nothing. -/
def State.core (s : State) (t : Nat) : Option Nat :=
  if ! s.moving || tst (s.treg t 0x808) 0 then none
  else match (s.tile t).active with
    | some n => if ((s.tile t).slot n).code && ((s.tile t).slot n).stall = .none then some n else none
    | none => none

/-- Retire an instruction of `len` bytes in slot `n`, with its effect on the slot. -/
def State.retire (s : State) (t n len : Nat) (f : Slot → Slot) : State :=
  (s.onTile t fun x => x.onSlot n fun z => { f z with pc := z.pc + BitVec.ofNat 48 len }).tcount t 0x8B8 1

/-- Retire a jump. -/
def State.retireTo (s : State) (t n : Nat) (f : Slot → Slot) (pc : BitVec 48) : State :=
  (s.onTile t fun x => x.onSlot n fun z => { f z with pc := pc }).tcount t 0x8B8 1

/-- An exception at the present instruction. -/
def State.except (s : State) (t n : Nat) (st : Status) : State := s.raise t n st ((s.tile t).slot n).pc

def illegalInstruction : Status := 0x2001
def misaligned : Status := 0x2002

/-- An instruction of `len` bytes that only changes the slot, or raises a status. -/
def State.scalar (s : State) (t len : Nat) (bad : Slot → Option Status) (f : Slot → Slot) : State :=
  match s.core t with
  | none => s
  | some n =>
    match bad ((s.tile t).slot n) with
    | some st => s.except t n st
    | none => s.retire t n len f

/-- An integer operation on two registers (Table 4-3). -/
def State.alu (s : State) (t rd ra rb : Nat) (op : Word → Word → Word) : State :=
  s.scalar t 4 (fun _ => none) fun z => z.wg rd (op (z.rg ra) (z.rg rb))

/-- An integer operation on a register and an immediate (Table 4-2). -/
def State.alui (s : State) (t rd ra : Nat) (imm : BitVec 15) (op : Word → Word → Word) : State :=
  s.scalar t 4 (fun _ => none) fun z => z.wg rd (op (z.rg ra) (imm.signExtend 64))

/-- A truth value as a register. -/
def word1 (b : Bool) : Word := if b then 1 else 0

/-! ### Floating point -/

/-- The named rounding mode (Table 4-3); `none` for an illegal value. -/
def rndOf (r : BitVec 3) : Option Rnd :=
  match r.toNat with
  | 0 => some .rne | 1 => some .rtz | 2 => some .down | 3 => some .up | 4 => some .rna
  | _ => none

def precEnc (p : BitVec 2) : Enc := if p = 1 then .fp32 else .b64

/-- An operand: binary64, or rounded to binary32 first (R69). -/
def readF (p : BitVec 2) (w : Word) : Num :=
  let x := Enc.b64.decode w.toNat
  if p = 1 then Enc.fp32.fit .rne x else x

/-- The binary64 code of a result; a NaN is the canonical quiet NaN (R70). -/
def codeF (x : Num) : Word := BitVec.ofNat 64 (Enc.b64.encode x)

/-- Legal precision, rounding and unused operand of a floating-point function (R98). -/
def fpLegal (m : FpMode) (unary plain : Bool) (rb : Nat) : Bool :=
  (rndOf m.rnd).isSome && m.prec.toNat ≤ 1 && (! unary || rb = 0) && (! plain || m.prec = 0)

/-- A floating-point instruction. -/
def State.fp (s : State) (t : Nat) (m : FpMode) (unary plain : Bool) (rb : Nat) (f : Rnd → Slot → Slot) : State :=
  s.scalar t 4 (fun _ => if fpLegal m unary plain rb then none else some illegalInstruction)
    (f ((rndOf m.rnd).getD .rne))

/-- An arithmetic operation of two operands, its result rounded once. -/
def State.fp2 (s : State) (t : Nat) (m : FpMode) (rd ra rb : Nat) (op : Rnd → Num → Num → Num) : State :=
  s.fp t m false false rb fun r z =>
    z.wf rd (codeF ((precEnc m.prec).fit r (op r (readF m.prec (z.rf ra)) (readF m.prec (z.rf rb)))))

/-- A comparison; a NaN operand gives 0 (R98). -/
def State.fcmp (s : State) (t : Nat) (m : FpMode) (rd ra rb : Nat) (op : Num → Num → Bool) : State :=
  s.fp t m false false rb fun _ z => z.wg rd (word1 (op (readF m.prec (z.rf ra)) (readF m.prec (z.rf rb))))

/-- FMIN and FMAX (R98): −0 below +0; one NaN gives the other operand. -/
def pickNum (less : Bool) (a b : Num) : Num :=
  if a.isNan then b else if b.isNan then a
  else if Num.below a b = less then a else b

/-- Convert to a 64-bit integer, saturating; a NaN gives 0 (R98). -/
def toInt64 (r : Rnd) (x : Num) : Word :=
  match x with
  | .nan => 0
  | .inf n => if n then BitVec.ofInt 64 (-(2 ^ 63)) else BitVec.ofInt 64 (2 ^ 63 - 1)
  | x =>
    let i := Num.toInt r x
    BitVec.ofInt 64 (max (-(2 ^ 63)) (min (2 ^ 63 - 1) i))

end Sys2Proof.Machine
end

