-- ==== Sys2Proof/Machine/Pieces.lean ====
section
/-! DEFINITION. How a tensor instruction splits into pieces (R76, R106), the part of each operand that a piece takes (R77),
and the rules of shape, format and layout of each instruction (R74, R105, R107, R114 to R132, R194, R216, R229, R243). -/

namespace Sys2Proof.Machine

/-! ### Parts -/

/-- A part of an operand: batch member, rows, columns. -/
structure Box where
  m : Nat
  r0 : Nat
  nr : Nat
  c0 : Nat
  nc : Nat
  deriving DecidableEq, Repr

/-- The part as the engine takes it: dense in its own shape (R77, R545). -/
def Box.geo (b : Box) (d : Desc) : Geo := Geo.dense d.fmt d.tiled b.nr b.nc

/-- Bytes that the part takes when parts follow one another. -/
def Box.size (b : Box) (d : Desc) : Nat := (b.geo d).lines * (b.geo d).stride

/-- Bytes from the operand's base to the part, by the operand's own stride and batch stride. -/
def Box.off (b : Box) (d : Desc) : Nat :=
  b.m * d.bstride + (if d.tiled then b.r0 / 128 * d.stride + b.c0 / 128 * d.fmt.tileBytes else b.r0 * d.stride + b.c0 * d.fmt.width / 8)

/-- A whole batch member. -/
def Desc.box (d : Desc) (m : Nat) : Box := ⟨m, 0, d.rows, 0, d.cols⟩

/-- Rows `[r0, r0 + nr)` of a member, all columns. -/
def Desc.rowsBox (d : Desc) (m r0 nr : Nat) : Box := ⟨m, r0, nr, 0, d.cols⟩

/-- A piece before its tile is known: record fields and the part of each operand. An operand without a part is absent, or is
the word `aRaw` or `bRaw`. -/
structure Piece where
  rows : Nat
  extent : Nat
  cols : Nat
  param : Nat
  bshape : Nat
  a : Option Box
  b : Option Box
  d : Option Box
  aRaw : Operand
  bRaw : Operand
  deriving Repr

/-- A piece of three parts. -/
def piece (rows extent cols param : Nat) (a b d : Option Box) : Piece := ⟨rows, extent, cols, param, 0, a, b, d, .absent, .absent⟩

/-- Chunks of at most `k` of `n` things: start and length. -/
def cuts (n k : Nat) : List (Nat × Nat) := (List.range (cdiv n k)).map fun i => (i * k, min k (n - i * k))

/-- Rows of a piece at most (R108). -/
def maxRows : Nat := 1024

/-- The row count of the table, in the places of output columns and parameter (R545). -/
def tableWord (n : Nat) : Nat × Nat := (n / 2 ^ 21 % 256, n % 2 ^ 21)

/-! ### Format and shape rules -/

/-- A format that an engine can write: T2 is produced only by the chart tool (R115, R119). -/
def writable (f : Fmt) : Bool := f.width != 0 && f != 10

/-- A cell mode exists (Table 4-8). -/
def matrixFmts (a b : Fmt) : Bool := a.toNat ≤ 9 && b.toNat ≤ 10

/-- Formats of the write-out of a matrix command (R115, R117). -/
def matrixOut (f : Fmt) : Bool := f.toNat ≤ 9

/-- A statistics operand (R194). -/
def Desc.isStats (d : Desc) (rows : Nat) : Bool := d.fmt = 0 && ! d.tiled && d.cols = 4 && d.rows = rows

/-- Bytes of a token record and of a bearing table (R232). -/
def recordBytes (k : Nat) : Nat := up64 (16 + 8 * k)
def tableBytes (T E C k : Nat) : Nat := 64 + T * recordBytes k + 16 * E + up64 (4 * E * C)

/-- What forming needs from the context: the generation of a TROUTE piece (R230) and the executing tile of piece 0. -/
structure Forming where
  generation : BitVec 32
  first : Nat

/-- `some` when a rule holds. -/
def need (b : Bool) : Option Unit := if b then some () else none

/-- TMM (R115): A rows x depth, B outputs x depth, D rows x outputs. -/
def formMatrix (d a b : Desc) (m : Nat) : Option (List Piece) := do
  need (matrixFmts a.fmt b.fmt && matrixOut d.fmt && a.cols = b.cols && d.rows = a.rows && d.cols = b.rows)
  need (d.isDense && a.isDense && b.isDense)
  return (cuts d.cols 128).flatMap fun c => (cuts d.rows maxRows).map fun r =>
    piece r.2 a.cols c.2 0 (some (a.rowsBox m r.1 r.2)) (some (b.rowsBox m c.1 c.2)) (some ⟨m, r.1, r.2, c.1, c.2⟩)

/-- The clamped causal base in 21 bits (R116). -/
def causalBase (L rows r0 c0 : Nat) : Nat :=
  let b : Int := (L : Int) - rows + r0 - c0
  (BitVec.ofInt 21 (max (-1024) (min 127 b))).toNat

/-- TSCORE (R116): A queries, B keys with one key per row, D FP32 scores. -/
def formScore (causal : Bool) (d a b : Desc) (m : Nat) : Option (List Piece) := do
  need (matrixFmts a.fmt b.fmt && d.fmt = 0 && a.cols = b.cols && d.rows = a.rows && d.cols = b.rows)
  need (d.isDense && a.isDense && b.isDense)
  return (cuts d.cols 128).flatMap fun c => (cuts d.rows maxRows).map fun r =>
    piece r.2 a.cols c.2 (if causal then causalBase b.rows a.rows r.1 c.1 else 0)
      (some (a.rowsBox m r.1 r.2)) (some (b.rowsBox m c.1 c.2)) (some ⟨m, r.1, r.2, c.1, c.2⟩)

/-- TREAD (R117): A FP32 probabilities, B values with one position per row. -/
def formRead (d a b : Desc) (m : Nat) : Option (List Piece) := do
  need (a.fmt = 0 && (b.fmt = 1 || b.fmt = 2 || b.fmt = 3) && matrixOut d.fmt && a.cols = b.rows && d.rows = a.rows && d.cols = b.cols)
  need (d.isDense && a.isDense && b.isDense)
  return (cuts d.cols 128).flatMap fun c => (cuts d.rows maxRows).map fun r =>
    piece r.2 a.cols c.2 0 (some (a.rowsBox m r.1 r.2)) (some ⟨m, 0, b.rows, c.1, c.2⟩) (some ⟨m, r.1, r.2, c.1, c.2⟩)

/-- A vector instruction of one source, by row chunks. -/
def formRows (d a : Desc) (m param : Nat) (dBox : Nat → Nat → Box) : Option (List Piece) := do
  need (d.isDense && a.isDense && writable d.fmt)
  return (cuts a.rows maxRows).map fun r => piece r.2 a.cols 0 param (some (a.rowsBox m r.1 r.2)) none (some (dBox r.1 r.2))

/-- TVOP (R118): the shape of B sets the broadcast. -/
def formVop (var : Nat) (d a : Desc) (b : Option Desc) (m : Nat) : Option (List Piece) := do
  need (d.rows = a.rows && d.cols = a.cols)
  let ps ← formRows d a m 0 (d.rowsBox m)
  match b with
  | none => if 1 ≤ var && var ≤ 5 then none else return ps
  | some b =>
    need b.isDense
    if b.rows = a.rows && b.cols = a.cols then
      return ps.map fun p => { p with bshape := 0, b := (p.a.map fun x => b.rowsBox m x.r0 x.nr) }
    else if b.rows = a.rows && b.cols = 1 then
      return ps.map fun p => { p with bshape := 1, b := (p.a.map fun x => b.rowsBox m x.r0 x.nr) }
    else if b.rows = 1 && b.cols = a.cols then
      return ps.map fun p => { p with bshape := 2, b := some (b.box m) }
    else none

/-- TCVT, TSFN: the output has the source's shape (R119, R120). -/
def formSame (param : Nat) (d a : Desc) (m : Nat) : Option (List Piece) := do
  need (d.rows = a.rows && d.cols = a.cols)
  formRows d a m param (d.rowsBox m)

/-- TSTAT (R121, R194). -/
def formStat (param : Nat) (d a : Desc) (m : Nat) : Option (List Piece) := do
  need (d.isStats a.rows && param ≤ 63)
  formRows d a m param (d.rowsBox m)

/-- TNORM, and TSMAX with PARTIAL: statistics in B (R122, R123). -/
def formNorm (d a b : Desc) (m : Nat) : Option (List Piece) := do
  need (d.rows = a.rows && d.cols = a.cols && b.isStats a.rows && b.isDense)
  let ps ← formRows d a m 0 (d.rowsBox m)
  return ps.map fun p => { p with b := (p.a.map fun x => b.rowsBox m x.r0 x.nr) }

/-- TROUTE (R229, R230): one piece. -/
def formRoute (x : Forming) (param : Nat) (d a : Desc) : Option (List Piece) := do
  let k := param % 32
  let cap := param / 32
  need (a.fmt = 0 && ! a.tiled && a.loc = 0 && a.batch = 1 && a.rows ≤ 1024 && a.cols ≤ 4096 && a.isDense)
  need (1 ≤ k && k ≤ 16 && k ≤ a.cols && 1 ≤ cap)
  need (d.fmt = 11 && ! d.tiled && d.loc = 0 && d.rows = 1 && d.batch = 1 && d.isDense && tableBytes a.rows a.cols cap k ≤ 4 * d.cols)
  return [{ piece a.rows a.cols 0 param (some (a.box 0)) none (some (d.box 0)) with bRaw := ⟨3, x.generation.setWidth 56⟩ }]

/-- Columns of an answer row's trailer: 64 bytes (R241). -/
def trailerCols (f : Fmt) : Nat := 512 / f.width

/-- The smallest bearing table with the tokens and the answer rows of a TCOMB: k of 1 and the fewest experts whose capacity gives so
many slots. The instruction names neither k nor E, so that this is what it can check (DESIGN CHOICE, log 107). -/
def leastTable (tokens slots : Nat) : Nat := 64 + tokens * recordBytes 1 + 16 * max 1 (cdiv slots 65535) + up64 (4 * slots)

/-- TCOMB (R241, R243): a piece per 1,024 output columns; the answer buffer whole. -/
def formComb (d a b : Desc) : Option (List Piece) := do
  need ((d.fmt = 0 || d.fmt = 1) && ! d.tiled && d.loc = 0 && d.batch = 1 && d.isDense && d.rows ≤ 1024)
  need ((a.fmt = 0 || a.fmt = 1) && ! a.tiled && a.loc = 0 && a.batch = 1 && a.isDense && a.cols = d.cols + trailerCols a.fmt
    && rowBytes a.fmt a.cols ≤ 131072 && a.rows < 2 ^ 20)
  need (b.fmt = 11 && ! b.tiled && b.loc = 0 && b.rows = 1 && b.batch = 1 && b.isDense && leastTable d.rows a.rows ≤ 4 * b.cols)
  return (cuts d.cols 1024).map fun c => piece d.rows d.cols 0 c.1 (some (a.box 0)) (some (b.box 0)) (some ⟨0, 0, d.rows, c.1, c.2⟩)

/-- Bytes of a mover piece at most (Table 3-5). -/
def moverBytes : Nat := 278528

/-- Row and column cuts of a mover piece: one tile-row, or 32 tiles of it; rows that fit, or a part of a long row. -/
def moverCuts (f : Fmt) (tiled : Bool) (rows cols : Nat) : List ((Nat × Nat) × (Nat × Nat)) :=
  let rc := if tiled then (128, if cols > 4096 then 4096 else cols)
    else if rowBytes f cols ≤ moverBytes then (min maxRows (moverBytes / rowBytes f cols), cols)
    else (1, moverBytes * 8 / f.width)
  (cuts cols rc.2).flatMap fun c => (cuts rows rc.1).map fun r => (r, c)

/-- The operand's parts follow one another on the executing tiles (R77). -/
def Desc.spread (d : Desc) : Bool := d.loc = 0 && d.base / 2 ^ 26 = 0x3FF

/-- A part of a memory-side operand keeps the operand's row stride, unless it is one of several that follow one another, each dense in its
own shape; the part that covers the whole operand is the operand itself (R77, R110). -/
def Desc.ownStride (d : Desc) (b : Box) : Bool := ! d.spread || b = d.box b.m

/-- TPLD without PAGED, and TSTW (R110, R125, R128): the memory-side operand `mem` gives its row stride when row-major; the parts of one
whose tile field is `0x3FF` are dense (R77). Table 3-5 cuts tiled operands in one way and row-major ones in another; where one of the two
is tiled, the model cuts as for tiled ones (DESIGN CHOICE, log 115). -/
def formMove (d a mem : Desc) (m : Nat) : Option (List Piece) := do
  need (d.fmt = a.fmt && d.rows = a.rows && d.cols = a.cols)
  return (moverCuts a.fmt (a.tiled || d.tiled) a.rows a.cols).map fun x =>
    let b : Box := ⟨m, x.1.1, x.1.2, x.2.1, x.2.2⟩
    let stride : Operand := ⟨3, if mem.tiled then 0 else BitVec.ofNat 56 (if mem.ownStride b then mem.stride else (b.geo mem).stride)⟩
    { piece x.1.2 x.2.2 0 0 (some b) none (some b) with bRaw := stride }

/-- TPLD with PAGED (R216): of tb the base alone is used, and a piece's part of the page list is its words up to the entry of its
tile-row. The landing operand lies in a scratchpad and is tiled: another one raises DESCRIPTOR_INVALID (DESIGN CHOICE, log 106). -/
def formPaged (d a b : Desc) (m : Nat) : Option (List Piece) := do
  let o := a.base + (if a.batch = 1 then 0 else m) * a.bstride
  need (a.loc = 1 && (a.fmt = 2 || a.fmt = 3) && a.tiled && a.cols ≤ 128 && o % 16384 = 0 && o < 2 ^ 23)
  need (d.loc = 0 && d.fmt = a.fmt && d.rows = a.rows && d.cols = a.cols && d.tiled && d.isDense)
  need (b.base % 2 ^ 47 + 8 * (1 + cdiv a.rows 128) ≤ 2 ^ 47)
  let list : Operand := ⟨1, BitVec.ofNat 56 (b.base % 2 ^ 48)⟩
  return (cuts a.rows 128).map fun r =>
    { piece r.2 a.cols 0 (r.1 / 128) none none (some (d.rowsBox m r.1 r.2)) with aRaw := ⟨1, BitVec.ofNat 56 o⟩, bRaw := list }

/-- The part of an index list for rows `[r0, r0 + nr)` and its shape code (R127, R545). -/
def indexBox (b : Desc) (m n : Nat) : Option (Nat × (Nat → Nat → Box)) :=
  if b.fmt = 11 && ! b.tiled && b.isDense then
    if b.rows = n && b.cols = 1 then some (1, fun r0 nr => ⟨m, r0, nr, 0, 1⟩)
    else if b.rows = 1 && b.cols = n then some (2, fun r0 nr => ⟨m, 0, 1, r0, nr⟩)
    else none
  else none

/-- TGATH (R127) and TSCAT (R128): `tab` is the table, `row` the operand of one row per index. -/
def formIndexed (gather : Bool) (tab row b : Desc) (m : Nat) : Option (List Piece) := do
  need (tab.fmt = row.fmt && tab.cols = row.cols && tab.isDense && row.isDense)
  let (shape, box) ← indexBox b m row.rows
  let tw := tableWord tab.rows
  return (cuts row.rows maxRows).map fun r =>
    let x := some (row.rowsBox m r.1 r.2)
    let y := some (tab.box m)
    { piece r.2 row.cols tw.1 tw.2 (if gather then y else x) (some (box r.1 r.2)) (if gather then x else y) with bshape := shape }

/-- Formats of SATOM (R129). -/
def atomFmt (var : Nat) (f : Fmt) : Bool :=
  match var with
  | 0 => f = 11 | 1 => f = 0 | 2 => f = 11 | 3 => f = 11
  | _ => f = 0 || f = 11

/-- TATOM (R129). -/
def formAtom (var : Nat) (d a b : Desc) (m : Nat) : Option (List Piece) := do
  need (atomFmt var a.fmt && d.fmt = a.fmt && b.fmt = a.fmt && ! a.tiled && ! d.tiled && ! b.tiled)
  need (a.cols = (if var = 5 then 2 else 1) && d.rows = 1 && b.rows = 1 && a.rows ≤ d.cols && a.rows ≤ b.cols)
  need (a.isDense && b.isDense && d.isDense)
  return (cuts a.rows maxRows).map fun r =>
    piece r.2 a.cols 0 0 (some (a.rowsBox m r.1 r.2)) (some ⟨m, 0, 1, r.1, r.2⟩) (some ⟨m, 0, 1, r.1, r.2⟩)

/-- A group descriptor lies in the executing tile's scratchpad (R130). -/
def groupPlace (x : Forming) (b : Desc) : Bool := b.loc = 0 && (b.base / 2 ^ 26 = 0x3FF || b.base / 2 ^ 26 = x.first)

/-- TCRED, TCGATH, TCROW (R132): one piece. -/
def formColl (code : Nat) (x : Forming) (d a b : Desc) (m : Nat) : Option (List Piece) := do
  need (groupPlace x b && a.rows ≤ maxRows && d.isDense && a.isDense && b.isDense && d.tiled = a.tiled && d.fmt = a.fmt && d.cols = a.cols)
  need (match code with
    | 0x40 => a.fmt = 0 && d.rows = a.rows
    | 0x41 => a.fmt != 10 && a.rows ≤ d.rows
    | _ => a.isStats a.rows && d.rows = a.rows)
  return [piece a.rows a.cols 0 0 (some (a.box m)) (some ⟨m, 0, 1, 0, 1⟩) (some (d.box m))]

/-! ### Placing parts -/

/-- The parts that earlier pieces took of an operand whose tile field is `0x3FF`: tile, part, offset. -/
abbrev Placed := List (Nat × Box × Nat)

/-- The byte range that a part takes, from its address: its dense span, or by the memory-side stride. -/
def partSpan (d : Desc) (b : Box) (own : Bool) : Nat :=
  let g := b.geo d
  if g.lines = 0 then 0 else (g.lines - 1) * (if own then d.stride else g.stride) + g.lineBytes

/-- The operand word of a part on executing tile `t` (R77, R109), and the parts placed so far; `none` when an offset would
carry into another field. The parts of an operand whose tile field is `0x3FF` follow one another on each tile, as R77 has it, those of a
TATOM too, which R129 lets begin at element 1,024 × chunk of one vector (DESIGN CHOICE, log 116). -/
def placePart (d : Desc) (own : Bool) (placed : Placed) (t : Nat) (b0 : Box) : Option (Operand × Placed) :=
  let b := if d.batch = 1 then { b0 with m := 0 } else b0
  if d.spread then
    let known := placed.find? fun q => q.1 = t && q.2.1 = b
    let off := match known with
      | some q => q.2.2
      | none => placed.foldl (fun acc q => if q.1 = t && q.2.1.m = b.m then acc + q.2.1.size d else acc) 0
    let at_ := d.base % 2 ^ 26 + b.m * d.bstride + off
    if at_ + partSpan d b (own && d.ownStride b) ≤ 2 ^ 26 then
      some (⟨0, BitVec.ofNat 56 (t * 2 ^ 26 + at_)⟩, if known.isSome then placed else placed ++ [(t, b, off)])
    else none
  else
    let lim := if d.loc = 0 then 2 ^ 26 else if d.loc = 1 then 2 ^ 47 else 2 ^ 44
    let low := d.base % lim + b.off d
    if low + partSpan d b own ≤ lim then
      some (⟨BitVec.ofNat 2 d.loc, BitVec.ofNat 56 (d.base / lim * lim + low)⟩, placed)
    else none

/-- Place an operand of a piece, if the piece has a part of it. -/
def placeIf (d : Option Desc) (own : Bool) (raw : Operand) (placed : Placed) (t : Nat) (b : Option Box) : Option (Operand × Placed) :=
  match d, b with
  | some d, some b => placePart d own placed t b
  | _, _ => some (raw, placed)

end Sys2Proof.Machine
end

