-- ==== Sys2Proof/Machine/Queue.lean ====
section
/-! DEFINITION. The command inbox and the engine queues of a tile: arrival, the checks at queue entry and parking (R43 to
R49, R111, R112, R260, R261, R265), selection (R45, R255 to R259), and the reports of pieces (R136). -/

namespace Sys2Proof.Machine

open Sys2Proof

/-! ### Geometry of a record's operands (R545) -/

/-- A row-major or tiled memory-side operand: its row stride comes from the B word (R110). -/
def Rec.memGeo (r : Rec) (f : Fmt) (tiled : Bool) : Geo :=
  ⟨f, tiled, r.rows.toNat, r.extent.toNat, if tiled then tileRowBytes f r.extent.toNat else r.b.addr.toNat % 2 ^ 48⟩

/-- A statistics operand (R194). -/
def statsGeo (rows : Nat) : Geo := Geo.dense 0 false rows 4

/-- A statistics operand as it is written: bytes 16 to 63 of each row are written too (R194). -/
def statsOutGeo (rows : Nat) : Geo := Geo.dense 0 false rows 16

/-- The answer buffer's rows of a VCOMB record, and the columns of its output part (R545). -/
def Rec.answerRows (r : Rec) : Nat := r.b.addr.toNat >>> 36
def Rec.combCols (r : Rec) : Nat := min 1024 (r.extent.toNat - r.param.toNat)

/-- Bits of the parameter of a VROUTE record (R229): k and capacity. -/
def Rec.routeK (r : Rec) : Nat := r.param.toNat % 32
def Rec.routeCap (r : Rec) : Nat := r.param.toNat / 32

def Rec.geoA (r : Rec) : Option Geo :=
  let n := r.rows.toNat
  let x := r.extent.toNat
  match r.code.toNat with
  | 0x01 | 0x02 => none
  | 0x27 => some (Geo.dense r.fa r.la r.answerRows (x + trailerCols r.fa))
  | 0x30 => if r.variant = 1 then none else some (r.memGeo r.fa r.la)
  | 0x31 => some (Geo.dense r.fa r.la r.tableRows x)
  | 0x42 => some (statsGeo n)
  | _ => some (Geo.dense r.fa r.la n x)

def Rec.geoB (r : Rec) : Option Geo :=
  let n := r.rows.toNat
  let x := r.extent.toNat
  let y := r.cols.toNat
  match r.code.toNat with
  | 0x10 | 0x11 => some (Geo.dense r.fb r.lb y x)
  | 0x12 => some (Geo.dense r.fb r.lb x y)
  | 0x20 => some (Geo.dense r.fb r.lb (if r.bshape = 2 then 1 else n) (if r.bshape = 1 then 1 else x))
  | 0x24 => some (statsGeo n)
  | 0x25 => some (statsOutGeo n)
  | 0x27 => some (Geo.dense 11 false 1 (16 + 16 * n))
  | 0x31 | 0x39 => some (if r.bshape = 1 then Geo.dense 11 false n 1 else Geo.dense 11 false 1 n)
  | 0x3A => some (Geo.dense r.fb false 1 n)
  | 0x40 | 0x41 | 0x42 => some (Geo.dense 11 false 1 2)
  | _ => none

def Rec.geoD (r : Rec) : Option Geo :=
  let n := r.rows.toNat
  let x := r.extent.toNat
  match r.code.toNat with
  | 0x01 | 0x02 => none
  | 0x10 | 0x12 => if r.variant.getLsbD 0 then none else some (Geo.dense r.fd r.ld n r.cols.toNat)
  | 0x11 => some (Geo.dense r.fd r.ld n r.cols.toNat)
  | 0x23 | 0x42 => some (statsOutGeo n)
  | 0x26 => some (Geo.dense 11 false 1 (tableBytes n x r.routeCap r.routeK / 4))
  | 0x27 => some (Geo.dense r.fd r.ld n r.combCols)
  | 0x38 => some (r.memGeo r.fd r.ld)
  | 0x39 => some (Geo.dense r.fd r.ld r.tableRows x)
  | 0x3A => some (Geo.dense r.fd false 1 n)
  | _ => some (Geo.dense r.fd r.ld n x)

/-- The B operand's place: a VCOMB record holds a row count above it. -/
def Rec.bPlace (r : Rec) : Operand := if r.code = 0x27 then ⟨r.b.cls, BitVec.ofNat 56 (r.b.addr.toNat % 2 ^ 36)⟩ else r.b

/-- The operand that D's word names: of a command that keeps its result, the D that it names and does not write (R39, R112). -/
def Rec.geoNamed (r : Rec) : Option Geo :=
  if r.code = 0x10 || r.code = 0x12 then some (Geo.dense r.fd r.ld r.rows.toNat r.cols.toNat) else r.geoD

/-- Scratchpad ranges that a record names: tile, offset, bytes. -/
def Rec.scratch (r : Rec) : List (Nat × Nat × Nat) :=
  [(r.a, r.geoA), (r.bPlace, r.geoB), (r.d, r.geoNamed)].filterMap fun p =>
    match p.2 with
    | some g => if p.1.cls = 0 then some (p.1.spTile, p.1.spOff, g.span) else none
    | none => none

/-! ### Check 1 of R112 -/

/-- Number of variants of a command code (Table 4-6). -/
def variants (code : Nat) : Nat :=
  match code with
  | 0x10 | 0x12 | 0x21 => 4
  | 0x11 | 0x25 | 0x30 => 2
  | 0x20 => 8
  | 0x23 | 0x24 | 0x40 | 0x42 | 0x02 => 3
  | 0x3A => 6
  | 0x22 | 0x26 | 0x27 | 0x31 | 0x38 | 0x39 | 0x41 | 0x01 => 1
  | _ => 0

/-- The engine field of a command code (Table 4-6, Table 4-7). -/
def engineOk (code engine : Nat) : Bool :=
  match code with
  | 0x10 | 0x11 | 0x12 => engine = 0
  | 0x20 | 0x21 | 0x22 | 0x23 | 0x24 | 0x25 | 0x26 | 0x27 => engine = 1
  | 0x30 | 0x31 => engine = 2
  | 0x38 | 0x39 | 0x3A => engine = 6
  | 0x40 | 0x41 | 0x42 => engine = 8
  | 0x01 | 0x02 => engine ≤ 8
  | _ => false

/-- Formats agree with the command's rule. -/
def Rec.formatsOk (r : Rec) : Bool :=
  match r.code.toNat with
  | 0x10 => matrixFmts r.fa r.fb && matrixOut r.fd
  | 0x11 => matrixFmts r.fa r.fb && r.fd = 0
  | 0x12 => r.fa = 0 && (r.fb = 1 || r.fb = 2 || r.fb = 3) && matrixOut r.fd
  | 0x20 => Fmt.width r.fa != 0 && writable r.fd && (if 1 ≤ r.variant.toNat && r.variant.toNat ≤ 5 then Fmt.width r.fb != 0 else true)
  | 0x21 | 0x22 => Fmt.width r.fa != 0 && writable r.fd
  | 0x25 => Fmt.width r.fa != 0 && writable r.fd && (r.variant = 0 || r.fb = 0)
  | 0x23 => Fmt.width r.fa != 0 && r.fd = 0
  | 0x24 => Fmt.width r.fa != 0 && r.fb = 0 && writable r.fd
  | 0x26 => r.fa = 0 && r.fd = 11
  | 0x27 => (r.fa = 0 || r.fa = 1) && r.fb = 11 && (r.fd = 0 || r.fd = 1)
  | 0x30 => Fmt.width r.fa != 0 && r.fa = r.fd && (r.variant = 0 || r.fa = 2 || r.fa = 3)
  | 0x38 => Fmt.width r.fa != 0 && r.fa = r.fd
  | 0x31 | 0x39 => Fmt.width r.fa != 0 && r.fa = r.fd && r.fb = 11
  | 0x3A => atomFmt r.variant.toNat r.fa && r.fa = r.fd && r.fa = r.fb
  | 0x40 | 0x42 => r.fa = 0 && r.fd = 0
  | 0x41 => Fmt.width r.fa != 0 && r.fa = r.fd && r.fa != 10
  | _ => true

/-- Check 1 of R112. -/
def Rec.valid (r : Rec) : Bool :=
  r.variant.toNat < variants r.code.toNat && engineOk r.code.toNat r.engine.toNat && r.formatsOk

/-! ### Reports of pieces (R136) -/

/-- A piece tells its home tile that it completed: a notice for class `0x0`, a report for any other. -/
def State.tell (s : State) (t e : Nat) (r : Rec) (st : Status) (spot : Nat × Nat := (0, 0)) : State :=
  let x : Report := ⟨r.home.toNat, r.ctx.toNat, r.tag, st, e, t, r.layop, true, spot⟩
  let s1 := s.emit ⟨0x02, some t, some e, some r.ctx.toNat, some r.layop, st, r.tag.toNat, r.code.toNat, r.rows.toNat⟩
  if classOf st = 0 then { s1 with mail := { s1.mail with notices := s1.mail.notices ++ [x] } }
  else { s1 with mail := { s1.mail with reports := s1.mail.reports ++ [x] } }

/-- The tile is Faulted (R480). -/
def State.faultedTile (s : State) (t : Nat) : Bool := (s.tile t).upkeep.state = 3

/-- A piece on a tile sends its signal (R78, R80, R137), unless the tile is Faulted (R480). -/
def State.sendSignal (s : State) (t : Nat) (r : Rec) : State :=
  if r.signals && r.incr != 0 && ! s.faultedTile t then
    let g : Signal := ⟨r.ctx.toNat, r.tag, r.home.toNat, r.sigTile.toNat, r.sigK, r.incr, t⟩
    { s with mail := { s.mail with signals := s.mail.signals ++ [g] } }
  else s

/-! ### Queues -/

/-- Places of an inbox and of a queue, and a context's share (R43, R260). -/
def inboxDepth : Nat := 256
def queueDepth : Nat := 64
def queueShare : Nat := 48

def Work.queue (w : Work) (e : Nat) : List Entry := FMap.get [] w.queues e
def Work.setQueue (w : Work) (e : Nat) (q : List Entry) : Work := { w with queues := FMap.put [] w.queues e q }

/-- Of some queues, the one with the fewest entries, the lowest number on a tie (R111). -/
def Work.fewest (w : Work) (es : List Nat) : Nat :=
  es.foldl (fun best e => if (w.queue e).length < (w.queue best).length then e else best) (es.headD 0)

def pilots : List Nat := [2, 3, 4, 5]
def stows : List Nat := [6, 7]

/-- The queue that a record enters (R111, R134). -/
def Work.target (w : Work) (r : Rec) : Nat :=
  let e := r.engine.toNat
  if pilots.contains e then w.fewest pilots else if stows.contains e then w.fewest stows else e

/-- The queues that a FENCE naming an engine covers (R135). -/
def fenceCovers (e : Nat) : List Nat := if pilots.contains e then pilots else if stows.contains e then stows else [e]

/-- Keep a high-water mark in a field of a tile register. -/
def State.highWater (s : State) (t o lo w n : Nat) : State :=
  if bits (s.treg t o) lo w < n then s.setField (tileBase t + o) lo w n else s

/-- A record enters its tile's inbox. -/
def State.intoInbox (s : State) (t : Nat) (r : Rec) : State :=
  let s1 := s.onWork t fun w => { w with inbox := w.inbox ++ [r] }
  s1.highWater t 0x088 16 9 (s1.tile t).work.inbox.length

/-- The tile is partitioned, and its owner (R261). -/
def State.partitioned (s : State) (t : Nat) : Bool := tst (s.treg t 0x008) 1
def State.partOwner (s : State) (t : Nat) : Nat := bits (s.treg t 0x008) 2 12

/-- `TL_SPSAVE[n]` reads spilled, and holds granules of a context (Table 10-7). -/
def State.spSave (s : State) (t n : Nat) : Word := s.treg t (0x740 + 8 * n)
def saveHolds (v : Word) (c gr : Nat) : Bool := tst v 63 && bits v 51 12 = c && bits v 35 8 ≤ gr && gr < bits v 35 8 + bits v 43 8

/-- Whether a range lies in the context's regions, spilled regions of the executing tile counted (R39, R112). -/
def State.inRegions (s : State) (exec t c off n : Nat) : Bool :=
  n = 0 || (granules off n).all fun gr =>
    s.covered t c gr || (t = exec && (List.range 16).any fun i => saveHolds (s.spSave t i) c gr)

/-- Entry checks 1 to 7 (R112); wrong parity of the region table that the sixth reads fails it (Table 18-7). -/
def State.entryStatus (s : State) (t : Nat) (r : Rec) (parity : Bool := false) : Option Status :=
  let c := r.ctx.toNat
  let sp := r.scratch
  if ! r.valid then some 0x2005
  else if maxRows < r.rows.toNat then some 0x2013
  else if sp.any fun p => 640 ≤ p.1 || spSize < p.2.1 + p.2.2 then some 0x2012
  else if r.waits && tooFar (s.counter t c r.waitK.toNat) r.target then some 0x2015
  else if s.partitioned t && s.partOwner t != c then some 0x3061
  else if (parity && ! sp.isEmpty) || ! sp.all fun p => s.inRegions t p.1 c p.2.1 p.2.2 then some 0x3011
  else if ! s.setRoom t c then some 0x4010
  else none

/-! ### Parking (R265) -/

/-- Places of the park area. -/
def parkDepth : Nat := 1024

/-- A record needs the kept accumulator result of its context: an ADD (R115). -/
def Rec.adds (r : Rec) : Bool := (r.code = 0x10 || r.code = 0x12) && r.variant.getLsbD 1
def Rec.keeps (r : Rec) : Bool := (r.code = 0x10 || r.code = 0x12) && r.variant.getLsbD 0

/-- A record names a granule of an entry. -/
def Rec.names (r : Rec) (t base count : Nat) : Bool :=
  r.scratch.any fun p => p.1 = t && p.2.2 != 0 && (granules p.2.1 p.2.2).any fun gr => base ≤ gr && gr < base + count

/-- The region entry for whose sake a record parks, if any: under a running spill, or spilled (R112, R265). -/
def State.parkEntry (s : State) (t : Nat) (r : Rec) : Option Nat :=
  let c := r.ctx.toNat
  let w := (s.tile t).work
  (List.range 16).find? fun n =>
    let v := s.spSave t n
    let e := s.spEntry t n
    let kept := match FMap.find? w.accSave n with | some k => k.ctx = c && r.adds | none => false
    (tst v 63 && bits v 51 12 = c && (kept || r.names t (bits v 35 8) (bits v 43 8))) ||
    (match w.order with
     | some o => ! o.restore && o.n = n && o.victim = c &&
         (r.names t (bits e 12 8) (bits e 20 8) || kept || (r.adds && (match w.kept with | some k => k.ctx = c | none => false)))
     | none => false)

/-- Records parked for an entry. -/
def Work.parkedFor (w : Work) (n : Nat) : Nat := w.parked.countP fun p => p.entry = n

/-- The next free place of an entry's park area (R265). -/
def Work.freePlace (w : Work) (n : Nat) : Nat :=
  ((List.range parkDepth).find? fun k => ! w.parked.any fun p => p.entry = n && p.place = k).getD parkDepth

/-- The offset of the park area in the context's reserve (Table 10-3): offset units and granules. -/
def parkArea (o g : Nat) : Nat := o * 65536 + g * granuleBytes + 0x80000

/-- The offset and the granule count that an order or a save of entry `n` uses. -/
def State.savePlace (s : State) (t n : Nat) : Nat × Nat :=
  let v := s.spSave t n
  if tst v 63 then (bits v 0 24, bits v 43 8)
  else match (s.tile t).work.order with
    | some o => (o.off, bits (s.spEntry t n) 20 8)
    | none => (0, bits (s.spEntry t n) 20 8)

/-- The CVA of a context's spill reserve. -/
def State.reserve (s : State) (c : Nat) : Nat := match s.ctx? c with | some x => x.cr.spill | none => 0

/-- A spill order whose record met `st` on its way to the park area fails with it (R267, R544). -/
def Order.fail (n : Nat) (st : Status) (o : Order) : Order := if ! o.restore && o.n = n && o.failed = 0 then { o with failed := st } else o

/-- Park a command for entry `n`: its record goes to the next free place of the park area; the 1,025th completes with
SPILL_PARK_FULL (R265). -/
def State.park (s : State) (t n : Nat) (e : Entry) : State :=
  let k := (s.tile t).work.parkedFor n
  if parkDepth ≤ k then s.tell t e.cmd.engine.toNat e.cmd 0x4061
  else
    let c := e.cmd.ctx.toNat
    let pl := s.savePlace t n
    let i := (s.tile t).work.freePlace n
    let s1 := match s.devWrite c (s.reserve c + parkArea pl.1 pl.2 + 64 * i) (wordBytes e.cmd.words) with
      | (s1, .ok ()) => s1
      | (s1, .error st) => s1.onWork t fun w => { w with order := w.order.map (Order.fail n st) }
    let s2 := (s1.onWork t fun w => { w with parked := w.parked ++ [⟨n, i, e⟩] }).tcount t 0x7C8 1
    if tst (s2.spSave t n) 63 then s2.setField (tileBase t + 0x740 + 8 * n) 24 11 (k + 1) else s2

/-- Put a command into a queue. -/
def State.enqueue (s : State) (t e : Nat) (x : Entry) : State :=
  let s1 := s.onWork t fun w => w.setQueue e (w.queue e ++ [x])
  s1.highWater t (0x040 + 8 * e) 8 7 ((s1.tile t).work.queue e).length

/-- A command that passed its checks parks or enters its queue. -/
def State.admitEntry (s : State) (t e : Nat) (x : Entry) : State :=
  match s.parkEntry t x.cmd with
  | some n => s.park t n x
  | none => s.enqueue t e x

/-! ### Arrival and entry -/

/-- The first element that satisfies a test, and the others. -/
def takeFirst {α : Type} (p : α → Bool) : List α → Option (α × List α)
  | [] => none
  | x :: xs => if p x then some (x, xs) else (takeFirst p xs).map fun r => (r.1, x :: r.2)

/-- What the code of a message's flits finds on the tile's own mesh links (R51, Table 2-6). An uncorrectable error is recorded when its bit
becomes set (R496): the spec names no status for it, and the record's is OK (DESIGN CHOICE, log 93). -/
def State.flitCheck (s : State) (t : Nat) (f : Flits) : State :=
  match f with
  | .clean => s
  | .corrected => s.orReg (tileBase t + 0x018) 0x40
  | .uncorrectable =>
    let s1 := s.orReg (tileBase t + 0x018) 0x80
    if tst (s.treg t 0x018) 7 then s1 else s1.log (tileFault 0 2 t 0 0xFFF 0)

/-- COMMAND_ARRIVAL. The code of the flits corrects an error; a message with an error that it does not correct stays on the channel
(DESIGN CHOICE, log 93: the spec gives it no outcome). -/
def execCommandArrival (t : Tile) (s : State) (f : Flits := .clean) : Result :=
  .next (
    if ! s.moving || inboxDepth ≤ (s.tile t).work.inbox.length then s
    else match takeFirst (fun p => p.1 = t.val && s.fromHome p.2.ctx.toNat t) s.mail.channel with
      | none => s
      | some (p, rest) =>
        let s0 := s.flitCheck t f
        if f = .uncorrectable then s0 else { s0 with mail := { s0.mail with channel := rest } }.intoInbox t p.2)

/-- The mark of parked records that return to their queues, ahead of the inbox (R267, R268). -/
def returning : Nat := 16

/-- A record can move: its queue has a free place, and its context is below its share (R260, R261). -/
def State.canMove (s : State) (t : Nat) (r : Rec) : Bool :=
  let w := (s.tile t).work
  let q := w.queue (w.target r)
  q.length < queueDepth && (s.partitioned t || q.countP (fun e => e.cmd.ctx = r.ctx) < queueShare)

/-- A parked command returns to a queue: it enters now (R256), and a partition of another context denies it (R261). -/
def State.reenter (s : State) (t : Nat) (x : Entry) : State :=
  let e := (s.tile t).work.target x.cmd
  if s.partitioned t && s.partOwner t != x.cmd.ctx.toNat then s.tell t e x.cmd 0x3061
  else
    let n := (s.tile t).work.nextOrd
    (s.onWork t fun w => { w with nextOrd := n + 1 }).admitEntry t e { x with ord := n }

def execQueueEntry (t : Tile) (s : State) (parity : Bool := false) : Result :=
  .next (
    if ! s.moving then s
    else if s.faultedTile t then
      match (s.tile t).work.inbox with
      | [] => s
      | r :: rs => (s.onWork t fun w => { w with inbox := rs }).tell t r.engine.toNat r 0x6011
    else match takeFirst (fun (p : Parked) => p.entry = returning && s.canMove t p.ent.cmd) (s.tile t).work.parked with
    | some (p, rest) => (s.onWork t fun w => { w with parked := rest }).reenter t p.ent
    | none =>
      match takeFirst (s.canMove t) (s.tile t).work.inbox with
      | none => s
      | some (r, rest) =>
        let e := (s.tile t).work.target r
        let s1 := s.onWork t fun w => { w with inbox := rest }
        match s1.entryStatus t r parity with
        | some st => (if st = 0x2015 then s1.orReg (tileBase t + 0x018) 8 else s1).tell t e r st
        | none =>
          let s2 := s1.allocSet t r.ctx.toNat
          let w := (s2.tile t).work
          (s2.onWork t fun w => { w with nextOrd := w.nextOrd + 1 }).admitEntry t e ⟨r, w.nextOrd, w.waitMet r⟩)

/-! ### Eligibility (R45, R117, R135, R189, R259) -/

/-- Runs of an engine. -/
def Work.runs (w : Work) (e : Nat) : List Run := w.running.filter fun r => r.eng = e

/-- TOKEN and FENCE take no engine time (R134, R135). -/
def Rec.idle (r : Rec) : Bool := r.code = 1 || r.code = 2

/-- Requests of an engine that are outstanding (Table 2-5). -/
def Work.outstanding (w : Work) (e : Nat) : Nat :=
  (w.runs e).foldl (fun n r => n + r.reqs.countP fun q => q.issued.isSome) 0

/-- Outstanding requests of a pilot or stow engine, and collective slots, at most (Table 2-5). -/
def maxOutstanding : Nat := 32
def collectiveSlots : Nat := 16

/-- An engine can select (R255). The spec names no command whose output feeds the vector unit directly, so that none holds the
pool of vector input buffers of Table 2-5 (DESIGN CHOICE, log 96). -/
def TileState.engineFree (x : TileState) (e : Nat) : Bool :=
  let w := x.work
  let work := (w.runs e).filter fun r => ! r.cmd.idle
  if e ≤ 1 then work.all (·.formed)
  else if e ≤ 7 then work.all (fun r => r.formed && r.reqs.all fun q => q.issued.isSome) && w.outstanding e < maxOutstanding
  else work.length < collectiveSlots

/-- A command is held by an earlier FENCE of its context in the covered queues (R135). -/
def Work.fenced (w : Work) (e : Nat) (x : Entry) : Bool :=
  let holds := fun (r : Rec) (ord q : Nat) => r.code = 2 && r.ctx = x.cmd.ctx && ord < x.ord && (fenceCovers q).contains e
  w.queues.any (fun q => q.2.any fun y => holds y.cmd y.ord q.1) || w.running.any fun y => holds y.cmd y.ord y.eng

/-- An ADD waits for an earlier KEEP of its context (R117). -/
def Work.keepAhead (w : Work) (x : Entry) : Bool :=
  x.cmd.adds && ((w.queue 0).any (fun y => y.cmd.keeps && y.cmd.ctx = x.cmd.ctx && y.ord < x.ord) ||
    w.running.any fun y => y.cmd.keeps && y.cmd.ctx = x.cmd.ctx && y.ord < x.ord)

/-- Rows of the accumulator that running matrix commands hold until their results are written out (Table 2-5). -/
def Work.rowsHeld (w : Work) : Nat := ((w.runs 0).map fun r => if r.formed || r.cmd.idle then 0 else r.cmd.rows.toNat).sum

/-- A matrix command has its accumulator rows: enough are free, and while a result is kept, only an ADD of its context has them (R33,
R259, Table 2-5). -/
def Work.hasRows (w : Work) (r : Rec) : Bool :=
  w.rowsHeld + r.rows.toNat ≤ maxRows &&
  match w.kept with
  | some k => r.adds && k.ctx = r.ctx.toNat
  | none => true

/-- A command touches a granule that is being zeroed (R41). -/
def State.zeroingHit (s : State) (r : Rec) : Bool := r.scratch.any fun p => s.spZeroing p.1 p.2.1 p.2.2

/-- The context uses the FF-5020 exponential (R199). -/
def Work.compat (w : Work) (c : Nat) : Bool := match w.set? c with | some x => x.ff5020 | none => false

/-- The function-table slot that a command evaluates, if any: VSFN's, or slot 15 for the compatibility exponential (R199). -/
def Work.tableSlot (w : Work) (r : Rec) : Option Nat :=
  match r.code.toNat with
  | 0x22 => some (r.param.toNat % 16)
  | 0x23 => if r.variant = 2 && w.compat r.ctx.toNat then some 15 else none
  | 0x24 => if r.variant = 2 && w.compat r.ctx.toNat then some 15 else none
  | 0x25 => if w.compat r.ctx.toNat then some 15 else none
  | _ => none

/-- A slot whose copy on the tile is being rewritten holds its pieces back (R189). -/
def TileState.tableWaits (x : TileState) (r : Rec) : Bool :=
  match x.work.tableSlot r with
  | some n => x.upkeep.ftDamaged.contains n
  | none => false

/-- A queued command has its tokens. -/
def State.tokensMet (s : State) (t e : Nat) (x : Entry) : Bool :=
  let w := (s.tile t).work
  (x.ready || w.waitMet x.cmd) && ! w.fenced e x && ! w.keepAhead x && ! s.zeroingHit x.cmd && ! (s.tile t).tableWaits x.cmd

/-- A queued command is eligible (R45). -/
def State.eligible (s : State) (t e : Nat) (x : Entry) : Bool :=
  s.tokensMet t e x && (e != 0 || x.cmd.idle || (s.tile t).work.hasRows x.cmd)

/-! ### Selection (R256) -/

def Work.prio (w : Work) (c : Nat) : Nat := match w.set? c with | some x => x.prio.toNat | none => 0

/-- The lowest deadline first, then the higher priority, then the earlier entry (R256, R258). -/
def Work.before (w : Work) (x y : Entry) : Bool :=
  let p := w.prio x.cmd.ctx.toNat
  let q := w.prio y.cmd.ctx.toNat
  x.cmd.deadline.ult y.cmd.deadline || (x.cmd.deadline = y.cmd.deadline && (q < p || (p = q && x.ord < y.ord)))

def Work.best (w : Work) : List Entry → Option Entry
  | [] => none
  | x :: xs => some (xs.foldl (fun b y => if w.before y b then y else b) x)

/-- The context of a floor selection: the first after the last one, wrapping (R256). -/
def floorContext (last : Nat) (cs : List Nat) : Option Nat :=
  let after := cs.filter fun c => last < c
  let least := fun (l : List Nat) => l.foldl (fun b c => match b with | none => some c | some x => some (min x c)) none
  match least after with
  | some c => some c
  | none => least cs

/-- The pick among the eligible commands, and whether it is a floor selection. -/
def Work.pickOf (w : Work) (e F : Nat) (xs : List Entry) : Option (Entry × Bool) :=
  if (FMap.get 0 w.sel e + 1) % F = 0 then
    match floorContext (FMap.get 4095 w.lastFloor e) (xs.map fun x => x.cmd.ctx.toNat) with
    | some c => (xs.find? fun x => x.cmd.ctx.toNat = c).map fun x => (x, true)
    | none => none
  else (w.best xs).map fun x => (x, false)

/-- The image of a table slot that is valid on a tile. -/
def State.table (s : State) (t n : Nat) : Option (List Word) :=
  if (s.tile t).upkeep.ftValid.contains n then FMap.find? s.tables.images n else none

/-- Version of a table image (Table 7-1). -/
def imageVersion (ws : List Word) : Nat := bits (ws.getD 0 0) 40 8

/-- The checks that selection makes (R115, R120, R201). -/
def State.selectStatus (s : State) (t : Nat) (r : Rec) : Status :=
  let w := (s.tile t).work
  if r.adds && ! (match w.kept with
      | some k => k.ctx = r.ctx.toNat && k.rows = r.rows.toNat && k.cols = r.cols.toNat
      | none => false) then 0x201A
  else match w.tableSlot r with
    | none => 0
    | some n =>
      match s.table t n with
      | none => 0x2018
      | some ws => if r.code != 0x22 && imageVersion ws != 2 then 0x2018 else 0

/-- Trace in STALL mode holds selection back while the tile's buffer is full (R515); the cycles lost count as time passes. -/
def State.traceStalls (s : State) (t : Nat) : Bool :=
  let c := s.reg (dbBase + 0x300)
  tst c 0 && tst c 1 && traceDepth ≤ (s.tile t).upkeep.trace.length

/-- Start the selected command. -/
def State.select (s : State) (t e : Nat) (x : Entry) (floor : Bool) : State :=
  let st := s.selectStatus t x.cmd
  let run : Run := ⟨x.cmd, e, x.ord, st != 0, st, [], [], none, (0, 0), false, s.chron, .none, 0, 0⟩
  let s1 := s.onWork t fun w =>
    let w1 := w.setQueue e ((w.queue e).filter fun y => y.ord != x.ord)
    { w1 with
      running := w1.running ++ [run],
      sel := FMap.put 0 w1.sel e (FMap.get 0 w1.sel e + 1),
      lastFloor := if floor then FMap.put 4095 w1.lastFloor e x.cmd.ctx.toNat else w1.lastFloor }
  let s2 := if floor then s1.tcount t 0x7C0 1 else s1
  s2.emit ⟨0x01, some t, some e, some x.cmd.ctx.toNat, some x.cmd.layop, 0, x.cmd.tag.toNat, x.cmd.code.toNat, x.cmd.rows.toNat⟩

def execEngineSelect (t : Tile) (e : EngineNo) (s : State) : Result :=
  .next (
    if ! s.moving || tst (s.treg t 0x008) 0 || ! (s.tile t).engineFree e then s
    else
      let q := (s.tile t).work.queue e
      let xs := q.filter (s.eligible t e)
      match (s.tile t).work.pickOf e (bits (s.treg t 0x728) 0 7) xs with
      | none => s
      | some (x, floor) => if s.traceStalls t then s else s.select t e x floor)

/-! ### Pieces that wait too long (R84) -/

/-- 10 ms in nanoseconds. -/
def tenMs : Nat := 10000000

/-- A deadline lies 10 ms in the past; all ones is no deadline. -/
def State.longPast (s : State) (d : Word) : Bool := d != BitVec.allOnes 64 && d.toNat + tenMs ≤ s.chron.toNat

/-- Pieces for an engine that have not been issued: in its queue, parked, in the inbox, and on the command channel, in this
order. Those outside a queue wait for the first engine of the kind that their record names. -/
def State.unissued (s : State) (t e : Nat) : List Rec :=
  let w := (s.tile t).work
  let mine := fun (r : Rec) => (fenceCovers r.engine.toNat).head? = some e
  (w.queue e).map (·.cmd) ++ ((w.parked.map (·.ent.cmd)).filter mine ++ (w.inbox.filter mine ++
    ((s.mail.channel.filter fun p => p.1 = t).map (·.2)).filter mine))

/-- Remove one piece that has not been issued from wherever it waits: the first that is equal to it. -/
def State.dropUnissued (s : State) (t e : Nat) (r : Rec) : State :=
  let w := (s.tile t).work
  match takeFirst (fun (x : Entry) => x.cmd = r) (w.queue e) with
  | some (_, q) => s.onWork t fun w => w.setQueue e q
  | none =>
    match takeFirst (fun (x : Parked) => x.ent.cmd = r) w.parked with
    | some (_, ps) => s.onWork t fun w => { w with parked := ps }
    | none =>
      if w.inbox.contains r then s.onWork t fun w => { w with inbox := w.inbox.erase r }
      else { s with mail := { s.mail with channel := s.mail.channel.erase (t, r) } }

/-- STALLED_PAST_DEADLINE: piece `i` of those that have not been issued completes. -/
def execStalledPastDeadline (t : Tile) (e : EngineNo) (i : Nat) (s : State) : Result :=
  .next (
    match (s.unissued t e)[i]? with
    | none => s
    | some r =>
      if ! s.moving || ! s.longPast r.deadline then s
      else (s.dropUnissued t e r).tell t e r 0x8002)

/-! ### Runs -/

/-- Run `i` of an engine, in the order of selection. -/
def State.run? (s : State) (t e i : Nat) : Option Run := ((s.tile t).work.runs e)[i]?

/-- Change a run, by its entry order. -/
def State.onRun (s : State) (t ord : Nat) (f : Run → Run) : State :=
  s.onWork t fun w => { w with running := w.running.map fun r => if r.ord = ord then f r else r }

/-- A run ends and leaves its engine. -/
def State.dropRun (s : State) (t ord : Nat) : State :=
  s.onWork t fun w => { w with running := w.running.filter fun r => r.ord != ord }

/-- The run of a matrix or vector engine that has not computed yet, if it has a given code. -/
def State.current (s : State) (t e code : Nat) : Option Run :=
  ((s.tile t).work.runs e).find? fun r => ! r.formed && r.cmd.code.toNat = code

/-- A run has failed: nothing more of it moves. -/
def Run.fail (r : Run) (st : Status) : Run := { r with formed := true, status := st, reqs := [] }

/-- A run fails at the place where the last access failed (R495). -/
def State.failRun (s : State) (t ord : Nat) (st : Status) : State := s.onRun t ord fun r => { r.fail st with spot := s.marks.spot }

/-- A run has computed. -/
def Run.done (r : Run) (st : Status) (m : Measure) (cells : Nat) : Run :=
  { r with formed := true, status := st, measure := m, cells := cells }

/-- The tag bucket of a piece (R517): 8 untagged, 9 unmatched. -/
def State.bucket (s : State) (r : Rec) : Nat :=
  if r.layer = 0xFFFF || r.oper = 0xFFFF then 8
  else ((List.range 8).find? fun f =>
    let v := s.reg (dbBase + 0x400 + 0x10 * f)
    let m := s.reg (dbBase + 0x408 + 0x10 * f)
    tst v 63 && (tst v 62 || bits v 32 12 = r.ctx.toNat) &&
      (r.layer ^^^ v.extractLsb' 16 16) &&& m.extractLsb' 16 16 = 0 && (r.oper ^^^ v.extractLsb' 0 16) &&& m.extractLsb' 0 16 = 0).getD 9

/-- The six amounts of a completed piece (Table 19-9). -/
def Run.amounts (r : Run) (st : Status) : List Nat :=
  [b2n (classOf st ≤ 1), if r.eng = 0 then r.cells else 0, if r.eng = 1 then r.cells else 0,
   if pilots.contains r.eng then r.cells else 0, if stows.contains r.eng then r.cells else 0,
   b2n (r.eng = 8 && ! r.cmd.idle)]

/-- A tile adds a completed piece to its bucket sums (R517): key `6 * bucket + i`. -/
def State.tagWork (s : State) (t : Nat) (r : Run) (st : Status) : State :=
  let b := s.bucket r.cmd
  s.onUpkeep t fun u => { u with tagSums := ((r.amounts st).zipIdx).foldl (fun m p =>
    FMap.put 0 m (6 * b + p.2) (FMap.get 0 m (6 * b + p.2) + BitVec.ofNat 32 p.1)) u.tagSums }

/-- A run ends with a status: it leaves the engine, its work is attributed, and its home is told unless a flush came. -/
def State.endRun (s : State) (t : Nat) (r : Run) (st : Status) : State :=
  let s1 := (s.dropRun t r.ord).tagWork t r st
  if r.suppressed then s1 else s1.tell t r.eng r.cmd st r.spot

/-- TOKEN (R134): it completes at its selection and applies its signal. -/
def execToken (t : Tile) (e : EngineNo) (i : Nat) (s : State) : Result :=
  .next (match s.run? t e i with
    | some r => if s.moving && r.cmd.code = 1 then
        (if r.suppressed then s.dropRun t r.ord else (s.endRun t r 0).sendSignal t r.cmd)
      else s
    | none => s)

/-- FENCE (R135): it begins to hold its engine's later commands of the context. -/
def execFence (t : Tile) (e : EngineNo) (i : Nat) (s : State) : Result :=
  .next (match s.run? t e i with
    | some r => if s.moving && r.cmd.code = 2 then s.onRun t r.ord fun r => { r with formed := true } else s
    | none => s)

/-- Earlier commands of a fence's context are complete in the queues it covers. -/
def Work.fenceMet (w : Work) (r : Run) : Bool :=
  let es := fenceCovers r.eng
  es.all (fun e => (w.queue e).all fun y => y.cmd.ctx != r.cmd.ctx || r.ord < y.ord) &&
  w.running.all fun y => ! es.contains y.eng || y.cmd.ctx != r.cmd.ctx || r.ord ≤ y.ord

def execFenceCmdDone (t : Tile) (e : EngineNo) (i : Nat) (s : State) : Result :=
  .next (match s.run? t e i with
    | some r => if s.moving && r.cmd.code = 2 && r.formed && (s.tile t).work.fenceMet r then
        (if r.suppressed then s.dropRun t r.ord else (s.endRun t r 0).sendSignal t r.cmd)
      else s
    | none => s)

end Sys2Proof.Machine
end

