-- ==== Sys2Proof/Machine/Engine.lean ====
section
/-! DEFINITION. What the matrix and vector engines share: the operands of a piece, its outcome, its write-out. -/

namespace Sys2Proof.Machine

open Sys2Proof

/-- Go on with the value of a step that may fail; a failure keeps the state that found it. -/
def thenDo {α β : Type} (x : State × Except Status α) (f : State → α → State × Except Status β) : State × Except Status β :=
  match x with
  | (s, .ok a) => f s a
  | (s, .error st) => (s, .error st)

/-- What a piece's arithmetic gives: status, measure, busy cycles. -/
structure Done where
  status : Status
  measure : Measure
  cells : Nat

/-- Parts without another node's memory: only pilot, stow and collective engines reach other nodes. -/
def allHere (ps : List (List Part)) : Bool :=
  ps.all fun l => l.all fun p => match p.place with | .node .. => false | _ => true

/-- The parts of one operand of a record. -/
def State.recParts (s : State) (c : Nat) (o : Operand) (g : Option Geo) (k : Touch) : State × Except Status (List (List Part)) :=
  match g with
  | none => (s, .ok [])
  | some g =>
    thenDo (s.partsIf c o g k) fun s1 ps => if allHere ps then (s1, .ok ps) else (s1, .error 0x2005)

/-- Parts of A, B and D of a record, translated before anything moves (R113); VSMAX writes its B. -/
def State.allParts (s : State) (r : Rec) : State × Except Status (List (List Part) × List (List Part) × List (List Part)) :=
  let c := r.ctx.toNat
  thenDo (s.recParts c r.a r.geoA .read) fun s1 pa =>
    thenDo (s1.recParts c r.bPlace r.geoB (if r.code = 0x25 then .write else .read)) fun s2 pb =>
      thenDo (s2.recParts c r.d r.geoD .write) fun s3 pd => (s3, .ok (pa, pb, pd))

/-- Discard the kept result that a flushed step left (R115). -/
def State.dropKept (s : State) (t c : Nat) (tag : BitVec 2) : State :=
  s.onWork t fun w =>
    { w with kept := match w.kept with
        | some k => if k.ctx = c && k.tag = tag then none else some k
        | none => none,
             accSave := w.accSave.filter fun p => ! (p.2.ctx = c && p.2.tag = tag) }

/-- Rows of a geometry by a function of row and column. -/
def tabulate {α : Type} (rows cols : Nat) (f : Nat → Nat → α) : List (List α) :=
  (List.range rows).map fun r => (List.range cols).map fun c => f r c

/-- Element of rows, with a default. -/
def at2 {α : Type} (d : α) (xs : List (List α)) (r c : Nat) : α := (xs.getD r []).getD c d

/-- Write result rows out in format D (R147 to R153); `quiet` non-finite values were written by a rule to mark an empty
entry, and are not counted (R163). -/
def State.writeOut (s : State) (r : Rec) (g : Geo) (pd : List (List Part)) (mode : Rnd) (xs : List (List Num)) (quiet : Nat) :
    State × Except Status Measure :=
  let out := convertRows g.fmt mode xs
  let ev : Events := ⟨out.2.sat, out.2.zero, out.2.nonfin - quiet⟩
  thenDo (s.writeLines r.ctx.toNat pd (g.image out.1)) fun s1 _ => (s1, .ok (measureRows ev xs))

/-- Write FP32 result words out: an FP32 destination keeps every bit (Table 5-6), any other format converts. -/
def State.write32 (s : State) (r : Rec) (g : Geo) (pd : List (List Part)) (xs : List (List (BitVec 32))) (quiet : Nat) :
    State × Except Status Measure :=
  let vs := xs.map fun l => l.map f32
  if g.fmt = 0 then
    let n := vs.foldl (fun k l => k + l.countP fun x => ! x.isFin) 0
    thenDo (s.writeLines r.ctx.toNat pd (g.image (xs.map fun l => (l.map BitVec.toNat, [])))) fun s1 _ =>
      (s1, .ok (measureRows ⟨0, 0, n - quiet⟩ vs))
  else s.writeOut r g pd .rne vs quiet

/-- The fault that the checks on a matrix piece's arithmetic find: the injected ones come first, each armed for this piece (R500). -/
def State.takeMatrixFault (s : State) (t : Nat) (u : Upset) : State × Upset :=
  let k := (s.tile t).upkeep
  if k.injChecksum || k.injResidue then
    let s1 := if k.injChecksum && k.injResidue then s.orReg (tileBase t + 0x018) 256 else s
    (s1.onUpkeep t fun k => { k with injChecksum := false, injResidue := false }, if k.injChecksum then .checksum else .residue)
  else (s, u)

def State.takeVectorFault (s : State) (t : Nat) (u : Upset) : State × Upset :=
  if (s.tile t).upkeep.injVector then (s.onUpkeep t fun k => { k with injVector := false }, .residue) else (s, u)

end Sys2Proof.Machine
end

