-- ==== Sys2Proof/Machine/Request.lean ====
section
/-! DEFINITION. A request of a pilot or stow engine at its memory: the tier that serves it and where the tile's traffic enters
(R18, R286, R287), the order of one tile's writes (R85, R86), rows written as one unit (R242), translation anew (R290); and the
computing of a matrix or vector piece, whose operands lie behind the same order and the same links. -/

namespace Sys2Proof.Machine

open Sys2Proof

/-! ### Tiers and entry tiles -/

/-- The tier of a request is that of its first part. -/
def Req.tier? (q : Req) : Option Nat := q.parts.findSome? Part.tier?

/-- How long a request has been out. -/
def State.ageOf (s : State) (q : Req) : Nat := match q.issued with | some t => (s.chron - t).toNat | none => 0

/-- First and last row of the band of a Near stack, by its number on its side (Table 1-2). -/
def stackBand (n : Nat) : Nat × Nat := [(0, 4), (5, 9), (10, 15), (16, 21), (22, 26), (27, 31)].getD (n % 6) (0, 31)

/-- The tile through which a tile's traffic enters a stack: in the stack's edge column, in the tile's own row when that lies in
the stack's band, else in the band's nearest row (R18). -/
def nearEntry (stack t : Nat) : Nat :=
  let b := stackBand stack
  20 * max b.1 (min b.2 (t / 20)) + (if stack < 6 then 0 else 19)

/-- The attachment tile of a Mid controller: group and device (R286). -/
def midEntry (group device : Nat) : Nat :=
  let die := (if group < 3 then 1 + 2 * group else 71 + 2 * (group - 3)) + device / 2
  20 * (if group < 3 then 1 else 30) + 2 * (die % 10) + device % 2

/-- The tile of the grid through which a tile reaches a place of the package: the far window's is the nearest of the five tiles
of port F (Table 1-3; DESIGN CHOICE, log 91), host memory's is tile 48 (R50). -/
def Place.entry? (x : Place) (t : Nat) : Option Nat :=
  match x with
  | .sp u _ => some u
  | .pa a => (match tierOf a with
      | .near => some (nearEntry (unitOf a) t)
      | .mid => some (midEntry (unitOf a) (a / 4096 % 4))
      | _ => none)
  | .far _ _ => some (620 + max 15 (t % 20))
  | .host _ _ => some 48
  | .node _ _ => none

/-- Every link between a tile and the entry tiles of a request's parts is open, on the way there and back (R50, R492). -/
def State.partsReached (s : State) (t : Nat) (ps : List Part) : Bool :=
  ps.all fun p => match p.place.entry? t with
    | some u => s.pathClear t u && s.pathClear u t
    | none => true

/-! ### Requests of runs -/

/-- A request goes to another node. -/
def Req.node? (q : Req) : Option (Nat × Nat) :=
  match q.parts with
  | [p] => (match p.place with | .node n off => some (n, off) | _ => none)
  | _ => none

/-- A request uses far memory. -/
def Req.far (q : Req) : Bool := q.parts.any Part.isFar

/-- Outstanding requests of an engine, in order, with their runs. -/
def Work.issuedReqs (w : Work) (e : Nat) : List (Run × Req) :=
  (w.runs e).flatMap fun r => (r.reqs.filter fun q => q.issued.isSome).map fun q => (r, q)

/-- A failed request: the first failure is the piece's status, and its requests not yet issued are not issued. -/
def Run.spoil (r : Run) (st : Status) : Run :=
  { r with status := if r.status = 0 then st else r.status, reqs := r.reqs.filter fun q => q.issued.isSome }

/-- A request of a run has failed, at the place where the last access failed; the first failure's place is kept (R495). -/
def State.spoilRun (s : State) (t ord : Nat) (st : Status) : State :=
  s.onRun t ord fun r => { r.spoil st with spot := if r.status = 0 then s.marks.spot else r.spot }

/-- The outcome of a request, as the run keeps it until the request ends. -/
def outcomeOf : Except Status (List Byte) → Status ⊕ List Byte
  | .ok bs => .inr bs
  | .error st => .inl st

/-- Keep the outcome of those requests of a run that satisfy a test. -/
def State.answerReqs (s : State) (t ord : Nat) (test : Req → Bool) (res : Except Status (List Byte)) : State :=
  s.onRun t ord fun r => { r with reqs := r.reqs.map fun x => if test x then { x with answer := some (outcomeOf res) } else x }

/-- Device pages are translated again (R290). -/
def State.freshParts (s : State) (c : Nat) (k : Touch) : List Part → State × Except Status (List Part)
  | [] => (s, .ok [])
  | p :: ps =>
    let x := match p.leaf with
      | some _ => s.deviceParts c (s.rootOf c) k [(p.page * 2 ^ 21 + p.poff, p.len)]
      | none => (s, .ok [p])
    thenDo x fun s1 a => thenDo (s1.freshParts c k ps) fun s2 b => (s2, .ok (a ++ b))

/-! ### Performing -/

/-- The value that a 32-bit atomic writes (R129): variant, old value, operand, new value of CAS. -/
def atomValue (var : Nat) (old a b : BitVec 32) : BitVec 32 :=
  match var with
  | 0 => old + a
  | 1 => vAdd old a
  | 2 => if a.slt old then a else old
  | 3 => if old.slt a then a else old
  | 4 => a
  | _ => if old = a then b else old

/-- An atomic of `n` bytes at its place, as one indivisible operation that gives the old bytes; a Helm core's dirty bytes are
written back first (R30, R86), and a block found uncorrectable refuses it (Table 11-5). -/
def State.atomicAt {w : Nat} (s : State) (c : Nat) (ps : List Part) (n : Nat) (f : BitVec w → BitVec w) : State × Except Status (List Byte) :=
  match ps.findSome? (s.refuseWrite c) with
  | some x => (x.1, .error x.2)
  | none =>
    let s0 := ps.foldl (fun acc p => match p.place with | .pa a => acc.writeBack (a / 64) | _ => acc) s
    thenDo ((s0.touch c .atomic ps).fetchParts c true ps) fun s1 bs =>
      thenDo (s1.storeParts c ps (bytesOf n (f (BitVec.ofNat w (ofBytes bs))).toNat)) fun s2 _ => (s2, .ok bs)

/-- Perform a request of this package at its place. -/
def State.performReq (s : State) (r : Run) (q : Req) : State × Except Status (List Byte) :=
  let c := r.cmd.ctx.toNat
  match q.kind with
  | .read => s.readParts c false q.parts
  | .write => thenDo (s.writeParts c .write q.parts q.data) fun s1 _ => (s1, .ok [])
  | .atomic =>
    s.atomicAt c q.parts 4 fun old =>
      atomValue r.cmd.variant.toNat old (BitVec.ofNat 32 (ofBytes (q.data.take 4))) (BitVec.ofNat 32 (ofBytes (q.data.drop 4)))

/-- The rows of at most this many bytes that SSTOW and SSCAT write are written as one unit (R242). -/
def unitBytes : Nat := 131072

/-- The request belongs to such a row. -/
def Run.rowUnit (r : Run) (q : Req) : Bool :=
  q.kind = .write && (r.cmd.code = 0x38 || r.cmd.code = 0x39) &&
  match r.cmd.geoD with | some g => rowBytes g.fmt g.cols ≤ unitBytes | none => false

/-- Requests of the same row, or of the same row of tiles, that have not been performed. -/
def Run.rowReqs (r : Run) (q : Req) : List Req :=
  r.reqs.filter fun x => x.unit = q.unit && x.kind = .write && x.answer.isNone && x.node?.isNone

/-- The parts of requests with their data; those not yet issued are translated anew. -/
def State.rowParts (s : State) (c : Nat) : List Req → State × Except Status (List Part)
  | [] => (s, .ok [])
  | q :: qs =>
    thenDo (if q.issued.isSome then (s, .ok q.parts) else s.freshParts c .write q.parts) fun s1 a =>
      thenDo (s1.rowParts c qs) fun s2 b => (s2, .ok (a ++ b))

/-- An outstanding request of a tile is performed and keeps its outcome; the first request of a row that is performed writes the
whole row (R242). -/
def State.perform (s : State) (t : Nat) (r : Run) (q : Req) : State :=
  let c := r.cmd.ctx.toNat
  let self := fun (x : Req) => x.issued.isSome && x.seq = q.seq
  if r.rowUnit q then
    let qs := r.rowReqs q
    match thenDo (s.rowParts c qs) fun s1 ps => s1.writeParts c .write ps (qs.flatMap (·.data)) with
    | (s1, .ok ()) => s1.answerReqs t r.ord (fun x => qs.contains x) (.ok [])
    | (s1, .error st) => s1.answerReqs t r.ord self (.error st)
  else
    let x := s.performReq r q
    x.1.answerReqs t r.ord self x.2

/-- A write or atomic to this package that waits to be performed. -/
def Req.waiting (q : Req) : Bool := q.issued.isSome && q.kind != .read && q.answer.isNone && q.node?.isNone

/-- Of the writes and atomics of a tile that wait to be performed, the one issued first. -/
def State.nextWrite (s : State) (t : Nat) : Option (Run × Req) :=
  ((stows.flatMap ((s.tile t).work.issuedReqs)).filter fun p => p.2.waiting && ! p.2.lost).foldl (fun b p =>
    match b with
    | some x => if p.2.seq < x.2.seq then some p else b
    | none => some p) none

/-- Perform the waiting writes and atomics of a tile that were issued before sequence `past`, in the order of their issue. -/
def State.performBefore : Nat → State → Nat → Nat → State
  | 0, s, _, _ => s
  | n + 1, s, t, past =>
    match s.nextWrite t with
    | some (r, q) => if q.seq < past then State.performBefore n (s.perform t r q) t past else s
    | none => s

/-- What the tile's router has accepted so far is performed: a later store of the tile must be seen after it (R85), and a later
load of the tile returns it or a later value (R86). -/
def State.drain (s : State) (t : Nat) : State := State.performBefore 64 s t (s.tile t).work.nextSeq

/-! ### Operands of a piece and the tile's links -/

/-- The parts of an operand that the engine itself reads or writes; none when it cannot be resolved. -/
def State.ownParts (s : State) (c : Nat) (o : Operand) (g : Option Geo) (k : Touch) : List Part :=
  match (s.recParts c o g k).2 with
  | .ok ps => ps.flatten
  | .error _ => []

/-- The parts that the engine itself writes for a record: D, and the B of VSMAX. -/
def State.written (s : State) (r : Rec) : List Part :=
  s.ownParts r.ctx.toNat r.d r.geoD .write ++ (if r.code = 0x25 then s.ownParts r.ctx.toNat r.bPlace r.geoB .write else [])

/-- The tile's engine reaches what it reads and writes itself for a record, over the links there and back: flits routed to a link that
is down wait at its sender (R492). -/
def State.operandsReached (s : State) (t : Nat) (r : Rec) : Bool :=
  let c := r.ctx.toNat
  s.partsReached t (s.ownParts c r.a r.geoA .read) && s.partsReached t (s.ownParts c r.bPlace r.geoB .read) &&
    s.partsReached t (s.ownParts c r.d r.geoD .write)

/-- A piece has written to parts of which the last in host memory is not confirmed (R542). -/
def Run.post (r : Run) (ps : List Part) : Run := { r with posted := (ps.filter Part.isHost).getLast?.or r.posted }

/-- The zero-length read that confirms a posted write (R542). -/
def zeroRead (p : Part) : Req := ⟨0, 0, .read, [{ p with len := 0 }], [], [], none, false, none, false⟩

/-- After the last request of a piece whose host writes are not confirmed comes the zero-length read (R542). -/
def Run.confirm (r : Run) : Run :=
  match r.posted with
  | some p => if r.reqs.isEmpty && classOf r.status ≤ 1 then { r with reqs := [zeroRead p], posted := none } else r
  | none => r

/-- The matrix or vector engine computes its current piece of a command code, after the writes that its tile's router has accepted
(R85, R86). -/
def State.compute (s : State) (t e code : Nat) (k : State → Rec → State × Except Status Done) : State :=
  if ! s.moving then s
  else match s.current t e code with
    | none => s
    | some r =>
      if ! s.operandsReached t r.cmd then s
      else
        let out := s.written r.cmd
        let x := match k (s.drain t) r.cmd with
          | (s1, .ok d) => s1.onRun t r.ord fun r => ((r.done d.status d.measure d.cells).post out).confirm
          | (s1, .error st) => s1.failRun t r.ord st
        if r.suppressed then x.dropKept t r.cmd.ctx.toNat r.cmd.tag else x

end Sys2Proof.Machine
end

