-- ==== Sys2Proof/Machine/LoadStore.lean ====
section
/-! DEFINITION. Scalar memory instructions (R99 to R101), atomics (R100), token instructions (R82, R102), fences (R87,
R549), home-slot switches (R29) and the end of code (R61). Before a memory instruction of a tile, what the tile's router has
accepted is performed (R85, R86: `State.drain`). An access whose way is interrupted waits (R492). -/

namespace Sys2Proof.Machine

open Sys2Proof

/-! ### Addresses -/

/-- The operand that a scalar address names (R99); an illegal kind comes before a misalignment. -/
def scalarAddr (a : Word) (size : Nat) : Except Status Operand :=
  let k := bits a 62 2
  if k = 0 && bits a 48 14 = 0 then
    if a.toNat % size = 0 then .ok ⟨1, a.setWidth 56⟩ else .error misaligned
  else if k = 2 && bits a 56 6 = 0 then
    if a.toNat % size = 0 then .ok ⟨2, a.setWidth 56⟩ else .error misaligned
  else .error unmapped

/-- The code of a tile's core turns to memory: its tile's earlier writes first (R85, R86). -/
def State.turn (s : State) (t : Nat) : State := if (s.core t).isSome then s.drain t else s

/-- What a scalar access reports for a fault of a memory tier (Table 11-5). -/
def scalarStatus (st : Status) : Status :=
  if [0x5020, 0x5060, 0x5061, 0x5062, 0x6040, 0x6041].contains st.toNat then 0x5002 else st

/-! ### Remote requests (R342, R343) -/

/-- Form a request of a tile; it leaves when the sender's check lets it. -/
def State.newRemote (s : State) (t : Nat) (kind op : BitVec 4) (node off len : Nat) (w3 w4 : Word) (data : List Byte)
    (ctx : Nat) (owner : Owner) : State :=
  s.onTile t fun x => { x with fab := { x.fab with
    nextId := x.fab.nextId + 1,
    remotes := x.fab.remotes ++ [⟨x.fab.nextId, kind, op, node, off, len, w3, w4, data, ctx, owner, none⟩] } }

/-- The ID that the next request takes. -/
def State.nextId (s : State) (t : Nat) : BitVec 32 := (s.tile t).fab.nextId

/-- Stall a slot on its remote request; the program counter moves past the instruction. -/
def State.stallOn (s : State) (t n len : Nat) (id : BitVec 32) : State :=
  s.onTile t fun x => x.onSlot n fun z => { z with pc := z.pc + BitVec.ofNat 48 len, stall := .remote id }

/-- An error of the core's datapath raises an exception, of a status of class `0x5` that the spec does not name: a free choice among them
(Table 18-7; log 126). -/
def State.datapathFault (s : State) (t n : Nat) : State :=
  let d := s.draw
  d.2.except t n (5#4 ++ d.1.extractLsb' 0 12)

/-! ### Loads -/

/-- Put loaded bytes into their register (Table 4-2). -/
def LoadForm.put (f : LoadForm) (rd : Nat) (bs : List Byte) (z : Slot) : Slot :=
  let v := ofBytes bs
  if f.size = 32 then (List.range 4).foldl (fun acc i => acc.wt rd i ((wordsOf 4 bs).getD i 0)) z
  else if f.float then
    z.wf rd (if f.size = 4 then codeF (Enc.fp32.decode v) else BitVec.ofNat 64 v)
  else if f.signed then z.wg rd ((BitVec.ofNat (8 * f.size) v).signExtend 64)
  else z.wg rd (BitVec.ofNat 64 v)

/-- A load of `len` instruction bytes that meets a hazard. -/
def State.load (s : State) (t len rd : Nat) (f : LoadForm) (h : Hazard) (addr : Slot → Word) : State :=
  match s.core t with
  | none => s
  | some n =>
    let z := (s.tile t).slot n
    let c := z.ctx.toNat
    if h = .datapath then s.datapathFault t n
    else match scalarAddr (addr z) f.size with
    | .error st => s.except t n st
    | .ok o =>
      match s.operandParts c o 0 f.size .read with
      | (s1, .error st) => s1.except t n (scalarStatus st)
      | (s1, .ok []) => s1
      | (s1, .ok (p :: _)) =>
        match p.place with
        | .node nd off =>
          (s1.newRemote t 1 0 nd off f.size 0 0 [] c (.load n f rd z.pc)).stallOn t n len (s1.nextId t)
        | _ =>
          if ! s1.partsReached t [p] then s
          else match s1.meet t c true h .read [p] with
          | (s2, some st) => s2.except t n (scalarStatus st)
          | (s2, none) =>
            match s2.readPart c true p with
            | (s3, .error st) => s3.except t n (scalarStatus st)
            | (s3, .ok bs) => s3.retire t n len (f.put rd bs)

/-- Base register plus sign-extended immediate. -/
def based {w : Nat} (ra : Nat) (imm : BitVec w) (z : Slot) : Word := z.rg ra + imm.signExtend 64

def execLb (t : Tile) (rd ra : RegNo) (imm : BitVec 15) (s : State) (h : Hazard := .none) : Result :=
  .next ((s.turn t).load t 4 rd ⟨1, true, false⟩ h (based ra imm))
def execLbu (t : Tile) (rd ra : RegNo) (imm : BitVec 15) (s : State) (h : Hazard := .none) : Result :=
  .next ((s.turn t).load t 4 rd ⟨1, false, false⟩ h (based ra imm))
def execLh (t : Tile) (rd ra : RegNo) (imm : BitVec 15) (s : State) (h : Hazard := .none) : Result :=
  .next ((s.turn t).load t 4 rd ⟨2, true, false⟩ h (based ra imm))
def execLhu (t : Tile) (rd ra : RegNo) (imm : BitVec 15) (s : State) (h : Hazard := .none) : Result :=
  .next ((s.turn t).load t 4 rd ⟨2, false, false⟩ h (based ra imm))
def execLw (t : Tile) (rd ra : RegNo) (imm : BitVec 15) (s : State) (h : Hazard := .none) : Result :=
  .next ((s.turn t).load t 4 rd ⟨4, true, false⟩ h (based ra imm))
def execLwu (t : Tile) (rd ra : RegNo) (imm : BitVec 15) (s : State) (h : Hazard := .none) : Result :=
  .next ((s.turn t).load t 4 rd ⟨4, false, false⟩ h (based ra imm))
def execLd (t : Tile) (rd ra : RegNo) (imm : BitVec 15) (s : State) (h : Hazard := .none) : Result :=
  .next ((s.turn t).load t 4 rd ⟨8, false, false⟩ h (based ra imm))
def execFld (t : Tile) (rd ra : RegNo) (imm : BitVec 15) (s : State) (h : Hazard := .none) : Result :=
  .next ((s.turn t).load t 4 rd ⟨8, false, true⟩ h (based ra imm))
def execFlw (t : Tile) (rd ra : RegNo) (imm : BitVec 15) (s : State) (h : Hazard := .none) : Result :=
  .next ((s.turn t).load t 4 rd ⟨4, false, true⟩ h (based ra imm))
def execLdl (t : Tile) (rd ra : RegNo) (disp : BitVec 32) (s : State) (h : Hazard := .none) : Result :=
  .next ((s.turn t).load t 8 rd ⟨8, false, false⟩ h (based ra disp))

/-- An instruction whose register field does not name `t0` to `t15` is illegal (R96). -/
def State.illegalAt (s : State) (t : Nat) : State :=
  match s.core t with
  | some n => s.except t n illegalInstruction
  | none => s

def execTld (t : Tile) (td ra : RegNo) (imm : BitVec 15) (s : State) (h : Hazard := .none) : Result :=
  .next (if 16 ≤ td.val then s.illegalAt t else (s.turn t).load t 4 td ⟨32, false, false⟩ h (based ra imm))

/-! ### Stores -/

/-- A store to the Near tier: the line is filled into the cache and made dirty (R549). -/
def State.storeNear (s : State) (t n c : Nat) (k : Touch) (p : Part) (a : Nat) (bs : List Byte) : State × Except Status Unit :=
  match s.flaw (a / 64 * 64) 64 with
  | some (f, b) => ((if f = .bad then s.noteFlaw b 0x5020 else s).blamePa b, .error 0x5020)
  | none =>
    let s1 := (s.cacheStore p a bs).onTile t fun x => x.onSlot n fun z =>
      { z with dirty := if z.dirty.contains (a / 64) then z.dirty else z.dirty ++ [a / 64] }
    (s1.touch c k [p], .ok ())

/-- A Helm-core write of bytes at a part. A store to the Near tier waits in the cache; any other takes effect in its own step, so
that an engine command that no fence orders behind it reads the new value, of the two that R88 allows (DESIGN CHOICE, log 6). A
store to host memory is posted (R542). -/
def State.helmWrite (s : State) (t n c : Nat) (k : Touch) (p : Part) (bs : List Byte) : State × Except Status Unit :=
  match p.place with
  | .pa a => if tierOf a = .near then s.storeNear t n c k p a bs else s.writePart c k p bs
  | .host _ _ => (s.onTile t fun x => x.onSlot n fun z => { z with posted := true }).writePart c k p bs
  | _ => s.writePart c k p bs

/-- A write that ended with TIER_TIMEOUT may or may not have been applied: a free choice (R302, log 3). -/
def State.mayApply (s : State) (st : Status) (k : State → State) : State :=
  if st != 0x6040 then s
  else
    let d := s.draw
    if d.1.getLsbD 0 then k d.2 else d.2

/-- A store of `len` instruction bytes. A store to another node goes to the fabric and does not stall the core. -/
def State.store (s : State) (t len size : Nat) (h : Hazard) (addr : Slot → Word) (val : Slot → List Byte) : State :=
  match s.core t with
  | none => s
  | some n =>
    let z := (s.tile t).slot n
    let c := z.ctx.toNat
    if h = .datapath then s.datapathFault t n
    else match scalarAddr (addr z) size with
    | .error st => s.except t n st
    | .ok o =>
      match s.operandParts c o 0 size .write with
      | (s1, .error st) => s1.except t n (scalarStatus st)
      | (s1, .ok []) => s1
      | (s1, .ok (p :: _)) =>
        match p.place with
        | .node nd off => (s1.newRemote t 2 0 nd off size 0 0 (val z) c (.store n z.pc z.stepno)).retire t n len id
        | _ =>
          if ! s1.partsReached t [p] then s
          else match s1.meet t c true h .write [p] with
          | (s2, some st) => (s2.mayApply st fun s => (s.helmWrite t n c .write p (val z)).1).except t n (scalarStatus st)
          | (s2, none) =>
            match s2.helmWrite t n c .write p (val z) with
            | (s3, .error st) => s3.except t n (scalarStatus st)
            | (s3, .ok ()) => s3.retire t n len id

/-- The low bytes of a `g` register. -/
def lowBytes (n rs : Nat) (z : Slot) : List Byte := bytesOf n (z.rg rs).toNat

def execSb (t : Tile) (rs ra : RegNo) (imm : BitVec 15) (s : State) (h : Hazard := .none) : Result :=
  .next ((s.turn t).store t 4 1 h (based ra imm) (lowBytes 1 rs))
def execSh (t : Tile) (rs ra : RegNo) (imm : BitVec 15) (s : State) (h : Hazard := .none) : Result :=
  .next ((s.turn t).store t 4 2 h (based ra imm) (lowBytes 2 rs))
def execSw (t : Tile) (rs ra : RegNo) (imm : BitVec 15) (s : State) (h : Hazard := .none) : Result :=
  .next ((s.turn t).store t 4 4 h (based ra imm) (lowBytes 4 rs))
def execSd (t : Tile) (rs ra : RegNo) (imm : BitVec 15) (s : State) (h : Hazard := .none) : Result :=
  .next ((s.turn t).store t 4 8 h (based ra imm) (lowBytes 8 rs))
def execSdl (t : Tile) (rs ra : RegNo) (disp : BitVec 32) (s : State) (h : Hazard := .none) : Result :=
  .next ((s.turn t).store t 8 8 h (based ra disp) (lowBytes 8 rs))
def execFsd (t : Tile) (rs ra : RegNo) (imm : BitVec 15) (s : State) (h : Hazard := .none) : Result :=
  .next ((s.turn t).store t 4 8 h (based ra imm) fun z => bytesOf 8 (z.rf rs).toNat)

/-- FSW: rounded to binary32, to nearest even (R69, R70). -/
def execFsw (t : Tile) (rs ra : RegNo) (imm : BitVec 15) (s : State) (h : Hazard := .none) : Result :=
  .next ((s.turn t).store t 4 4 h (based ra imm) fun z => bytesOf 4 (Enc.fp32.encode (readF 1 (z.rf rs))))

def execTst (t : Tile) (ts ra : RegNo) (imm : BitVec 15) (s : State) (h : Hazard := .none) : Result :=
  .next (if 16 ≤ ts.val then s.illegalAt t
    else (s.turn t).store t 4 32 h (based ra imm) fun z => (z.desc ts).flatMap fun w => bytesOf 8 w.toNat)

/-! ### Atomics (R100) -/

/-- The value that a 64-bit atomic writes: `fn` of Table 4-3, the old value, the operand, the compare value. -/
def amoValue (fn : Nat) (old b cmp : Word) : Word :=
  match fn with
  | 0 => old + b
  | 1 => b
  | 2 => old &&& b
  | 3 => old ||| b
  | 4 => old ^^^ b
  | 5 => if old.slt b then old else b
  | 6 => if old.slt b then b else old
  | 7 => if old.ult b then old else b
  | 8 => if old.ult b then b else old
  | _ => if old = cmp then b else old

/-- A 64-bit atomic at its part: the old value is read and the new one written (R86, R100). -/
def State.amoAt (s : State) (t n c fn : Nat) (p : Part) (b cmp : Word) : State × Except Status Word :=
  match s.fetchPart c true p with
  | (s1, .error st) => (s1, .error st)
  | (s1, .ok bs) =>
    let old : Word := BitVec.ofNat 64 (ofBytes bs)
    match s1.helmWrite t n c .atomic p (bytesOf 8 (amoValue fn old b cmp).toNat) with
    | (s2, .error st) => (s2, .error st)
    | (s2, .ok ()) => (s2, .ok old)

/-- A 64-bit atomic (R100); an operand of another node sends it there. -/
def State.amo (s : State) (t fn rd ra rb : Nat) (h : Hazard) : State :=
  match s.core t with
  | none => s
  | some n =>
    let z := (s.tile t).slot n
    let c := z.ctx.toNat
    if h = .datapath then s.datapathFault t n
    else match scalarAddr (z.rg ra) 8 with
    | .error st => s.except t n st
    | .ok o =>
      match s.operandParts c o 0 8 .atomic with
      | (s1, .error st) => s1.except t n (scalarStatus st)
      | (s1, .ok []) => s1
      | (s1, .ok (p :: _)) =>
        match p.place with
        | .node nd off =>
          let w := if fn = 9 then (z.rg rd, z.rg rb) else (z.rg rb, 0)
          (s1.newRemote t 4 (BitVec.ofNat 4 fn) nd off 8 w.1 w.2 [] c (.amo n rd z.pc)).stallOn t n 4 (s1.nextId t)
        | _ =>
          if ! s1.partsReached t [p] then s
          else match s1.meet t c true h .atomic [p] with
          | (s2, some st) => (s2.mayApply st fun s => (s.amoAt t n c fn p (z.rg rb) (z.rg rd)).1).except t n (scalarStatus st)
          | (s2, none) =>
            match s2.amoAt t n c fn p (z.rg rb) (z.rg rd) with
            | (s3, .error st) => s3.except t n (scalarStatus st)
            | (s3, .ok old) => s3.retire t n 4 fun z => z.wg rd old

def execAmoAdd (t : Tile) (rd ra rb : RegNo) (s : State) (h : Hazard := .none) : Result := .next ((s.turn t).amo t 0 rd ra rb h)
def execAmoSwap (t : Tile) (rd ra rb : RegNo) (s : State) (h : Hazard := .none) : Result := .next ((s.turn t).amo t 1 rd ra rb h)
def execAmoAnd (t : Tile) (rd ra rb : RegNo) (s : State) (h : Hazard := .none) : Result := .next ((s.turn t).amo t 2 rd ra rb h)
def execAmoOr (t : Tile) (rd ra rb : RegNo) (s : State) (h : Hazard := .none) : Result := .next ((s.turn t).amo t 3 rd ra rb h)
def execAmoXor (t : Tile) (rd ra rb : RegNo) (s : State) (h : Hazard := .none) : Result := .next ((s.turn t).amo t 4 rd ra rb h)
def execAmoMin (t : Tile) (rd ra rb : RegNo) (s : State) (h : Hazard := .none) : Result := .next ((s.turn t).amo t 5 rd ra rb h)
def execAmoMax (t : Tile) (rd ra rb : RegNo) (s : State) (h : Hazard := .none) : Result := .next ((s.turn t).amo t 6 rd ra rb h)
def execAmoMinu (t : Tile) (rd ra rb : RegNo) (s : State) (h : Hazard := .none) : Result := .next ((s.turn t).amo t 7 rd ra rb h)
def execAmoMaxu (t : Tile) (rd ra rb : RegNo) (s : State) (h : Hazard := .none) : Result := .next ((s.turn t).amo t 8 rd ra rb h)
def execAmoCas (t : Tile) (rd ra rb : RegNo) (s : State) (h : Hazard := .none) : Result := .next ((s.turn t).amo t 9 rd ra rb h)

/-! ### Tokens (R82, R102) -/

def tokenDistance : Status := 0x2015
def tileSetInvalid : Status := 0x2004
def counterSetsFull : Status := 0x4010

def execTwait (t : Tile) (k : BitVec 8) (rs : RegNo) (s : State) : Result :=
  .next (match s.core t with
    | none => s
    | some n =>
      let z := (s.tile t).slot n
      let c := z.ctx.toNat
      if ! s.setRoom t c then s.except t n counterSetsFull
      else
        let s1 := s.allocSet t c
        let target : BitVec 32 := (z.rg rs).setWidth 32
        let v := s1.counter t c k.toNat
        if tooFar v target then s1.except t n tokenDistance
        else if satisfied v target then s1.retire t n 4 id
        else s1.onTile t fun x => x.onSlot n fun z => { z with stall := .token k target })

/-- A stalled TWAIT resumes once its target is satisfied. -/
def execTwaitRelease (t : Tile) (slot : Fin 16) (s : State) : Result :=
  .next (
    let z := (s.tile t).slot slot
    match z.stall with
    | .token k target =>
      if s.moving && satisfied (s.counter t z.ctx.toNat k.toNat) target then
        s.retire t slot 4 fun z => { z with stall := .none }
      else s
    | _ => s)

/-- TSIGI: an increment of 0 is illegal (R102). -/
def execTsigi (t : Tile) (k : BitVec 8) (imm : BitVec 16) (s : State) : Result :=
  .next (match s.core t with
    | none => s
    | some n =>
      let c := ((s.tile t).slot n).ctx.toNat
      if imm = 0 then s.except t n illegalInstruction
      else if ! s.setRoom t c then s.except t n counterSetsFull
      else ((s.allocSet t c).addCounter t c k.toNat imm.toNat).retire t n 4 id)

/-- Write back the lines that a slot's stores made dirty since its previous fence (R549). -/
def State.fenceBack (s : State) (t n : Nat) : State :=
  (s.writeBackAll ((s.tile t).slot n).dirty).onTile t fun x => x.onSlot n fun z => { z with dirty := [] }

/-- Stall a slot until its earlier stores are complete. When it has posted a write to host memory, that takes a zero-length read, which
begins once the host interface has one free (R542, Table 14-1). -/
def State.stallFence (s : State) (t n : Nat) (k : Stall) : State :=
  if ((s.tile t).slot n).posted && ! s.hostReadFree then s
  else (s.fenceBack t n).onTile t fun x => x.onSlot n fun z => { z with stall := k }

/-- TSIG: the signal word names tile and increment; it is applied once earlier stores are complete (R82, R102). -/
def execTsig (t : Tile) (k : BitVec 8) (rs : RegNo) (s : State) : Result :=
  .next (match s.core t with
    | none => s
    | some n =>
      let z := (s.tile t).slot n
      let c := z.ctx.toNat
      let w := z.rg rs
      let tile := bits w 0 10
      if 640 ≤ tile && tile ≤ 1021 then s.except t n tileSetInvalid
      else if bits w 10 16 = 0 then s.retire t n 4 id
      else if ! s.setRoom t c then s.except t n counterSetsFull
      else if z.posted && ! s.hostReadFree then s
      else (s.allocSet t c).stallFence t n (.tsig k (BitVec.ofNat 10 (if tile ≤ 639 then tile else t)) (BitVec.ofNat 16 (bits w 10 16))))

/-! ### Fences (R87, R549) -/

def State.fence (s : State) (t : Nat) (scope : BitVec 2) : State :=
  match s.core t with
  | some n => s.stallFence t n (.fence scope)
  | none => s

def execFenceT (t : Tile) (s : State) : Result := .next (s.fence t 0)
def execFenceP (t : Tile) (s : State) : Result := .next (s.fence t 1)
def execFenceD (t : Tile) (s : State) : Result := .next (s.fence t 2)

/-- Whether a slot's stores to other nodes have all been acknowledged. -/
def State.storesAcked (s : State) (t n : Nat) : Bool :=
  (s.tile t).fab.remotes.all fun q => match q.owner with
    | .store m _ _ => m != n
    | _ => true

/-- A waiting fence or TSIG proceeds: at domain scope, and for TSIG (R80), once every other node has acknowledged. One that waits for a
zero-length read of the host ends with HOST_LINK_DOWN when the link is down (R364, R542). -/
def execScalarFenceDone (t : Tile) (slot : Fin 16) (s : State) : Result :=
  .next (
    let z := (s.tile t).slot slot
    if ! s.moving then s
    else if z.fencing && ! s.linkUp then s.except t slot 0x6101
    else match z.stall with
      | .fence scope =>
        if scope = 2 && ! s.storesAcked t slot then s
        else s.retire t slot 4 fun z => { z with stall := .none, posted := false }
      | .tsig k tile incr =>
        if ! s.storesAcked t slot then s
        else
          let g : Signal := ⟨z.ctx.toNat, z.stepno.setWidth 2, t, tile.toNat, k, incr, t⟩
          let s1 := s.retire t slot 4 fun z => { z with stall := .none, posted := false }
          { s1 with mail := { s1.mail with signals := s1.mail.signals ++ [g] } }
      | _ => s)

/-! ### End of code and slot switches (R29, R61) -/

def execStepend (t : Tile) (s : State) : Result :=
  .next (match s.core t with
    | none => s
    | some n =>
      let z := (s.tile t).slot n
      (s.retire t n 4 fun z => { z with code := false }).onStep z.ctx.toNat z.stepno fun p => { p with ended := true })

/-- The core turns to a home slot with runnable work. Resuming the slot that ran last is no switch. -/
def execHomeSlotSwitch (t : Tile) (slot : Fin 16) (s : State) : Result :=
  .next (
    let x := s.tile t
    let z := x.slot slot
    if ! s.moving || tst (s.treg t 0x808) 0 || (s.slotCtx t slot).isNone || ! z.code || z.stall != .none || x.active = some slot.val then s
    else
      let s1 := s.onTile t fun x => { x with active := some slot.val, last := some slot.val }
      if x.last = some slot.val then s1 else s1.tcount t 0x8C8 1)

end Sys2Proof.Machine
end

