-- ==== Sys2Proof/Machine/Vector.lean ====
section
/-! DEFINITION. The vector unit: VOP, VCVT, VSFN, VSTAT, VNORM and VSMAX (R118 to R123), function tables (R183, R200), row
statistics (R190 to R195), the FF-5020 compatibility exponential (R201). -/

namespace Sys2Proof.Machine

open Sys2Proof

/-! ### Function tables -/

/-- A 32-bit field of a table image (Table 7-1). -/
def image32 (ws : List Word) (off : Nat) : BitVec 32 := BitVec.ofNat 32 (bits (ws.getD (off / 8) 0) (off % 8 * 8) 32)

def imageS (ws : List Word) : Nat := bits (ws.getD 0 0) 0 16
def imageD (ws : List Word) : Nat := bits (ws.getD 0 0) 16 8
def imageW (ws : List Word) : Int := (BitVec.ofNat 8 (bits (ws.getD 0 0) 24 8)).toInt
def imageBelow (ws : List Word) : BitVec 32 := image32 ws 0x18
def imageAbove (ws : List Word) : BitVec 32 := image32 ws 0x1C
def imageBp (ws : List Word) (i : Nat) : BitVec 32 := image32 ws (0x40 + 4 * i)
def imageC (ws : List Word) (i j : Nat) : BitVec 32 := image32 ws (0x480 + 32 * i + 4 * j)

/-- `2^w` times `i` as an exact number. -/
def segStep (ws : List Word) (i : Nat) : Num := .fin false i (imageW ws)

/-- The largest `i` below `n` whose breakpoint is at most `x`. -/
def segmentOf (ws : List Word) (x : Num) : Nat → Nat
  | 0 => 0
  | n + 1 => if ! Num.lt x (f32 (imageBp ws n)) then n else segmentOf ws x n

/-- Segment `i` of a version 1 table at `t`: Horner's rule, one rounding each (R183). -/
def segmentV1 (ws : List Word) (i : Nat) (t : BitVec 32) : BitVec 32 :=
  ((List.range (imageD ws)).reverse).foldl (fun y j => vFma y t (imageC ws i j)) (imageC ws i (imageD ws))

/-- A version 1 table at an FP32 input (R183). -/
def evalV1 (ws : List Word) (x0 : BitVec 32) : BitVec 32 :=
  let x := if x0 = 0x80000000#32 then 0 else x0
  if (f32 x).isNan then qnan32
  else if Num.lt (f32 x) (f32 (imageBp ws 0)) then imageBelow ws
  else if ! Num.lt (f32 x) (f32 (imageBp ws (imageS ws))) then imageAbove ws
  else
    let i := segmentOf ws (f32 x) (imageS ws)
    segmentV1 ws i (vSub x (imageBp ws i))

/-- A subnormal FP32 magnitude. -/
def Num.tiny (x : Num) : Bool :=
  match x with
  | .fin _ m e => m != 0 && magLt (m, e) (1, -126)
  | _ => false

/-- Segment `i` of a version 2 table at an exact `t`: two roundings toward zero each (R200). -/
def segmentV2 (ws : List Word) (i : Nat) (t : Num) : BitVec 32 :=
  ((List.range (imageD ws)).reverse).foldl (fun y j =>
    rtzF32 (Num.add .rtz (f32 (rtzF32 (Num.mul (f32 y) t))) (f32 (imageC ws i j)))) (imageC ws i (imageD ws))

/-- The floor of an exact number times `2^-w`. -/
def floorAt (x : Num) (w : Int) : Nat :=
  match x with
  | .fin false m e => if w ≤ e then scaleTo m e w else m >>> (w - e).toNat
  | _ => 0

/-- A version 2 table at an exact input (R200). -/
def evalV2 (ws : List Word) (x0 : Num) : BitVec 32 :=
  let x : Num := if x0.tiny || x0.isZero then .fin false 0 0 else x0
  let bp := f32 (imageBp ws 0)
  let y :=
    if x.isNan then qnan32
    else if Num.lt x bp then imageBelow ws
    else if ! Num.lt x (Num.add .rne bp (segStep ws (imageS ws))) then imageAbove ws
    else
      let u := f32 (rtzF32 (Num.add .rtz x bp.neg))
      let i := min (floorAt u (imageW ws)) (imageS ws - 1)
      segmentV2 ws i (Num.add .rtz u (segStep ws i).neg)
  if (f32 y).tiny then 0 else y

/-- A table at an FP32 input, by its version (R183, R199, R200). -/
def evalTable (ws : List Word) (x : BitVec 32) : BitVec 32 := if imageVersion ws = 2 then evalV2 ws (f32 x) else evalV1 ws x

/-! ### Exponentials -/

/-- `log2(e)` in FP32 (R201). -/
def log2e32 : BitVec 32 := 0x3FB8AA3B#32

/-- The floor of an exact number. -/
def Num.floor (x : Num) : Int :=
  match x with
  | .fin n m e =>
    if 0 ≤ e then (if n then - ((m <<< e.toNat : Nat) : Int) else ((m <<< e.toNat : Nat) : Int))
    else Num.toInt .down (.fin n m e)
  | _ => 0

/-- The compatibility exponential of `x − a` (R201). -/
def compatExp (ws : List Word) (x a : BitVec 32) : BitVec 32 :=
  let d := f32 (rtzF32 (Num.add .rtz (f32 x) (f32 a).neg))
  match d with
  | .nan => qnan32
  | .inf n => if n then 0 else posInf32
  | d =>
    match f32 (rtzF32 (Num.mul d (f32 log2e32))) with
    | .nan => qnan32
    | .inf n => if n then 0 else posInf32
    | z =>
      let n := z.floor
      match f32 (evalV2 ws (Num.add .rtz z (Num.ofInt n).neg)) with
      | .fin s m e =>
        let y : Nat × Int := (m, e + n)
        if s || m = 0 || magLt y (1, -126) then 0 else if magLt Enc.fp32.fmax y then posInf32 else codeF32 (.fin s m (e + n))
      | y => codeF32 y

/-- The exponential that a context's commands use (R199). -/
abbrev Expo := BitVec 32 → BitVec 32 → BitVec 32

def expoOf (table : Option (List Word)) : Expo := match table with | some ws => compatExp ws | none => vExp

/-- `exp(x − a) ÷ b` within 2 ulp (Table 5-6). -/
def expoDiv (table : Option (List Word)) (tag : Nat) (x a b : BitVec 32) : BitVec 32 :=
  match table with
  | some ws => nearDiv tag (compatExp ws x a) b
  | none => vExpDiv tag x a b

/-! ### Row statistics -/

/-- A statistics record without its ε (R121). -/
structure Stat where
  a : BitVec 32
  b : BitVec 32
  n : Nat
  deriving DecidableEq, Repr

/-- The empty record. -/
def Stat.empty : Stat := ⟨0, 0, 0⟩

/-- One element of a lane (R191). -/
def Stat.push (ex : Expo) (kind : Nat) (r : Stat) (x : BitVec 32) : Stat :=
  match kind with
  | 0 =>
    if r.n = 0 then ⟨x, 0, 1⟩
    else
      let a := vAdd r.a (vDiv (vSub x r.a) (vOfNat (r.n + 1)))
      ⟨a, vAdd r.b (vMul (vSub x r.a) (vSub x a)), r.n + 1⟩
  | 1 => ⟨vFma x x r.a, 0, r.n + 1⟩
  | _ =>
    if x = negInf32 then r
    else if r.n = 0 then ⟨x, one32, 1⟩
    else if Num.lt (f32 r.a) (f32 x) then ⟨x, vAdd (vMul r.b (ex r.a x)) one32, r.n + 1⟩
    else ⟨r.a, vAdd r.b (ex x r.a), r.n + 1⟩

/-- The record of one lane. -/
def laneStat (ex : Expo) (kind : Nat) (xs : List (BitVec 32)) : Stat :=
  let r := xs.foldl (Stat.push ex kind) .empty
  if kind = 1 && r.n != 0 then ⟨vDiv r.a (vOfNat r.n), 0, r.n⟩ else r

/-- The larger of two FP32 values, −0 below +0; a NaN gives a NaN (R162). -/
def vMax (a b : BitVec 32) : BitVec 32 :=
  if (f32 a).isNan || (f32 b).isNan then qnan32 else if Num.below (f32 a) (f32 b) then b else a
def vMin (a b : BitVec 32) : BitVec 32 :=
  if (f32 a).isNan || (f32 b).isNan then qnan32 else if Num.below (f32 b) (f32 a) then b else a

/-- Two records combine (R192); a NaN record gives NaN, with the counts added (R194). -/
def Stat.combine (ex : Expo) (kind : Nat) (A B : Stat) : Stat :=
  if A.n = 0 then B else if B.n = 0 then A
  else
    let n := min (A.n + B.n) (2 ^ 32 - 1)
    if (f32 A.a).isNan || (f32 B.a).isNan then ⟨qnan32, qnan32, n⟩
    else
      let share := vDiv (vOfNat B.n) (vOfNat n)
      let delta := vSub B.a A.a
      match kind with
      | 0 => ⟨vAdd A.a (vMul delta share),
              vAdd (vAdd A.b B.b) (vMul (vMul delta delta) (vDiv (vMul (vOfNat A.n) (vOfNat B.n)) (vOfNat n))), n⟩
      | 1 => ⟨vAdd A.a (vMul delta share), 0, n⟩
      | _ =>
        let m := vMax A.a B.a
        ⟨m, vAdd (vMul A.b (ex A.a m)) (vMul B.b (ex B.a m)), n⟩

/-- One level of the tree over lane records. -/
def statLevel (ex : Expo) (kind : Nat) : List Stat → List Stat
  | x :: y :: rest => Stat.combine ex kind x y :: statLevel ex kind rest
  | xs => xs

/-- The last step: b is written +0 where it is −0 (R195). -/
def Stat.finish (r : Stat) : Stat := { r with b := plus r.b }
  where plus (x : BitVec 32) : BitVec 32 := if x = 0x80000000#32 then 0 else x

/-- The record of a row (R190 to R195). -/
def rowStat (ex : Expo) (kind : Nat) (xs : List (BitVec 32)) : Stat :=
  let vs := xs.map f32
  let spoiled := if kind = 2 then vs.any fun v => v.isNan || v = .inf false else vs.any fun v => ! v.isFin
  let n := if kind = 2 then xs.countP fun x => x != negInf32 else xs.length
  if spoiled then ⟨qnan32, qnan32, n⟩
  else if n = 0 then ⟨negInf32, 0, 0⟩
  else
    let lanes := (List.range 64).map fun l =>
      laneStat ex kind ((List.range (cdiv (xs.length - l) 64)).map fun i => xs.getD (64 * i + l) 0)
    (((List.range 6).foldl (fun acc _ => statLevel ex kind acc) lanes).headD .empty).finish

/-- `2^-e` in FP32, for `e` at most 63. -/
def epsCode (e : Nat) : BitVec 32 := BitVec.ofNat 32 ((127 - e % 64) * 2 ^ 23)

/-- The 64 bytes of a statistics row: the record, then zeros (R194). -/
def Stat.bytes (r : Stat) (eps : BitVec 32) : List Byte :=
  bytesOf 4 r.a.toNat ++ bytesOf 4 r.b.toNat ++ bytesOf 4 r.n ++ bytesOf 4 eps.toNat ++ List.replicate 48 0

/-- A statistics record read from its row: a, b, count, ε. -/
def readStat (bs : List Byte) : Stat × BitVec 32 :=
  let w := fun i => ofBytes ((bs.drop (4 * i)).take 4)
  (⟨BitVec.ofNat 32 (w 0), BitVec.ofNat 32 (w 1), w 2⟩, BitVec.ofNat 32 (w 3))

/-- What the watch sees of statistics records: a, b and ε are FP32 results; a of −∞ for an empty row is not counted (R163). -/
def statMeasure (rs : List (Stat × BitVec 32)) : Measure :=
  let vals := rs.map fun p => [f32 p.1.a, f32 p.1.b, f32 p.2]
  let bad := rs.foldl (fun k p => k + (if p.1.n = 0 && p.1.a = negInf32 then 0 else b2n (! (f32 p.1.a).isFin)) + b2n (! (f32 p.1.b).isFin) + b2n (! (f32 p.2).isFin)) 0
  measureRows ⟨0, 0, bad⟩ vals

/-- Write statistics records, one line of 64 bytes each (R194). -/
def State.writeStats (s : State) (c : Nat) (ps : List (List Part)) (rs : List (Stat × BitVec 32)) : State × Except Status Unit :=
  s.writeLines c ps (rs.map fun p => p.1.bytes p.2)

/-! ### Shared by the vector commands -/

/-- Cycles of a vector piece: elements by 64 lanes, and the latency of a function (R35). -/
def vectorBusy (r : Rec) (function : Bool) : Nat := cdiv (r.rows.toNat * r.extent.toNat) 64 + (if function then 12 else 0)

/-- The compatibility table of a piece's context, if it uses one (R199). -/
def State.compatTable (s : State) (t : Nat) (r : Rec) : Option (List Word) :=
  if (s.tile t).work.compat r.ctx.toNat then s.table t 15 else none

/-- What a lane's residue or the table memory's code finds (R189, R479): a mismatch, an uncorrectable table word of the slot
that the piece evaluates, or nothing. -/
def State.vectorCheck (s : State) (t : Nat) (u : Upset) (r : Rec) : State × Status :=
  let f := s.takeVectorFault t u
  match f.2 with
  | .none | .cell .. => (f.1, 0)
  | .residue => (f.1, 0x5071)
  | .checksum =>
    match (f.1.tile t).work.tableSlot r with
    | some n => (f.1.onUpkeep t fun k => { k with ftDamaged := if k.ftDamaged.contains n then k.ftDamaged else k.ftDamaged ++ [n] }, 0x5031)
    | none => (f.1, 0)

/-- A vector piece: its check, its operands' parts, its source as FP32 rows, then `k` on the parts and rows. -/
def State.vector (s : State) (t : Nat) (u : Upset) (function : Bool) (r : Rec)
    (k : State → List (List Byte) → List (List Part) → List (List Part) → State × Except Status (Status × Measure)) :
    State × Except Status Done :=
  let n := vectorBusy r function
  let chk := (s.tcount t 0x310 n).vectorCheck t u r
  if chk.2 != 0 then (chk.1, .ok ⟨chk.2, .none, n⟩)
  else
    thenDo (chk.1.allParts r) fun s1 p =>
      thenDo (s1.readLines r.ctx.toNat p.1) fun s2 img =>
        thenDo (k s2 img p.2.1 p.2.2) fun s3 d => (s3, .ok ⟨d.1, d.2, n⟩)

/-- The FP32 values of A. -/
def Rec.rowsA (r : Rec) (img : List (List Byte)) : List (List (BitVec 32)) :=
  match r.geoA with
  | some g => tabulate g.rows g.cols fun i c => g.f32 img i c
  | none => []

/-- Write FP32 rows to D. -/
def State.putD (s : State) (r : Rec) (pd : List (List Part)) (xs : List (List (BitVec 32))) (st : Status) : State × Except Status (Status × Measure) :=
  match r.geoD with
  | some g => thenDo (s.write32 r g pd xs 0) fun s1 m => (s1, .ok (st, m))
  | none => (s, .error 0x2005)

/-! ### VOP (R118) -/

/-- One FP32 element operation. -/
def vopFloat (var : Nat) (a b : BitVec 32) : BitVec 32 :=
  match var with
  | 0 => a
  | 1 => vAdd a b
  | 2 => vSub a b
  | 3 => vMul a b
  | 4 => vMax a b
  | 5 => vMin a b
  | 6 => codeF32 (f32 a).abs
  | _ => codeF32 (f32 a).neg

/-- One INT32 element operation: modulo `2^32`. -/
def vopInt (var : Nat) (a b : BitVec 32) : BitVec 32 :=
  match var with
  | 0 => a
  | 1 => a + b
  | 2 => a - b
  | 3 => a * b
  | 4 => if a.slt b then b else a
  | 5 => if b.slt a then b else a
  | 6 => if a.slt 0 then - a else a
  | _ => - a

/-- The variant has a second operand. -/
def vopBinary (var : Nat) : Bool := 1 ≤ var && var ≤ 5

/-- Every operand is INT32. -/
def Rec.allInt (r : Rec) : Bool := r.fa = 11 && r.fd = 11 && (! vopBinary r.variant.toNat || r.fb = 11)

/-- The element of B for element `(i, c)` of A: the broadcast of R118. -/
def Rec.bIndex (r : Rec) (i c : Nat) : Nat × Nat :=
  (if r.bshape = 2 then 0 else i, if r.bshape = 1 then 0 else c)

/-- Results of VOP before write-out: INT32 words, or FP32 words. -/
def Rec.vopRows (r : Rec) (ga gb : Geo) (ia ib : List (List Byte)) : List (List (BitVec 32)) :=
  let var := r.variant.toNat
  tabulate ga.rows ga.cols fun i c =>
    let j := r.bIndex i c
    if r.allInt then vopInt var (BitVec.ofNat 32 (ga.code ia i c)) (BitVec.ofNat 32 (gb.code ib j.1 j.2))
    else vopFloat var (ga.f32 ia i c) (if vopBinary var then gb.f32 ib j.1 j.2 else 0)

/-- Write INT32 words: no FP32 result enters the RMS (R165). -/
def State.putInt (s : State) (r : Rec) (g : Geo) (pd : List (List Part)) (xs : List (List (BitVec 32))) : State × Except Status (Status × Measure) :=
  thenDo (s.writeLines r.ctx.toNat pd (g.image (xs.map fun l => (l.map BitVec.toNat, [])))) fun s1 _ =>
    (s1, .ok (0, .none))

def execVop (t : Tile) (u : Upset) (s : State) : Result :=
  .next (s.compute t 1 0x20 fun s r => s.vector t u false r fun s1 ia pb pd =>
    match r.geoA, r.geoB, r.geoD with
    | some ga, some gb, some gd =>
      thenDo (if vopBinary r.variant.toNat then s1.readLines r.ctx.toNat pb else (s1, .ok [])) fun s2 ib =>
        let xs := r.vopRows ga gb ia ib
        if r.allInt then s2.putInt r gd pd xs else s2.putD r pd xs 0
    | _, _, _ => (s1, .error 0x2005))

/-! ### VCVT (R119) and VSFN (R120) -/

/-- The rounding mode of VCVT's variant (Table 5-4). -/
def cvtMode (var : Nat) : Rnd := match var with | 0 => .rne | 1 => .rtz | 2 => .down | _ => .up

/-- The value that VCVT converts: decoded as FP32, where a value beyond its range is an infinity (R162); an INT32 exactly, in the sum of
squares of R165 too (DESIGN CHOICE, log 127). -/
def cvtValue (g : Geo) (img : List (List Byte)) (i c : Nat) : Num := if g.fmt = 11 then g.value img i c else f32 (g.f32 img i c)

def execVcvt (t : Tile) (u : Upset) (s : State) : Result :=
  .next (s.compute t 1 0x21 fun s r => s.vector t u false r fun s1 ia _ pd =>
    match r.geoA, r.geoD with
    | some ga, some gd =>
      thenDo (s1.writeOut r gd pd (cvtMode r.variant.toNat) (tabulate ga.rows ga.cols fun i c => cvtValue ga ia i c) 0) fun s2 m => (s2, .ok (0, m))
    | _, _ => (s1, .error 0x2005))

def execVsfn (t : Tile) (u : Upset) (s : State) : Result :=
  .next (s.compute t 1 0x22 fun s r => s.vector t u true r fun s1 ia _ pd =>
    match s1.table t (r.param.toNat % 16) with
    | some ws => s1.putD r pd ((r.rowsA ia).map fun l => l.map (evalTable ws)) 0
    | none => (s1, .error 0x2018))

/-! ### VSTAT (R121), VNORM (R122), VSMAX (R123) -/

def execVstat (t : Tile) (u : Upset) (s : State) : Result :=
  .next (s.compute t 1 0x23 fun s r => s.vector t u (r.variant = 2) r fun s1 ia _ pd =>
    let kind := r.variant.toNat
    let eps := if kind = 2 then 0 else epsCode r.param.toNat
    let rs := (r.rowsA ia).map fun l => (rowStat (expoOf (s1.compatTable t r)) kind l, eps)
    thenDo (s1.writeStats r.ctx.toNat pd rs) fun s2 _ => (s2, .ok (0, statMeasure rs)))

/-- Two 32-bit values as one word. -/
def pair32 (a b : BitVec 32) : Word := a ++ b

/-- One element of VNORM (R122). -/
def normValue (table : Option (List Word)) (kind : Nat) (q : Stat × BitVec 32) (x : BitVec 32) : BitVec 32 :=
  match kind with
  | 0 => divSqrt 10 3 q.1.n (Num.add .rne (f32 x) (f32 q.1.a).neg)
      (Num.add .rne (f32 q.1.b) (Num.mul (f32 q.2) (Num.ofInt q.1.n))) (pair32 x q.1.a) (pair32 q.1.b q.2) (BitVec.ofNat 64 q.1.n)
  | 1 => divSqrt 11 2 1 (f32 x) (Num.add .rne (f32 q.1.a) (f32 q.2)) (pair32 x q.1.a) (q.2.setWidth 64) 0
  | _ => expoDiv table 12 x q.1.a q.1.b

/-- The record makes a row empty (R122). -/
def emptyNorm (kind : Nat) (q : Stat) : Bool := q.n = 0 || (kind = 2 && (f32 q.b).isZero)

/-- EMPTY_ROW where a row is empty. -/
def emptyStatus (empty : Bool) : Status := if empty then 0x1010 else 0

def execVnorm (t : Tile) (u : Upset) (s : State) : Result :=
  .next (s.compute t 1 0x24 fun s r => s.vector t u (r.variant = 2) r fun s1 ia pb pd =>
    thenDo (s1.readLines r.ctx.toNat pb) fun s2 ib =>
      let kind := r.variant.toNat
      let table := s2.compatTable t r
      let qs := ib.map readStat
      let rows := (r.rowsA ia).zipIdx.map fun p =>
        let q := qs.getD p.2 (.empty, 0)
        p.1.map fun x => if emptyNorm kind q.1 then 0 else normValue table kind q x
      s2.putD r pd rows (emptyStatus ((qs.take r.rows.toNat).any fun q => emptyNorm kind q.1)))

/-- A row of VSMAX (R123, R198): entries of −∞ give +0, unless the row is spoiled by a NaN or +∞. -/
def smaxRow (table : Option (List Word)) (part : Bool) (q : Stat) (xs : List (BitVec 32)) : List (BitVec 32) :=
  xs.map fun x =>
    if (f32 q.a).isNan then qnan32
    else if x = negInf32 then 0
    else if part then expoOf table x q.a
    else expoDiv table 13 x q.a q.b

def execVsmax (t : Tile) (u : Upset) (s : State) : Result :=
  .next (s.compute t 1 0x25 fun s r => s.vector t u true r fun s1 ia pb pd =>
    let part := r.variant.getLsbD 0
    let table := s1.compatTable t r
    let xs := r.rowsA ia
    let qs := xs.map fun l => rowStat (expoOf table) 2 l
    let empty := ! part && qs.any fun q => q.n = 0
    thenDo (s1.putD r pd ((xs.zip qs).map fun p => smaxRow table part p.2 p.1) (emptyStatus empty)) fun s2 d =>
      if part then
        let rs := qs.map fun q => (q, (0 : BitVec 32))
        thenDo (s2.writeStats r.ctx.toNat pb rs) fun s3 _ =>
          (s3, .ok (d.1, { d.2 with events := d.2.events.add (statMeasure rs).events }))
      else (s2, .ok d))

end Sys2Proof.Machine
end

