-- ==== Sys2Proof/Machine/Route.lean ====
section
/-! DEFINITION. Expert routing and combine: VROUTE (R231 to R239) and VCOMB (R241 to R246). -/

namespace Sys2Proof.Machine

open Sys2Proof

/-! ### Ranking and placement -/

/-- A token whose score row holds a NaN or +∞ (R231). -/
def nonfinite (xs : List (BitVec 32)) : Bool := xs.any fun x => (f32 x).isNan || f32 x = .inf false

/-- Expert `a` ranks above expert `b`: the higher score, then the lower index (R231). -/
def ranksAbove (xs : List (BitVec 32)) (a b : Nat) : Bool :=
  let x := f32 (xs.getD a 0)
  let y := f32 (xs.getD b 0)
  Num.lt y x || (Num.eqv x y && a < b)

/-- Insert an expert into a ranking. -/
def insertRank (xs : List (BitVec 32)) (e : Nat) : List Nat → List Nat
  | [] => [e]
  | y :: ys => if ranksAbove xs e y then e :: y :: ys else y :: insertRank xs e ys

/-- The ranking of a token's experts. -/
def ranking (xs : List (BitVec 32)) : List Nat := (List.range xs.length).foldl (fun acc e => insertRank xs e acc) []

/-- One choice of a token: its slot, `none` when dropped, and whether it is a next-best. -/
structure Choice where
  slot : Option Nat
  moved : Bool
  deriving DecidableEq, Repr

/-- Counts of an expert (R234). -/
structure Load4 where
  taken : Nat
  primary : Nat
  refused : Nat
  subst : Nat
  deriving DecidableEq, Repr

def Load4.zero : Load4 := ⟨0, 0, 0, 0⟩

/-- What placement builds (R235): counts by expert, the next-best position by token, choices by token, the dispatch list. -/
structure Placing where
  experts : FMap Load4
  nb : FMap Nat
  choices : FMap (List Choice)
  list : FMap Nat

def Placing.expert (p : Placing) (e : Nat) : Load4 := FMap.get .zero p.experts e
def Placing.on (p : Placing) (e : Nat) (f : Load4 → Load4) : Placing := { p with experts := FMap.put .zero p.experts e (f (p.expert e)) }
def Placing.choose (p : Placing) (t : Nat) (c : Choice) : Placing := { p with choices := FMap.put [] p.choices t (FMap.get [] p.choices t ++ [c]) }

/-- Place a token in an expert with room. -/
def Placing.place (p : Placing) (C t e : Nat) (moved : Bool) : Placing :=
  let i := e * C + (p.expert e).taken
  ((({ p with list := FMap.insert p.list i t }).on e fun x => { x with taken := x.taken + 1, subst := x.subst + b2n moved })).choose t ⟨some i, moved⟩

/-- One choice of pass `j` (R235). -/
def Placing.choice (E C k j : Nat) (rank : Nat → List Nat) (p : Placing) (t : Nat) : Placing :=
  let e := (rank t).getD j 0
  let p1 := p.on e fun x => { x with primary := x.primary + 1 }
  if (p1.expert e).taken < C then p1.place C t e false
  else
    let p2 := p1.on e fun x => { x with refused := x.refused + 1 }
    let nb := FMap.get k p2.nb t
    if E ≤ nb then p2.choose t ⟨none, false⟩
    else
      let e2 := (rank t).getD nb 0
      let p3 := { p2 with nb := FMap.put k p2.nb t (nb + 1) }
      if (p3.expert e2).taken < C then p3.place C t e2 true else p3.choose t ⟨none, false⟩

/-- Placement: passes in rank order, tokens in row order. -/
def placeAll (E C k : Nat) (rows : List (List (BitVec 32))) : Placing :=
  let ranks := rows.map ranking
  let tokens := (List.range rows.length).filter fun t => ! nonfinite (rows.getD t [])
  (List.range k).foldl (fun p j => tokens.foldl (Placing.choice E C k j fun t => ranks.getD t []) p) ⟨[], [], [], []⟩

/-! ### The bearing table -/

/-- A token record before it is written: flags, m, slots and weights (R233, R236). -/
structure TokenRec where
  flags : Nat
  m : BitVec 32
  entries : List (Option Nat × BitVec 32)

/-- The record of a token. -/
def tokenRec (C k : Nat) (xs : List (BitVec 32)) (cs : List Choice) : TokenRec :=
  if nonfinite xs then ⟨1, qnan32, List.replicate k (none, 0)⟩
  else
    let score := fun (c : Choice) => match c.slot with | some i => xs.getD (i / C) 0 | none => 0
    let taken := cs.filter fun c => c.slot.isSome
    let m := match taken with | [] => negInf32 | c :: rest => rest.foldl (fun b d => vMax b (score d)) (score c)
    let skipped := taken.isEmpty
    let empty := ! skipped && m = negInf32
    let sum := (taken.map fun c => vExp (score c) m).foldl vAdd 0
    let moved := cs.zipIdx.foldl (fun acc p => acc + (if p.1.moved then 2 ^ (16 + p.2) else 0)) 0
    let w := fun (c : Choice) => if c.slot.isNone || empty then 0 else if score c = negInf32 then 0 else vExpDiv 14 (score c) m sum
    ⟨moved + 16 * taken.length + 4 * b2n empty + 2 * b2n skipped, m, cs.map fun c => (c.slot, w c)⟩

/-- A slot index as it is written: −1 for a dropped choice. -/
def slotCode (i : Option Nat) : Nat := match i with | some i => i | none => 2 ^ 32 - 1

def TokenRec.bytes (r : TokenRec) (k : Nat) : List Byte :=
  let body := bytesOf 4 r.flags ++ bytesOf 4 r.m.toNat ++ List.replicate 8 0 ++
    r.entries.flatMap fun e => bytesOf 4 (slotCode e.1) ++ bytesOf 4 e.2.toNat
  body ++ List.replicate (recordBytes k - body.length) 0

/-- The whole table of a routing group (R232 to R236). -/
def bearing (gen : Nat) (E C k : Nat) (rows : List (List (BitVec 32))) : List Byte × Nat :=
  let p := placeAll E C k rows
  let T := rows.length
  let recs := rows.zipIdx.map fun x => tokenRec C k x.1 (FMap.get [] p.choices x.2)
  let experts := (List.range E).map p.expert
  let sum := fun (f : Load4 → Nat) => experts.foldl (fun a x => a + f x) 0
  let dropped := p.choices.foldl (fun a x => a + x.2.countP fun c => c.slot.isNone) 0
  let head := bytesOf 4 gen ++ bytesOf 2 T ++ bytesOf 2 E ++ bytesOf 2 C ++ bytesOf 1 k ++ bytesOf 1 (recordBytes k / 64) ++
    bytesOf 4 (sum (·.taken)) ++ bytesOf 4 (sum (·.subst)) ++ bytesOf 4 dropped ++
    bytesOf 4 (recs.countP fun r => r.flags.testBit 1) ++ bytesOf 4 (recs.countP fun r => r.flags.testBit 0) ++ List.replicate 32 0
  let list := (List.range (E * C)).flatMap fun i => bytesOf 4 (slotCode (FMap.find? p.list i))
  (head ++ recs.flatMap (fun r => r.bytes k) ++ experts.flatMap (fun x => bytesOf 4 x.taken ++ bytesOf 4 x.primary ++ bytesOf 4 x.refused ++ bytesOf 4 x.subst)
    ++ list ++ List.replicate (up64 (4 * E * C) - 4 * E * C) 0, dropped)

/-- Write bytes at an operand. -/
def State.writeBytes (s : State) (c : Nat) (o : Operand) (off : Nat) (k : Touch) (bs : List Byte) : State × Except Status Unit :=
  thenDo (s.operandParts c o off bs.length k) fun s1 ps => s1.writeParts c k ps bs

/-- Read bytes at an operand. -/
def State.readBytes (s : State) (c : Nat) (o : Operand) (off n : Nat) : State × Except Status (List Byte) :=
  thenDo (s.operandParts c o off n .read) fun s1 ps => s1.readParts c false ps

/-- A free number of busy cycles up to a bound (R238, R246). -/
def State.someCycles (s : State) (bound : Nat) : Nat × State := ((s.draw.1.toNat % (bound + 1)), s.draw.2)

def execVroute (t : Tile) (u : Upset) (s : State) : Result :=
  .next (s.compute t 1 0x26 fun s r =>
    let k := r.routeK
    let C := r.routeCap
    let T := r.rows.toNat
    let E := r.extent.toNat
    let busy := s.someCycles (T * ((k + 1) * cdiv E 64 + 4 * k) + cdiv (tableBytes T E C k) 512 + 24)
    let chk := (busy.2.tcount t 0x310 busy.1).vectorCheck t u r
    if chk.2 != 0 then (chk.1, .ok ⟨chk.2, .none, busy.1⟩)
    else
      thenDo (chk.1.allParts r) fun s1 p =>
        thenDo (s1.readLines r.ctx.toNat p.1) fun s2 img =>
          let rows := r.rowsA img
          let tab := bearing (r.b.addr.toNat % 2 ^ 32) E C k rows
          thenDo (s2.writeBytes r.ctx.toNat r.d 0 .write tab.1) fun s3 _ =>
            (s3, .ok ⟨if tab.2 = 0 then 0 else 0x1030, ⟨⟨0, 0, rows.countP nonfinite⟩, 0, 0, 0⟩, busy.1⟩))

/-! ### Combine -/

/-- A token record as VCOMB reads it: flags, slots as written, weights. -/
structure ReadRec where
  flags : Nat
  entries : List (Nat × BitVec 32)

def readRec (k : Nat) (bs : List Byte) : ReadRec :=
  let w := fun off => ofBytes ((bs.drop off).take 4)
  ⟨w 0, (List.range k).map fun j => (w (0x10 + 8 * j), BitVec.ofNat 32 (w (0x14 + 8 * j)))⟩

/-- Slots of a record that name an answer. -/
def ReadRec.slots (r : ReadRec) : List Nat := (r.entries.map (·.1)).filter fun i => i < 2 ^ 31

/-- The header agrees with the piece (R244). -/
def bearingOk (r : Rec) (h : List Byte) : Bool :=
  let w := fun off n => ofBytes ((h.drop off).take n)
  let k := w 0x0A 1
  w 4 2 = r.rows.toNat && w 6 2 * w 8 2 = r.answerRows && 1 ≤ k && k ≤ 16 && w 0x0B 1 = recordBytes k / 64

/-- The token records of a table. -/
def recsOf (k R : Nat) : Nat → List Byte → List ReadRec
  | 0, _ => []
  | n + 1, bs => readRec k (bs.take R) :: recsOf k R n (bs.drop R)

/-- The generations in the trailers of some slots. -/
def State.trailers (s : State) (c : Nat) (a : Operand) (stride H : Nat) : List Nat → State × Except Status (List Nat)
  | [] => (s, .ok [])
  | i :: is =>
    thenDo (s.readBytes c a (i * stride + H) 4) fun s1 b =>
      thenDo (s1.trailers c a stride H is) fun s2 bs => (s2, .ok (ofBytes b :: bs))

/-- Elements of one answer row, columns `[c0, c0 + n)`, as FP32. -/
def State.answer (s : State) (c : Nat) (a : Operand) (g : Geo) (i c0 n : Nat) : State × Except Status (List (BitVec 32)) :=
  thenDo (s.readBytes c a (i * g.stride + c0 * g.fmt.width / 8) (n * g.fmt.width / 8)) fun s1 b =>
    (s1, .ok ((List.range n).map fun k => (Geo.dense g.fmt false 1 n).f32 [b] 0 k))

/-- The output row of a token: its answers by weight, in ascending entry (Table 9-3). -/
def State.combineRow (s : State) (c : Nat) (a : Operand) (g : Geo) (c0 n : Nat) (y : List (BitVec 32)) :
    List (Nat × BitVec 32) → State × Except Status (List (BitVec 32))
  | [] => (s, .ok y)
  | e :: es =>
    if e.1 < 2 ^ 31 then
      thenDo (s.answer c a g e.1 c0 n) fun s1 x =>
        s1.combineRow c a g c0 n ((y.zip x).map fun p => vFma e.2 p.2 p.1) es
    else s.combineRow c a g c0 n y es

/-- The output rows of all tokens. -/
def State.combineRows (s : State) (c : Nat) (a : Operand) (g : Geo) (c0 n : Nat) : List ReadRec → State × Except Status (List (List (BitVec 32)))
  | [] => (s, .ok [])
  | r :: rs =>
    thenDo (if r.flags.testBit 0 then (s, .ok (List.replicate n qnan32))
            else if r.flags.testBit 1 || r.flags.testBit 2 then (s, .ok (List.replicate n 0))
            else s.combineRow c a g c0 n (List.replicate n 0) r.entries) fun s1 row =>
      thenDo (s1.combineRows c a g c0 n rs) fun s2 rows => (s2, .ok (row :: rows))

/-- The table's header and records, and the generations of the taken slots, read before anything is written (R244). -/
def State.readBearing (s : State) (r : Rec) (ga : Geo) : State × Except Status (List ReadRec × Nat) :=
  let c := r.ctx.toNat
  thenDo (s.readBytes c r.bPlace 0 64) fun s1 h =>
    if ! bearingOk r h then (s1, .error 0x2050)
    else
      let k := ofBytes ((h.drop 0x0A).take 1)
      let n := r.rows.toNat * recordBytes k
      match s1.spanCheck c r.bPlace (64 + n) with
      | some st => (s1, .error st)
      | none =>
        thenDo (s1.readBytes c r.bPlace 64 n) fun s2 bs =>
          let recs := recsOf k (recordBytes k) r.rows.toNat bs
          if recs.any fun x => x.entries.any fun e => r.answerRows ≤ e.1 && e.1 != 2 ^ 32 - 1 then (s2, .error 0x2050)
          else
            thenDo (s2.trailers c r.a ga.stride (rowBytes ga.fmt r.extent.toNat) (recs.flatMap ReadRec.slots)) fun s3 gs =>
              (s3, .ok (recs, gs.countP fun g => g != ofBytes (h.take 4)))

/-- Choices of a token, as the header of a piece's bearing table says (Table 9-1). -/
def State.choicesOf (s : State) (r : Rec) : Nat := min 16 (ofBytes (s.spRead r.bPlace.spTile (r.bPlace.spOff + 0x0A) 1))

/-- VCOMB (R241 to R246). It takes at most the cycles of R246 for the table's k. -/
def execVcomb (t : Tile) (u : Upset) (s : State) : Result :=
  .next (s.compute t 1 0x27 fun s r =>
    let c := r.ctx.toNat
    match r.geoA, r.geoD with
    | some ga, some gd =>
      let busy := s.someCycles (r.rows.toNat * s.choicesOf r * (cdiv gd.cols 64 + 1) + 12)
      let chk := (busy.2.tcount t 0x310 busy.1).vectorCheck t u r
      if chk.2 != 0 then (chk.1, .ok ⟨chk.2, .none, busy.1⟩)
      else
        thenDo (chk.1.allParts r) fun s1 p =>
          thenDo (s1.readBearing r ga) fun s2 q =>
            if q.2 != 0 then
              if r.param = 0 then
                thenDo (s2.readBytes c r.bPlace 0x20 4) fun s3 old =>
                  thenDo (s3.writeBytes c r.bPlace 0x20 .write (bytesOf 4 (ofBytes old + q.2))) fun s4 _ => (s4, .ok ⟨0x5040, .none, busy.1⟩)
              else (s2, .ok ⟨0x5040, .none, busy.1⟩)
            else
              thenDo (s2.combineRows c r.a ga r.param.toNat gd.cols q.1) fun s3 rows =>
                thenDo (s3.write32 r gd p.2.2 rows 0) fun s4 m =>
                  (s4, .ok ⟨emptyStatus (q.1.any fun x => x.flags.testBit 2 && ! x.flags.testBit 0), m, busy.1⟩)
    | _, _ => (s, .error 0x2005))

end Sys2Proof.Machine
end

