-- ==== Sys2Proof/Machine/Move.lean ====
section
/-! DEFINITION. The pilot and stow engines: PLOAD, PGATH, SSTOW, SSCAT and SATOM form their requests (R110, R113, R125 to R129,
R216, R242, R292), and PILOT_STOW_REQUEST_DONE ends one (R42, R85, R126, R255). -/

namespace Sys2Proof.Machine

open Sys2Proof

/-! ### The sender's check (R344) -/

/-- The exit word of a node (`LP_NODEMAP`). -/
def State.nodeMap (s : State) (n : Nat) : Word := s.reg (lpBase + 0x8000 + 8 * n)

/-- The context's reach-map bit for a node. -/
def State.reaches (s : State) (c n : Nat) : Bool :=
  let base := bits (s.reg (fbBase + 0x010)) 21 23 * 2 ^ 21
  (s.pa8 (base + c * 512 + n / 8)).getLsbD (n % 8)

/-- The sender's check of a remote access: its status where it fails. -/
def State.senderCheck (s : State) (c n : Nat) : Option Status :=
  if ! tst (s.nodeMap n) 63 then some 0x6020
  else if ! s.reaches c n then some 0x3023
  else none

/-- Count a refusal by the sender's check (Tables 12-6 and 13-8). -/
def State.senderRefused (s : State) (st : Status) : State :=
  (if st = 0x6020 then s.count (lpBase + 0x038) 1 else s).count (fbBase + 0x090) 1

/-- Fail the first remote part that the sender's check refuses. -/
def State.checkParts (s : State) (c : Nat) : List Part → State × Except Status Unit
  | [] => (s, .ok ())
  | p :: ps =>
    match p.place with
    | .node n _ =>
      match s.senderCheck c n with
      | some st => (s.senderRefused st, .error st)
      | none => s.checkParts c ps
    | _ => s.checkParts c ps

/-! ### Requests of a piece -/

/-- A request before its place is resolved: the operand, the offset and length of each run of its bytes, what it carries or where it
lands. -/
structure Ask where
  unit : Nat
  kind : ReqKind
  o : Operand
  runs : List (Nat × Nat)
  data : List Byte
  plan : List (Nat × Nat × Nat)

/-- The access that a request makes. -/
def ReqKind.touch : ReqKind → Touch
  | .read => .read | .write => .write | .atomic => .atomic

/-- A byte of the data past its end: zero fill. -/
def zeroFrom : Nat := 2 ^ 40

/-- Bytes of a request at most: of a span of a tier or of this package (R292), of a row to or from another node (Table 13-1). -/
def spanMax : Nat := 16384
def rowMax : Nat := 131072

/-- Cut a row of `n` bytes at an address into requests: to another node by length, else into spans of at most 16 KiB whose inner
ends are 64-byte aligned (R292): offset and length of each. -/
def spans (remote : Bool) (addr n : Nat) : List (Nat × Nat) :=
  if remote then cuts n rowMax
  else
    let head := min n (spanMax - addr % 64)
    if head = n then cuts n spanMax else (0, head) :: (cuts (n - head) spanMax).map fun x => (head + x.1, x.2)

/-- The operand lies on another node. -/
def State.elsewhere (s : State) (o : Operand) : Bool := o.cls = 2 && o.addr.toNat / 2 ^ 44 % 4096 != s.node

/-- Byte positions of one row's 128-column block in an operand: payload, and scale bytes (R144, R145). -/
def Geo.segPos (g : Geo) (r j : Nat) : Nat :=
  g.lineOf r * g.stride + g.elemBit r (128 * j) / 8
def Geo.segScale (g : Geo) (r j : Nat) : Nat := g.lineOf r * g.stride + g.scaleByte r (4 * j)

/-- Columns of block `j`. -/
def Geo.segCols (g : Geo) (j : Nat) : Nat := min 128 (g.cols - 128 * j)

/-- Land one row's block in D from a byte of the data, and its scales from another (R73). -/
def Geo.landSeg (g : Geo) (r j src scale : Nat) : List (Nat × Nat × Nat) :=
  let n := g.segCols j
  let w := g.fmt.width
  if g.tiled then
    [(g.segPos r j, zeroFrom, 128 * w), (g.segPos r j, src, n * w)] ++
    (if g.fmt.block then [(g.segScale r j, zeroFrom, 32), (g.segScale r j, scale, 8 * cdiv n 32)] else [])
  else [(g.segPos r j, src, n * w)]

/-- Zero a row of D, padding included. -/
def Geo.zeroRow (g : Geo) (r : Nat) : List (Nat × Nat × Nat) :=
  (List.range (cdiv g.cols 128)).flatMap fun j => g.landSeg r j zeroFrom zeroFrom

/-- The padding rows of a tiled D (R73). -/
def Geo.padRows (g : Geo) : List (Nat × Nat × Nat) :=
  if g.tiled then (List.range (cdiv g.rows 128 * 128 - g.rows)).flatMap fun i => g.zeroRow (g.rows + i) else []

/-- Land bytes `b` to `b + n` of a row-major row in row `i` of a tiled D: the part of each 128-column block, and after a block's
last data byte its padding (R73). -/
def Geo.landBytesOfRow (g : Geo) (i b n : Nat) : List (Nat × Nat × Nat) :=
  let z := 16 * g.fmt.width
  (List.range (cdiv (b + n) z - b / z)).flatMap fun k =>
    let j := b / z + k
    let data := cdiv (g.segCols j * g.fmt.width) 8
    let lo := max b (z * j)
    let hi := min (b + n) (z * (j + 1))
    (g.segPos i j + (lo - z * j), lo - b, 8 * (hi - lo)) ::
      (if z * j + data ≤ hi then [(g.segPos i j + data, zeroFrom, 8 * (z - data))] else [])

/-- Requests that read one row-major row from an operand into row `i` of D. -/
def rowAsks (remote : Bool) (o : Operand) (base : Nat) (ga gd : Geo) (i : Nat) : List Ask :=
  (spans remote (o.addr.toNat + base) (rowBytes ga.fmt ga.cols)).map fun x =>
    ⟨i, .read, o, [(base + x.1, x.2)], [], if gd.tiled then gd.landBytesOfRow i x.1 x.2 else [(i * gd.stride + x.1, 0, 8 * x.2)]⟩

/-- Requests of PLOAD without PAGED (R125). -/
def loadAsks (remote : Bool) (o : Operand) (ga gd : Geo) : List Ask :=
  let z := ga.fmt.tileBytes
  if ga.tiled then
    (List.range ga.lines).flatMap fun l => (List.range (cdiv ga.cols 128)).map fun j =>
      let plan := if gd.tiled then [(l * gd.stride + j * z, 0, 8 * z)]
        else (List.range (min 128 (ga.rows - 128 * l))).flatMap fun q =>
          gd.landSeg (128 * l + q) j (ga.elemBit q (128 * j) / 8 - j * z) zeroFrom
      ⟨l, .read, o, [(l * ga.stride + j * z, z)], [], plan⟩
  else (List.range ga.rows).flatMap fun r => rowAsks remote o (r * ga.stride) ga gd r

/-- Requests of PGATH for one index (R127): nothing for −1. -/
def gatherAsks (remote : Bool) (o : Operand) (ga gd : Geo) (i : Nat) (x : Int) : List Ask :=
  if x < 0 then []
  else
    let n := x.toNat
    if ga.tiled then
      let z := ga.fmt.tileBytes
      (List.range (cdiv ga.cols 128)).map fun j =>
        ⟨i, .read, o, [(n / 128 * ga.stride + j * z, z)], [],
          gd.landSeg i j (ga.elemBit n (128 * j) / 8 - j * z) (ga.scaleByte n (4 * j) - j * z)⟩
    else rowAsks remote o (n * ga.stride) ga gd i

/-- Requests of SSTOW: the destination's lines, engine-ready tiles or rows, padding written under R73 (R128). -/
def stowAsks (remote : Bool) (o : Operand) (gd : Geo) (img : List (List Byte)) : List Ask :=
  img.zipIdx.flatMap fun p =>
    (if gd.tiled then cuts p.1.length gd.fmt.tileBytes else spans remote (o.addr.toNat + p.2 * gd.stride) p.1.length).map fun x =>
      ⟨p.2, .write, o, [(p.2 * gd.stride + x.1, x.2)], (p.1.drop x.1).take x.2, []⟩

/-- Requests of SSCAT for one row (R128): nothing for −1. In a tiled table it is one request an engine-ready tile, which writes the row's
part of the tile and its scales as one unit and leaves the tile's other bytes (R292; DESIGN CHOICE, log 46); to another node each run of
bytes is a request of its own. -/
def scatterAsks (remote : Bool) (o : Operand) (ga gd : Geo) (img : List (List Byte)) (i : Nat) (x : Int) : List Ask :=
  if x < 0 then []
  else
    let n := x.toNat
    let w := ga.fmt.width
    let code := fun c => if c < ga.cols then ga.code img i c else 0
    if gd.tiled then
      (List.range (cdiv gd.cols 128)).flatMap fun j =>
        let codes := ((gd.segPos n j, 16 * w), (List.range (16 * w)).map (payloadByte w fun c => code (128 * j + c)))
        let scales := ((gd.segScale n j, 4), (List.range 4).map fun k =>
          if 128 * j + 32 * k < gd.cols then BitVec.ofNat 8 (ga.scale img i (128 * j + 32 * k)) else 0)
        let both := if gd.fmt.block then [codes, scales] else [codes]
        if remote then both.map fun p => ⟨i, .write, o, [p.1], p.2, []⟩ else [⟨i, .write, o, both.map (·.1), both.flatMap (·.2), []⟩]
    else
      let row := (List.range (rowBytes ga.fmt ga.cols)).map (payloadByte w code)
      (spans remote (o.addr.toNat + n * gd.stride) row.length).map fun y =>
        ⟨i, .write, o, [(n * gd.stride + y.1, y.2)], (row.drop y.1).take y.2, []⟩

/-- The element codes and scales of an operand, row by row. -/
def codeRows (g : Geo) (img : List (List Byte)) : List (List Nat × List Nat) :=
  (List.range g.rows).map fun r =>
    ((List.range g.cols).map fun c => g.code img r c, if g.fmt.block then (List.range (cdiv g.cols 32)).map fun j => g.scale img r (32 * j) else [])

/-! ### Forming -/

/-- The parts of runs of an operand's bytes. -/
def State.runParts (s : State) (c : Nat) (o : Operand) (k : Touch) : List (Nat × Nat) → State × Except Status (List Part)
  | [] => (s, .ok [])
  | x :: xs =>
    thenDo (s.operandParts c o x.1 x.2 k) fun s1 ps => thenDo (s1.runParts c o k xs) fun s2 qs => (s2, .ok (ps ++ qs))

/-- Resolve the requests of a piece: every page and every sender check before anything moves (R113). -/
def State.resolve (s : State) (c : Nat) : List Ask → State × Except Status (List Req)
  | [] => (s, .ok [])
  | a :: as =>
    thenDo (s.runParts c a.o a.kind.touch a.runs) fun s1 ps =>
      thenDo (s1.checkParts c ps) fun s2 _ =>
        thenDo (s2.resolve c as) fun s3 rs => (s3, .ok (⟨0, a.unit, a.kind, ps, a.data, a.plan, none, false, none, false⟩ :: rs))

/-- Requests with the data of the asks they were resolved from. -/
def fillReqs (rs : List Req) (as : List Ask) : List Req := (rs.zip as).map fun p => { p.1 with data := p.2.data }

/-- Bytes of a landing. -/
def landBytes (data : List Byte) (src n : Nat) : List Byte :=
  (List.range ((n + 7) / 8)).map fun k =>
    let b := data.getD (src + k) 0
    if 8 * (k + 1) ≤ n then b else b &&& BitVec.ofNat 8 (2 ^ (n - 8 * k) - 1)

/-- Where a request's data lands in D by its plan: the parts of each run of bytes, with the bytes. -/
def State.planParts (s : State) (c : Nat) (d : Operand) (data : List Byte) :
    List (Nat × Nat × Nat) → State × Except Status (List (List Part × List Byte))
  | [] => (s, .ok [])
  | p :: ps =>
    let bs := landBytes data p.2.1 p.2.2
    thenDo (s.operandParts c d p.1 bs.length .write) fun s1 q => thenDo (s1.planParts c d data ps) fun s2 qs => (s2, .ok ((q, bs) :: qs))

/-- The same for all requests of a piece, each one access. -/
def State.gotParts (s : State) (c : Nat) (d : Operand) :
    List (List (Nat × Nat × Nat) × List Byte) → State × Except Status (List (List Part × List Byte))
  | [] => (s, .ok [])
  | g :: gs =>
    thenDo (s.planParts c d g.2 g.1) fun s1 xs =>
      thenDo ((s1.touch c .write (xs.flatMap (·.1))).gotParts c d gs) fun s2 ys => (s2, .ok (xs ++ ys))

/-- What a pilot piece has read lands in D, all of it or nothing (R138). -/
def State.landGot (s : State) (c : Nat) (d : Operand) (got : List (List (Nat × Nat × Nat) × List Byte)) : State × Except Status Unit :=
  thenDo (s.gotParts c d got) fun s1 xs => s1.storeUnit c xs

/-- No part of a piece's writes to this package refuses its write, as far as the memories know now: none is performed before that is
clear (R138). -/
def State.checkWrites (s : State) (c : Nat) (rs : List Req) : State × Except Status Unit :=
  match (rs.flatMap fun q => if q.kind = .read then [] else q.parts).findSome? (s.refuseWrite c) with
  | some x => (x.1, .error x.2)
  | none => (s, .ok ())

/-- An index list as signed numbers (R127). -/
def indices (g : Geo) (img : List (List Byte)) (n : Nat) : List Int :=
  (List.range n).map fun i => (BitVec.ofNat 32 (if g.cols = 1 && g.rows = n then g.code img i 0 else g.code img 0 i)).toInt

/-- Every index is −1 or a row of the table. -/
def indicesOk (rows : Nat) (xs : List Int) : Bool := xs.all fun x => -1 ≤ x && x < (rows : Int)

/-- What a piece forms: requests, zero fills of D that need no request, and the numeric events of what it writes. -/
abbrev Formed := List Req × List (Nat × Nat × Nat) × Events

/-- Numeric events of copied rows: non-finite elements, or blocks of scale `0xFF` (R163). -/
def codeEvents (f : Fmt) (rows : List (List Nat × List Nat)) : Events :=
  ⟨0, 0, (rows.map fun p => if f.block then p.2.countP (· = 0xFF) else p.1.countP fun c => ! (f.elem c).isFin).sum⟩

/-- Form PLOAD (R125), or PLOAD with PAGED (R216). -/
def State.formLoad (s : State) (r : Rec) : State × Except Status Formed :=
  let c := r.ctx.toNat
  match r.geoD with
  | none => (s, .error 0x2005)
  | some gd =>
    thenDo (s.recParts c r.d r.geoD .write) fun s0 _ =>
      if r.variant = 1 then
        let rows := cdiv r.rows.toNat 128
        let a0 := r.param.toNat
        thenDo (s0.readBytes c r.b 0 8) fun s1 w =>
          if bits (BitVec.ofNat 64 (ofBytes w)) 0 14 < a0 + rows then (s1, .error 0x2040)
          else
            thenDo (s1.readBytes c r.b (8 + 8 * a0) (8 * rows)) fun s2 es =>
              let asks := ((wordsOf rows es).zipIdx).map fun p =>
                (⟨p.2, .read, cvaOperand ((bits p.1 0 48 + r.a.addr.toNat) % 2 ^ 48), [(0, 16384)], [], [(p.2 * 16384, 0, 8 * 16384)]⟩ : Ask)
              thenDo (s2.resolve c asks) fun s3 rs => (s3, .ok (rs, [], .none))
      else match r.geoA with
        | some ga =>
          thenDo (s0.resolve c (loadAsks (s0.elsewhere r.a) r.a ga gd)) fun s1 rs =>
            (s1, .ok (rs, if ga.tiled then [] else gd.padRows, .none))
        | none => (s0, .error 0x2005)

/-- Form PGATH (R127). -/
def State.formGather (s : State) (r : Rec) : State × Except Status Formed :=
  let c := r.ctx.toNat
  match r.geoA, r.geoB, r.geoD with
  | some ga, some gb, some gd =>
    thenDo (s.recParts c r.b r.geoB .read) fun s1 pb =>
      thenDo (s1.recParts c r.d r.geoD .write) fun s2 _ =>
        thenDo (s2.readLines c pb) fun s3 ib =>
          let xs := indices gb ib r.rows.toNat
          if ! indicesOk r.tableRows xs then (s3, .error 0x2017)
          else
            thenDo (s3.resolve c (xs.zipIdx.flatMap fun p => gatherAsks (s3.elsewhere r.a) r.a ga gd p.2 p.1)) fun s4 rs =>
              (s4, .ok (rs, (xs.zipIdx.flatMap fun p => if p.1 < 0 then gd.zeroRow p.2 else []) ++ gd.padRows, .none))
  | _, _, _ => (s, .error 0x2005)

/-- Form SSTOW (R128). -/
def State.formStow (s : State) (r : Rec) : State × Except Status Formed :=
  let c := r.ctx.toNat
  match r.geoA, r.geoD with
  | some ga, some gd =>
    thenDo (s.recParts c r.a r.geoA .read) fun s1 pa =>
      let asks := stowAsks (s1.elsewhere r.d) r.d gd
      thenDo (s1.resolve c (asks (gd.image []))) fun s2 rs =>
        thenDo (s2.readLines c pa) fun s3 ia => (s3, .ok (fillReqs rs (asks (gd.image (codeRows ga ia))), [], codeEvents ga.fmt (codeRows ga ia)))
  | _, _ => (s, .error 0x2005)

/-- Form SSCAT (R128). -/
def State.formScatter (s : State) (r : Rec) : State × Except Status Formed :=
  let c := r.ctx.toNat
  match r.geoA, r.geoB, r.geoD with
  | some ga, some gb, some gd =>
    thenDo (s.recParts c r.a r.geoA .read) fun s1 pa =>
      thenDo (s1.recParts c r.b r.geoB .read) fun s2 pb =>
        thenDo (s2.readLines c pb) fun s3 ib =>
          let xs := indices gb ib r.rows.toNat
          if ! indicesOk r.tableRows xs then (s3, .error 0x2017)
          else
            let asks := fun (ia : List (List Byte)) => xs.zipIdx.flatMap fun p => scatterAsks (s3.elsewhere r.d) r.d ga gd ia p.2 p.1
            thenDo (s3.resolve c (asks [])) fun s4 rs =>
              thenDo (s4.readLines c pa) fun s5 ia =>
                (s5, .ok (fillReqs rs (asks ia), [], codeEvents ga.fmt (((codeRows ga ia).zip xs).filterMap fun p => if p.2 < 0 then none else some p.1)))
  | _, _, _ => (s, .error 0x2005)

/-- Form SATOM: one atomic request per row; the places of the old values are checked as well (R129). -/
def State.formAtom (s : State) (r : Rec) : State × Except Status Formed :=
  let c := r.ctx.toNat
  let n := r.rows.toNat
  match r.geoA with
  | some ga =>
    thenDo (s.recParts c r.a r.geoA .read) fun s1 pa =>
      thenDo (s1.operandParts c r.b 0 (4 * n) .write) fun s2 pb =>
        thenDo (s2.checkParts c pb) fun s3 _ =>
          thenDo (s3.readLines c pa) fun s4 ia =>
            thenDo (s4.resolve c ((List.range n).map fun i =>
              ⟨i, .atomic, r.d, [(4 * i, 4)], (ia.getD i []).take (4 * ga.cols), []⟩)) fun s5 rs => (s5, .ok (rs, [], .none))
  | none => (s, .error 0x2005)

/-! ### Issue -/

/-- Send the remote form of a request (R342, R343). -/
def State.sendReq (s : State) (t : Nat) (r : Run) (q : Req) : State :=
  match q.node? with
  | none => s
  | some (n, off) =>
    let owner := Owner.piece r.eng r.ord q.seq
    let c := r.cmd.ctx.toNat
    let len := (q.parts.map (·.len)).sum
    match q.kind with
    | .read => s.newRemote t 1 0 n off len 0 0 [] c owner
    | .write => s.newRemote t 2 0 n off len 0 0 q.data c owner
    | .atomic =>
      s.newRemote t 3 r.cmd.variant n off len (BitVec.ofNat 64 (ofBytes (q.data.take 4))) (BitVec.ofNat 64 (ofBytes (q.data.drop 4))) [] c owner

/-- Issue the first request of a run that has not been issued, through the entries of the tables as they are now (R290). A page
that is no longer mapped, and a Far request while port F is down (R304), end it at once. -/
def State.issueOne (s : State) (t : Nat) (r : Run) (q : Req) : State :=
  let i := r.reqs.findIdx fun x => x.issued.isNone
  match s.freshParts r.cmd.ctx.toNat q.kind.touch q.parts with
  | (s1, .error st) => s1.spoilRun t r.ord st
  | (s1, .ok ps) =>
    let n := (s1.tile t).work.nextSeq
    let q1 := { q with seq := n, issued := some s1.chron, parts := ps }
    if q1.far && ! s1.farUp then (s1.blame q1.parts).spoilRun t r.ord 0x6041
    else ((s1.onWork t fun w => { w with nextSeq := n + 1 }).onRun t r.ord fun r => { r with reqs := r.reqs.set i q1 }).sendReq t r q1

/-- Issue requests while the engine holds a free outstanding slot (R255) and the host interface, for host memory, one of its
reads (R546). -/
def State.issueSome : Nat → State → Nat → Nat → State
  | 0, s, _, _ => s
  | fuel + 1, s, t, e =>
    if maxOutstanding ≤ (s.tile t).work.outstanding e then s
    else
      match ((s.tile t).work.runs e).find? (fun r => r.reqs.any fun q => q.issued.isNone) with
      | none => s
      | some r =>
        match r.reqs.find? (fun q => q.issued.isNone) with
        | none => s
        | some q => if q.host && ! s.hostReadFree then s else State.issueSome fuel (s.issueOne t r q) t e

/-- The page list of a PLOAD with PAGED, up to the entry of its tile-row (R216). -/
def State.pageList (s : State) (r : Rec) : List Part :=
  if r.code = 0x30 && r.variant = 1 then s.ownParts r.ctx.toNat r.b (some (Geo.dense 11 false 1 (2 * (1 + r.param.toNat + cdiv r.rows.toNat 128)))) .read
  else []

/-- A pilot or stow piece reaches what it reads at its forming, and where its data lands (R492). -/
def State.formReached (s : State) (t : Nat) (r : Rec) : Bool :=
  let c := r.ctx.toNat
  s.partsReached t ((if pilots.contains r.engine.toNat then s.ownParts c r.d r.geoD .write else s.ownParts c r.a r.geoA .read) ++
    s.ownParts c r.b r.geoB .read ++ s.pageList r)

/-- Statuses of a failed piece of which what came before the failure stays: a source error, and the link losses and time-outs that R138
excepts (R126, R302, R330, R357). -/
def landsAnyway (st : Status) : Bool := [0x5020, 0x6010, 0x6022, 0x6040, 0x6050].contains st.toNat

/-- The piece's last request has ended: what it read lands, unless it failed (`landsAnyway`). Then comes the zero-length read of its host
writes (R542). -/
def State.settle (s : State) (t ord : Nat) : State :=
  match (s.tile t).work.running.find? fun r => r.ord = ord with
  | none => s
  | some r =>
    if ! r.formed || ! r.reqs.isEmpty then s
    else
      let s1 := s.onRun t ord fun r => { r with got := [] }
      let s2 := if r.got.isEmpty || ! (r.status = 0 || landsAnyway r.status) then s1
        else match (s1.drain t).landGot r.cmd.ctx.toNat r.cmd.d r.got with
          | (s2, .ok ()) =>
            let n := (r.got.map fun g => g.2.length).sum
            (s2.tcount t 0x320 n).onRun t ord fun r => ({ r with cells := r.cells + n }).post (s.ownParts r.cmd.ctx.toNat r.cmd.d r.cmd.geoD .write)
          | (s2, .error st) => s2.onRun t ord fun r => { r with status := if r.status = 0 then st else r.status }
      s2.onRun t ord Run.confirm

/-- A pilot or stow piece of a code forms its requests, after the writes that its tile's router has accepted (R85, R86), and the first of
them are issued. -/
def State.form (s : State) (t e i code : Nat) (k : State → Rec → State × Except Status Formed) : State :=
  match s.run? t e i with
  | none => s
  | some r =>
    if ! s.moving || r.formed || r.cmd.code.toNat != code || ! s.formReached t r.cmd then s
    else match thenDo (k (s.drain t) r.cmd) fun s1 f => thenDo (s1.checkWrites r.cmd.ctx.toNat f.1) fun s2 _ => (s2, .ok f) with
      | (s1, .error st) => s1.failRun t r.ord st
      | (s1, .ok f) =>
        let got := if f.2.1.isEmpty then [] else [(f.2.1, [])]
        (State.issueSome maxOutstanding (s1.onRun t r.ord fun r =>
          { r with formed := true, reqs := f.1, got := got, measure := ⟨f.2.2, 0, 0, 0⟩ }) t e).settle t r.ord

def execPload (t : Tile) (e : EngineNo) (i : Nat) (s : State) : Result := .next (s.form t e i 0x30 State.formLoad)
def execPgath (t : Tile) (e : EngineNo) (i : Nat) (s : State) : Result := .next (s.form t e i 0x31 State.formGather)
def execSstow (t : Tile) (e : EngineNo) (i : Nat) (s : State) : Result := .next (s.form t e i 0x38 State.formStow)
def execSscat (t : Tile) (e : EngineNo) (i : Nat) (s : State) : Result := .next (s.form t e i 0x39 State.formScatter)
def execSatom (t : Tile) (e : EngineNo) (i : Nat) (s : State) : Result := .next (s.form t e i 0x3A State.formAtom)

/-! ### The end of a request -/

/-- Write an old value of SATOM to its place; a place on another node takes a request of its own. -/
def State.putOld (s : State) (t : Nat) (r : Run) (q : Req) (old : List Byte) : State × Option Status :=
  let c := r.cmd.ctx.toNat
  match s.operandParts c r.cmd.b (4 * q.unit) 4 .write with
  | (s1, .error st) => (s1, some st)
  | (s1, .ok ps) =>
    if allHere [ps] then
      match s1.writeParts c .write ps old with
      | (s2, .error st) => (s2, some st)
      | (s2, .ok ()) => (s2.onRun t r.ord fun r => r.post ps, none)
    else (s1.onRun t r.ord fun r => { r with reqs := r.reqs ++ [⟨0, q.unit, .write, ps, old, [], none, false, none, false⟩] }, none)

/-- What the answer of a request does: what was read waits to land with its piece, an atomic's old value goes to its place, a write to
host memory is posted. -/
def State.landReq (s : State) (t : Nat) (r : Run) (q : Req) (data : List Byte) : State × Option Status :=
  match q.kind with
  | .read => (if q.plan.isEmpty then s else s.onRun t r.ord fun r => { r with got := r.got ++ [(q.plan, data)] }, none)
  | .atomic => s.putOld t r q data
  | .write => (s.onRun t r.ord fun r => r.post q.parts, none)

/-- The numeric events of an atomic that completes, in FP32: the value it wrote, and the old value written to its place (R163). A compare
that fails counts the old value, which stays, as written (DESIGN CHOICE, log 117). -/
def Run.atomEvents (r : Run) (q : Req) (old : List Byte) : Events :=
  if q.kind = .atomic && r.cmd.fd = 0 then
    let w := fun (bs : List Byte) => BitVec.ofNat 32 (ofBytes (bs.take 4))
    let new := atomValue r.cmd.variant.toNat (w old) (w q.data) (w (q.data.drop 4))
    ⟨0, 0, b2n (! (f32 (w old)).isFin) + b2n (! (f32 new).isFin)⟩
  else .none

/-- A run counts numeric events. -/
def Run.addEvents (r : Run) (ev : Events) : Run := { r with measure := { r.measure with events := r.measure.events.add ev } }

/-- Count the bytes that a stow request had acknowledged (`TL_CNT_STOW_BYTES`). -/
def State.countBytes (s : State) (t : Nat) (r : Run) (n : Nat) : State :=
  if stows.contains r.eng then (s.tcount t 0x328 n).onRun t r.ord fun r => { r with cells := r.cells + n } else s

/-- A request of a run ends with a status; its slot is free, and further requests are issued; after the last the piece's data lands. -/
def State.endReq (s : State) (t : Nat) (r : Run) (q : Req) (res : Except Status (List Byte)) : State :=
  let s1 := s.onRun t r.ord fun r => { r with reqs := r.reqs.filter fun x => ! (x.issued.isSome && x.seq = q.seq) }
  let s2 := match res with
    | .error st => (s1.blame q.parts).spoilRun t r.ord st
    | .ok data =>
      match s1.landReq t r q data with
      | (s2, some st) => s2.spoilRun t r.ord st
      | (s2, none) => (s2.onRun t r.ord fun x => x.addEvents (r.atomEvents q data)).countBytes t r ((q.parts.map (·.len)).sum)
  (State.issueSome maxOutstanding s2 t r.eng).settle t r.ord

/-- The request of a run with a sequence number. -/
def State.req? (s : State) (t ord seq : Nat) : Option (Run × Req) :=
  ((s.tile t).work.running.find? fun r => r.ord = ord).bind fun r =>
    (r.reqs.find? fun q => q.issued.isSome && q.seq = seq).map fun q => (r, q)

/-- The outcome that a performed request keeps. -/
def Req.result (q : Req) : Except Status (List Byte) :=
  match q.answer with
  | some (.inl st) => .error st
  | some (.inr bs) => .ok bs
  | none => .ok []

/-- A request meets its hazard, or is performed, and ends. -/
def State.finishReq (s : State) (t : Nat) (h : Hazard) (r : Run) (q : Req) : State :=
  if q.answer.isSome then s.endReq t r q q.result
  else match s.meet t r.cmd.ctx.toNat false h q.kind.touch q.parts with
    | (s1, some st) => s1.endReq t r q (.error st)
    | (s1, none) =>
      let s2 := s1.perform t r q
      match s2.req? t r.ord q.seq with
      | some (r2, q2) => s2.endReq t r2 q2 q2.result
      | none => s2

/-- A late answer to a request that timed out comes: it is discarded and counted (R302). -/
def State.lateAnswer (s : State) (t : Nat) : State :=
  if s.moving && (s.tile t).upkeep.unanswered != 0 then
    (s.onUpkeep t fun u => { u with unanswered := u.unanswered - 1 }).count (mtBase + 0x158) 1
  else s

/-- A request to this package is answered, after the writes of its tile that were issued before it (R85, R86). -/
def State.answered (s : State) (t : Nat) (h : Hazard) (r : Run) (q : Req) : State :=
  let s1 := State.performBefore 64 s t q.seq
  match s1.req? t r.ord q.seq with
  | some (r1, q1) => s1.finishReq t h r1 q1
  | none => s1

/-- PILOT_STOW_REQUEST_DONE: a request to this package ends, unless the way to its memory is interrupted (R492). An answer at or after the
time limit is discarded and counted, and before it no answer is no end (R302). One that a crossing discarded is never answered (log 108): a
flush of its step ends it. Where the engine has no such request, an answer to one that timed out comes. The row serves the zero-length reads
of the other engines too (R542). -/
def execPilotStowRequestDone (t : Tile) (e : EngineNo) (i : Nat) (s : State) (h : Hazard := .none) : Result :=
  .next (
    match ((s.tile t).work.issuedReqs e)[i]? with
    | none => s.lateAnswer t
    | some (r, q) =>
      if ! s.moving || q.node?.isSome || ! s.partsReached t q.parts then s
      else if q.lost then (if r.suppressed then s.endReq t r q (.error 0x6040) else s)
      else match q.tier? with
        | some k =>
          if timeoutOf k ≤ s.ageOf q then (if h = .timeout then s.timedOutOpen t else s.timedOut 2).endReq t r q (.error 0x6040)
          else if h = .timeout then s
          else s.answered t h r q
        | none => s.answered t h r q)

end Sys2Proof.Machine
end

