-- ==== Sys2Proof/Machine/Collective.lean ====
section
/-! DEFINITION. Collectives: CRED, CGATH and CROW begin at a member, contributions arrive, and the operation completes or fails
(R130 to R133, R193). -/

namespace Sys2Proof.Machine

open Sys2Proof

/-! ### The group (R130) -/

/-- Bytes of a request's contribution part at most (Table 13-1). -/
def partMax : Nat := 131072

/-- Read a group descriptor's bytes from the executing tile's scratchpad; anywhere else it is no group descriptor. -/
def State.groupBytes (s : State) (t : Nat) (r : Rec) (off n : Nat) : State × Except Status (List Byte) :=
  if r.b.cls != 0 || r.b.spTile != t then (s, .error 0x2019)
  else match s.spCheck t r.ctx.toNat (r.b.spOff + off) n with
    | some st => (s, .error st)
    | none => s.readPart r.ctx.toNat false ⟨.sp t (r.b.spOff + off), n, none, 0, 0⟩

/-- A group: instance, own position, members as tile and node. -/
structure Group where
  inst : BitVec 16
  pos : Nat
  members : List (Nat × Nat)

/-- Read and check a group descriptor (R130). -/
def State.readGroup (s : State) (t : Nat) (r : Rec) : State × Except Status Group :=
  thenDo (s.groupBytes t r 0 8) fun s1 hd =>
    let h : Word := BitVec.ofNat 64 (ofBytes hd)
    let n := bits h 0 16
    let pos := bits h 16 16
    if n < 2 || 1024 < n || n ≤ pos then (s1, .error 0x2019)
    else
      thenDo (s1.groupBytes t r 8 (4 * n)) fun s2 bs =>
        let es := (List.range n).map fun i =>
          let w : Word := BitVec.ofNat 64 (ofBytes ((bs.drop (4 * i)).take 4))
          (bits w 12 10, bits w 0 12)
        if es.getD pos (0, 0) = (t, s2.node) then (s2, .ok ⟨BitVec.ofNat 16 (bits h 32 16), pos, es⟩) else (s2, .error 0x2019)

/-! ### Contributions -/

/-- The parts of D that member `p`'s contribution goes to in CGATH: D's dense size apart (R132). -/
def gatherPlace (r : Rec) (g : Geo) (p : Nat) : Operand := ⟨r.d.cls, r.d.addr + BitVec.ofNat 56 (p * (g.lines * g.stride))⟩

/-- Resolve D: for CGATH one part a member, else one (R113). -/
def State.collParts (s : State) (r : Rec) (gd : Geo) (n : Nat) : State × Except Status (List (List Part)) :=
  if r.code = 0x41 then
    (List.range n).foldl (fun acc p =>
      thenDo acc fun s1 ps => thenDo (s1.geoParts r.ctx.toNat (gatherPlace r gd p) gd .write) fun s2 qs => (s2, .ok (ps ++ qs)))
      (match s.spanCheck r.ctx.toNat r.d ((n - 1) * (gd.lines * gd.stride) + gd.span) with
       | some st => (s, .error st)
       | none => (s, .ok []))
  else s.geoParts r.ctx.toNat r.d gd .write

/-- Send the own contribution to the other members: on this node by the command channel, else as requests of the fabric (R342). -/
def State.contribute (s : State) (t : Nat) (r : Rec) (ord : Nat) (g : Group) (data : List Byte) : State :=
  (g.members.zipIdx.filter fun m => m.2 != g.pos).foldl (fun acc m =>
    if m.1.2 = acc.node then
      { acc with mail := { acc.mail with contribs := acc.mail.contribs ++ [(t, m.1.1, ⟨r.job, g.inst, g.pos, data⟩)] } }
    else (cuts data.length partMax).foldl (fun a x =>
      a.newRemote t 6 0 m.1.2 0 x.2 0 0 ((data.drop x.1).take x.2) r.ctx.toNat (.contribution ord)) acc) s

/-! ### Completion -/

/-- Rows of FP32 words that a contribution spells. -/
def contribRows (g : Geo) (data : List Byte) : List (List (BitVec 32)) :=
  let img := chunks g.lineBytes (g.lines + 1) data
  tabulate g.rows g.cols fun i k => g.f32 img i k

/-- CRED's reduction in ascending position (R132). -/
def reduceRows (variant : Nat) (xs : List (List (List (BitVec 32)))) : List (List (BitVec 32)) :=
  match xs with
  | [] => []
  | x :: rest => rest.foldl (fun acc y => (acc.zip y).map fun p => (p.1.zip p.2).map fun q =>
      match variant with
      | 0 => vAdd q.1 q.2
      | 1 => vMax q.1 q.2
      | _ => vMin q.1 q.2) x

/-- CROW's combination in ascending position, always with the built-in exponential (R193). -/
def crowRows (kind : Nat) (xs : List (List (Stat × BitVec 32))) : List (Stat × BitVec 32) :=
  match xs with
  | [] => []
  | x :: rest => (rest.foldl (fun acc y => (acc.zip y).map fun p => (Stat.combine vExp kind p.1.1 p.2.1, p.1.2)) x).map
      fun p => (p.1.finish, p.2)

/-- Write the result of a collective to D, once every contribution has arrived. -/
def State.collResult (s : State) (x : Coll) (ga gd : Geo) : State × Except Status Measure :=
  let r := x.cmd
  let datas := (List.range x.members.length).map fun p => FMap.get [] x.got p
  if r.code = 0x40 then s.write32 r gd x.parts (reduceRows r.variant.toNat (datas.map (contribRows ga))) 0
  else if r.code = 0x41 then
    let rows := datas.map fun d => codeRows ga (chunks ga.lineBytes (ga.lines + 1) d)
    let ev := rows.foldl (fun ev x => ev.add (codeEvents gd.fmt x)) .none
    thenDo (s.writeLines r.ctx.toNat x.parts (rows.flatMap gd.image)) fun s1 _ => (s1, .ok ⟨ev, 0, 0, 0⟩)
  else
    let rs := crowRows r.variant.toNat (datas.map fun d => (chunks 16 (ga.lines + 1) d).map readStat)
    thenDo (s.writeStats r.ctx.toNat x.parts rs) fun s1 _ => (s1, .ok (statMeasure rs))

/-- Change the collective of a run, or drop it. -/
def State.setColl (s : State) (t : Nat) (x : Coll) : State :=
  s.onTile t fun y => { y with colls := y.colls.map fun z => if z.ord = x.ord then x else z }
def State.dropColl (s : State) (t ord : Nat) : State :=
  s.onTile t fun y => { y with colls := y.colls.filter fun z => z.ord != ord }

/-- A collective whose contributions are complete writes its result, after the writes that its tile's router has accepted (R85), once D
is reached (R492); its slot is free once the piece has completed. -/
def State.tryColl (s : State) (t : Nat) (x : Coll) : State :=
  let out := x.parts.flatten
  if x.got.length < x.members.length || ! s.partsReached t out then s
  else match x.cmd.geoA, x.cmd.geoD with
    | some ga, some gd =>
      let s1 := (s.drain t).dropColl t x.ord
      (match s1.collResult x ga gd with
       | (s2, .ok m) => s2.onRun t x.ord fun r => ((r.done 0 m 0).post out).confirm
       | (s2, .error st) => s2.failRun t x.ord st)
    | _, _ => s

/-- A collective that waits for nothing but the way to its D goes on. -/
def State.resumeColl (s : State) (t : Nat) (r : Run) : State :=
  match (s.tile t).colls.find? fun x => x.ord = r.ord with
  | some x => s.tryColl t x
  | none => s

/-- A contribution belongs to a collective, and spells one contribution of its size. -/
def Coll.takes (x : Coll) (y : Contribution) : Bool :=
  x.cmd.job = y.job && x.inst = y.inst && y.pos < x.members.length && (FMap.find? x.got y.pos).isNone &&
    (match x.cmd.geoA with | some g => y.data.length = g.lines * g.lineBytes | none => false)

/-- A collective takes a contribution. -/
def Coll.give (x : Coll) (y : Contribution) : Coll := { x with got := FMap.put [] x.got y.pos y.data }

/-! ### Start -/

/-- Begin a collective: its group, its operands, its own contribution. An A or D in the memory of another node is no operand of it:
Table 13-1 lists no request for one (DESIGN CHOICE, log 25). -/
def State.beginColl (s : State) (t : Nat) (r : Run) : State × Except Status (Group × Coll × List Byte) :=
  let c := r.cmd
  thenDo (s.readGroup t c) fun s1 g =>
    if (s1.tile t).colls.any fun x => x.cmd.job = c.job && x.inst = g.inst then (s1, .error 0x2016)
    else match c.geoA, c.geoD with
      | some ga, some gd =>
        thenDo (s1.recParts c.ctx.toNat c.a (some ga) .read) fun s2 pa =>
          thenDo (s2.collParts c gd g.members.length) fun s3 pd =>
            if ! allHere pd then (s3, .error 0x2005)
            else
              thenDo (s3.readLines c.ctx.toNat pa) fun s4 ia =>
                (s4, .ok (g, ⟨c, r.ord, g.inst, g.pos, g.members, [(g.pos, ia.flatten)], pd⟩, ia.flatten))
      | _, _ => (s1, .error 0x2005)

/-- The collective engine starts its run `i`: contributions that came early are taken first. -/
def State.startColl (s : State) (t i code : Nat) : State :=
  match s.run? t 8 i with
  | none => s
  | some r =>
    if ! s.moving || r.formed || r.cmd.code.toNat != code || ((s.tile t).colls.any fun x => x.ord = r.ord) ||
        ! s.partsReached t (s.ownParts r.cmd.ctx.toNat r.cmd.a r.cmd.geoA .read) then s
    else match (s.drain t).beginColl t r with
      | (s1, .error st) => s1.failRun t r.ord st
      | (s1, .ok (g, x, data)) =>
        let mine := fun (y : Contribution) => y.job = x.cmd.job && y.inst = x.inst
        let x1 := ((s1.tile t).early.filter mine).foldl (fun acc y => if acc.takes y then acc.give y else acc) x
        let s2 := s1.onTile t fun z => { z with colls := z.colls ++ [x1], early := z.early.filter fun y => ! mine y }
        (s2.contribute t r.cmd r.ord g data).tryColl t x1

def execCred (t : Tile) (i : Nat) (s : State) : Result := .next (s.startColl t i 0x40)
def execCgath (t : Tile) (i : Nat) (s : State) : Result := .next (s.startColl t i 0x41)
def execCrow (t : Tile) (i : Nat) (s : State) : Result := .next (s.startColl t i 0x42)

/-! ### Arrival and failure -/

/-- A contribution reaches a member (R131): it joins the collective of its job and instance, or waits for it. One more from a position
that the collective holds already is dropped (DESIGN CHOICE, log 36). -/
def State.deliver (s : State) (t : Nat) (y : Contribution) : State :=
  match (s.tile t).colls.find? (fun x => x.cmd.job = y.job && x.inst = y.inst) with
  | some x =>
    if x.takes y then (s.setColl t (x.give y)).tryColl t (x.give y) else s
  | none => s.onTile t fun z => { z with early := z.early ++ [y] }

/-- A collective in progress ends with a status (R133). -/
def State.failColl (s : State) (t i : Nat) (st : Status) (late : Bool) : State :=
  match s.run? t 8 i with
  | none => s
  | some r =>
    if ! s.moving || (late && ! s.longPast r.cmd.deadline) || ! (s.tile t).colls.any fun x => x.ord = r.ord then s
    else (s.dropColl t r.ord).onRun t r.ord fun r => r.fail st

def execCollectiveMemberLost (t : Tile) (i : Nat) (s : State) : Result := .next (s.failColl t i 0x6021 false)
def execCollectivePastDeadline (t : Tile) (i : Nat) (s : State) : Result := .next (s.failColl t i 0x8003 true)

end Sys2Proof.Machine
end

