-- ==== Sys2Proof/Machine/Report.lean ====
section
/-! DEFINITION. The end of pieces and what follows from it: completion and the norm watch (R137, R163 to R168, R517), signals
(R46, R48, R81), notices and reports (R91, R92, R136), flushes and replays (R83, R169, R170, R176), commits (R168). -/

namespace Sys2Proof.Machine

open Sys2Proof

/-! ### The norm watch -/

/-- `TL_NW_CFG[n]` and its fields (Table 6-3). -/
def State.nwCfg (s : State) (t n : Nat) : Word := s.treg t (0x400 + 0x30 * n)
def nwJumpNf (v : Word) : Bool := tst v 61
def nwH (v : Word) : Nat := bits v 57 4
def nwL (v : Word) : Nat := bits v 53 4
def nwS (v : Word) : Nat := bits v 50 3
def nwW (v : Word) : Nat := bits v 44 6
def nwSatLim (v : Word) : Nat := bits v 28 16

/-- The watch entry that a piece matches (R165). -/
def State.nwEntry (s : State) (t : Nat) (r : Rec) : Option Nat :=
  (List.range 16).find? fun n =>
    let v := s.nwCfg t n
    tst v 63 && bits v 16 12 = r.ctx.toNat && bits v 0 16 = r.oper.toNat

/-- A piece takes the RMS and the jump test: a matrix or vector piece that writes D as a result (R165). -/
def Rec.resultful (r : Rec) (eng : Nat) : Bool := eng ≤ 1 && ! r.keeps && r.code != 0x26

/-- `a * 2^ea < b * 2^eb`. -/
def scaledLt (a : Nat) (ea : Int) (b : Nat) (eb : Int) : Bool :=
  let q := min ea eb
  scaleTo a ea q < scaleTo b eb q

/-- The jump tests (Table 6-1): on the exact mean square against the square of the reference times a power of two. -/
def nwJumps (cfg ref : Word) (m : Measure) : Bool :=
  let r := f32 (ref.setWidth 32)
  let steps := bits ref 32 6
  let learnt := nwW cfg ≤ steps
  let above := match r with
    | .fin _ k e => scaledLt (m.n * (k * k)) (2 * e + nwH cfg) m.sqm m.sqe
    | _ => false
  let below := match r with
    | .fin _ k e => scaledLt m.sqm m.sqe (m.n * (k * k)) (2 * e - nwL cfg)
    | .inf _ => true
    | .nan => false
  let zero := m.n = 0 && (match r with | .fin _ k _ => k != 0 | .inf _ => true | .nan => false)
  (learnt && nwH cfg != 0 && m.n != 0 && above) || (learnt && nwL cfg != 0 && (zero || (m.n != 0 && below))) ||
    (nwSatLim cfg != 0 && nwSatLim cfg ≤ m.events.sat) || (nwJumpNf cfg && 1 ≤ m.events.nonfin)

/-- Add a piece's counts, its sums where it is a result, and its jump to the pending bank of an entry and step tag (R167, R168). -/
def Work.bankAdd (w : Work) (n : Nat) (tag : BitVec 2) (m : Measure) (sums jump : Bool) : Work :=
  let old : Bank := (w.banks.find? fun b => b.entry = n && b.tag = tag).getD ⟨n, tag, 0, 0, 0, 0, 0, 0, 0⟩
  let sq := if sums then addSums (old.sqm, old.sqe) (m.sqm, m.sqe) else (old.sqm, old.sqe)
  let new : Bank := ⟨n, tag, old.sat + m.events.sat, old.zero + m.events.zero, old.nonfin + m.events.nonfin, old.jumps + b2n jump,
    sq.1, sq.2, if sums then old.n + m.n else old.n⟩
  { w with banks := (w.banks.filter fun b => ! (b.entry = n && b.tag = tag)) ++ [new] }

/-- The bytes of parts, looked at without an access. -/
def State.peek (s : State) (c : Nat) (ps : List Part) : List Byte :=
  match (s.fetchParts c true ps).2 with
  | .ok bs => bs
  | .error _ => []

/-- Numeric events of what a pilot piece has landed in D (R163). -/
def State.landedEvents (s : State) (r : Rec) : Events :=
  match r.geoD with
  | some g =>
    if r.code = 0x30 || r.code = 0x31 then
      match (s.recParts r.ctx.toNat r.d r.geoD .write).2 with
      | .ok ps => codeEvents g.fmt (codeRows g (ps.map (s.peek r.ctx.toNat)))
      | .error _ => .none
    else .none
  | none => .none

/-- The counts of a piece, and its status after the norm watch (R163, R164, R167). -/
def State.watchPiece (s : State) (t : Nat) (r : Run) : State × Status :=
  if r.suppressed || 2 ≤ classOf r.status then (s, r.status)
  else
    let m := (r.addEvents (s.landedEvents r.cmd)).measure
    match s.nwEntry t r.cmd with
    | some n =>
      let sums := r.cmd.resultful r.eng
      let jump := sums && nwJumps (s.nwCfg t n) (s.treg t (0x408 + 0x30 * n)) m
      (s.onWork t fun w => w.bankAdd n r.cmd.tag m sums jump, if jump then 0x5030 else r.status)
    | none => (((s.tcount t 0x708 m.events.sat).tcount t 0x710 m.events.zero).tcount t 0x718 m.events.nonfin, r.status)

/-! ### Completion of a piece -/

/-- A run has done all its work: computed, or its requests formed and ended. -/
def Run.over (r : Run) : Bool := r.formed && r.reqs.isEmpty && ! r.cmd.idle

/-- A piece completes (R137). It applies its signal unless it failed, jumped, or was flushed (R480 withholds that of a Faulted tile). -/
def State.completePiece (s : State) (t : Nat) (r : Run) : State :=
  let x := s.watchPiece t r
  let s1 := x.1.endRun t r x.2
  if r.suppressed || 2 ≤ classOf x.2 then s1 else s1.sendSignal t r.cmd

/-- PIECE_COMPLETION; of a collective that only waited for a way to its D, the write of D first. -/
def execPieceCompletion (t : Tile) (e : EngineNo) (i : Nat) (s : State) : Result :=
  .next (match s.run? t e i with
    | some r => if ! s.moving then s else if r.over then s.completePiece t r else s.resumeColl t r
    | none => s)

/-! ### Signals (R46, R48, R81) -/

/-- The step of a signal is being flushed or restored: the signal is suppressed (R83). -/
def State.signalDead (s : State) (g : Signal) : Bool :=
  match s.tagStep? g.ctx g.tag with
  | some p => (match p.phase with | .flushing _ => true | .restoring => true | _ => false)
  | none => false

/-- One signal is added to its counter; a context without a free set has the status reported to its home tile (R46). -/
def State.applySignal (s : State) (t : Nat) (g : Signal) : State :=
  if s.signalDead g then s
  else if ! s.setRoom t g.ctx then
    { s with mail := { s.mail with reports := s.mail.reports ++ [⟨g.home, g.ctx, g.tag, 0x4010, 0xF, t, 0xFFFFFFFF#32, false, (0, 0)⟩] } }
  else (s.allocSet t g.ctx).addCounter t g.ctx g.k.toNat g.incr.toNat

/-- Every signal that has reached the tile is added; one whose way is interrupted waits (R492). -/
def execSignalApply (t : Tile) (s : State) : Result :=
  .next (
    if ! s.moving then s
    else
      let arrives := fun (g : Signal) => g.tile = t.val && s.pathClear g.src t
      (s.mail.signals.filter arrives).foldl (fun acc g => acc.applySignal t g)
        { s with mail := { s.mail with signals := s.mail.signals.filter fun g => ! arrives g } })

/-! ### Notices and reports at the home tile (R91, R136) -/

/-- Count a piece that ended against its step. -/
def State.received (s : State) (c : Nat) (tag : BitVec 2) : State :=
  match s.tagStep? c tag with
  | some p => s.onTally c p.stepno fun y => { y with received := y.received + 1 }
  | none => s

/-- A notice that matches no step in flight is discarded. -/
def execCompletionNotice (t : Tile) (s : State) : Result :=
  .next (
    if ! s.moving then s
    else match takeFirst (fun (x : Report) => x.home = t.val && s.pathClear x.tile t) s.mail.notices with
      | none => s
      | some (x, rest) => { s with mail := { s.mail with notices := rest } }.received x.ctx x.tag)

/-- Of the reports of one step, the one with the highest class, then the lowest code (R91). -/
def worse (x y : Report) : Report :=
  if classOf x.status < classOf y.status || (classOf x.status = classOf y.status && y.status.toNat < x.status.toNat) then y else x

/-- The report that the home tile takes next: of the step whose report came first. -/
def pickReport (t : Nat) (xs : List Report) : Option Report :=
  match xs.filter fun x => x.home = t with
  | [] => none
  | x :: rest => some ((rest.filter fun y => y.ctx = x.ctx && y.tag = x.tag).foldl worse x)

/-- Remove the first element equal to one. -/
def dropReport (x : Report) (xs : List Report) : List Report := xs.erase x

/-- Arithmetic check failures within 1 s that make a tile Faulted (R480). -/
def checkWindow : Nat := 1000000000

/-- A tile becomes Faulted: it is counted and recorded (R496, R500), HOLD is set, its running pieces end without their
signals, and they and its queued and parked pieces complete with TILE_FAULTED (R480; log 58). -/
def State.makeFaulted (s : State) (t : Nat) : State :=
  if s.faultedTile t then s
  else
    let w := (s.tile t).work
    let xs := w.queues.flatMap (·.2) ++ w.parked.map (·.ent)
    let s0 := (s.count (bnBase + 0x280) 1).log (tileFault 0x6011 0 t 0 0xFFF 0)
    let s1 := ((s0.onUpkeep t fun u => { u with state := 3 }).orReg (tileBase t + 0x008) 1).onWork t fun w =>
      { w with queues := [], parked := [] }
    let s2 := w.running.foldl (fun acc r => acc.endRun t r 0x6011) s1
    xs.foldl (fun acc x => acc.tell t x.cmd.engine.toNat x.cmd 0x6011) s2

/-- Count an arithmetic check failure of a tile; the third within 1 s makes it Faulted (R480, R500). -/
def State.countCheck (s : State) (t : Nat) (st : Status) : State :=
  let now := s.chron
  let s := s.count (bnBase + (if st = 0x5010 then 0x270 else 0x278)) 1
  let recent := (s.tile t).upkeep.faults.filter fun a => (now - a).toNat ≤ checkWindow
  let s1 := s.onUpkeep t fun u => { u with faults := recent ++ [now] }
  if 3 ≤ recent.length + 1 then s1.makeFaulted t else s1

/-- The home tile takes a report: the error record, the count, the status (R91, R92, R136, R496). Of a step that is no longer in flight
the report is recorded with the step tag that it carries, and changes nothing else (R136; log 118). -/
def State.takeReport (s : State) (x : Report) : State :=
  let s0 := if x.status = 0x5010 || x.status = 0x5071 then s.countCheck x.tile x.status else s
  match s0.tagStep? x.ctx x.tag with
  | none => s0.logStatus x.status x.tile x.eng x.ctx x.layop (x.tag.setWidth 32) x.spot
  | some p =>
    let s1 := s0.logStatus x.status x.tile x.eng x.ctx x.layop p.stepno x.spot
    let s2 := if x.piece then s1.received x.ctx x.tag else s1
    s2.takeStatus x.ctx p.stepno x.status ⟨x.layop, x.tile, x.piece⟩

def execPieceReport (t : Tile) (s : State) : Result :=
  .next (
    if ! s.moving then s
    else match pickReport t (s.mail.reports.filter fun x => s.pathClear x.tile t) with
      | none => s
      | some x => { s with mail := { s.mail with reports := dropReport x s.mail.reports } }.takeReport x)

/-! ### Flush (R83, R115, R169, R170, R269) -/

/-- A record belongs to a step. -/
def Rec.ofStep (r : Rec) (c : Nat) (tag : BitVec 2) : Bool := r.ctx.toNat = c && r.tag = tag

/-- The parked counts that the save registers show (Table 10-7). -/
def State.showParked (s : State) (t : Nat) : State :=
  (List.range 16).foldl (fun acc n =>
    if tst (acc.spSave t n) 63 then acc.setField (tileBase t + 0x740 + 8 * n) 24 11 ((acc.tile t).work.parkedFor n) else acc) s

/-- Discard a step's commands on a tile, on the channel, in the inbox, queued and parked; suppress the running ones. -/
def State.discardStep (s : State) (t c : Nat) (tag : BitVec 2) : State :=
  let s1 := { s with mail := { s.mail with channel := s.mail.channel.filter fun p => ! (p.1 = t && p.2.ofStep c tag) } }
  (s1.onWork t fun w => { w with
    inbox := w.inbox.filter fun r => ! r.ofStep c tag
    queues := (w.queues.map fun q => (q.1, q.2.filter fun e => ! e.cmd.ofStep c tag)).filter fun q => ! q.2.isEmpty
    parked := w.parked.filter fun p => ! p.ent.cmd.ofStep c tag
    running := w.running.map fun r => if r.cmd.ofStep c tag then { r with suppressed := true } else r }).showParked t

/-- Discard the pending banks of a step. -/
def State.discardBanks (s : State) (t c : Nat) (tag : BitVec 2) : State :=
  s.onWork t fun w => { w with banks := w.banks.filter fun b => ! (b.tag = tag && bits (s.nwCfg t b.entry) 16 12 = c) }

/-- A tile takes a flush. -/
def State.takeFlush (s : State) (x : Flush) : State :=
  let s1 := (s.discardStep x.tile x.ctx x.tag).dropKept x.tile x.ctx x.tag
  let s2 := if x.replay then s1.discardBanks x.tile x.ctx x.tag else s1
  let s3 := { s2 with mail := { s2.mail with
    signals := s2.mail.signals.filter fun g => ! (g.ctx = x.ctx && g.tag = x.tag && g.tile = x.tile)
    confirms := s2.mail.confirms ++ [x] } }
  match s3.tagStep? x.ctx x.tag with
  | some p => s3.restoreCounters x.tile x.ctx p.wp.counters
  | none => s3

def execStepFlush (t : Tile) (s : State) : Result :=
  .next (
    if ! s.moving then s
    else match takeFirst (fun (x : Flush) => x.tile = t.val && s.fromHome x.ctx t) s.mail.flushes with
      | none => s
      | some (x, rest) => { s with mail := { s.mail with flushes := rest } }.takeFlush x)

/-- A tile's confirmation is on its way: its running pieces of the step have ended, and what they sent before has arrived
(R170, R52). -/
def State.confirmed (s : State) (x : Flush) : Bool :=
  (s.tile x.tile).work.running.all (fun r => ! r.cmd.ofStep x.ctx x.tag) &&
  (s.mail.notices ++ s.mail.reports).all fun y => ! (y.tile = x.tile && y.ctx = x.ctx && y.tag = x.tag && y.piece)

def execFlushConfirm (t : Tile) (s : State) : Result :=
  .next (
    if ! s.moving then s
    else match takeFirst (fun (x : Flush) => (match s.homeOf x.ctx with | some h => h.1 = t.val && s.pathClear x.tile t | none => false) && s.confirmed x) s.mail.confirms with
      | none => s
      | some (x, rest) =>
        let s1 := { s with mail := { s.mail with confirms := rest } }
        match s1.tagStep? x.ctx x.tag with
        | none => s1
        | some p =>
          let left := p.tally.awaiting.erase x.tile
          let s2 := s1.onTally x.ctx p.stepno fun y => { y with awaiting := left }
          if left.isEmpty then s2.flushed x.ctx p.stepno else s2)

/-! ### Replay (R176) -/

/-- The counts of a step begin anew with its code; the replays made stay counted. -/
def Tally.again (y : Tally) : Tally :=
  { y with issued := 0, received := 0, tiles := [], awaiting := [], status := 0, further := 0, noted := 0,
           failLayop := 0xFFFFFFFF#32, failTile := 0, failPiece := false }

/-- No later step of the context is being flushed, so that none returns the counters to the waypoint any more (R83). -/
def State.settled (s : State) (c : Nat) (no : BitVec 32) : Bool :=
  (s.laterSteps c no).all fun p => match p.phase with | .flushing _ => false | _ => true

/-- The first step of a context that is restored and may run its code. -/
def State.restorable (s : State) (c : Nat) : Option Step :=
  match s.ctx? c with
  | some x => x.steps.find? fun p => p.phase = .restoring && s.codeFree c p.stepno && s.settled c p.stepno
  | none => none

/-! ### Commit (R168) -/

/-- The reference after a committed step (R168). -/
def nwRef (cfg old : Word) (b : Bank) : Word :=
  let steps := bits old 32 6
  let now := rms32 b.sqm b.sqe b.n
  let ref : BitVec 32 := old.setWidth 32
  let half : BitVec 32 := BitVec.ofNat 32 ((127 - (nwS cfg + 1)) * 2 ^ 23)
  let new := if steps = 0 then now else vAdd ref (vMul (vSub now ref) half)
  pack [(0, new.toNat), (32, min 63 (steps + 1))]

/-- Commit one pending bank. -/
def State.commitBank (s : State) (t : Nat) (valid : Bool) (b : Bank) : State :=
  let o := 0x400 + 0x30 * b.entry
  let s1 := (((s.tcount t (o + 0x10) b.sat).tcount t (o + 0x18) b.zero).tcount t (o + 0x20) b.nonfin).tcount t (o + 0x28) b.jumps
  let s2 := if b.zero = 0 then s1 else s1.orReg (tileBase t + 0x700) (2 ^ b.entry)
  if valid && b.n != 0 then s2.setTreg t (o + 8) (nwRef (s2.nwCfg t b.entry) (s2.treg t (o + 8)) b) else s2

def State.takeCommit (s : State) (x : Commit) : State :=
  let mine := (s.tile x.tile).work.banks.filter fun b => b.tag = x.tag && bits (s.nwCfg x.tile b.entry) 16 12 = x.ctx
  (mine.foldl (fun acc b => acc.commitBank x.tile x.valid b) s).discardBanks x.tile x.ctx x.tag

def execNwCommit (t : Tile) (s : State) : Result :=
  .next (
    if ! s.moving then s
    else match takeFirst (fun (x : Commit) => x.tile = t.val && s.fromHome x.ctx t) s.mail.commits with
      | none => s
      | some (x, rest) => { s with mail := { s.mail with commits := rest } }.takeCommit x)

end Sys2Proof.Machine
end

