-- ==== Sys2Proof/Machine/Kv.lean ====
section
/-! DEFINITION. The KV pool (chapter 8): metadata layout, admission of a step's sequences (R217 to R219), replay (R220),
completion (R221), KV operations (R222), and the fall-back bitmap of the spill reserve (R263, R273, R274). Every access is the
device's own (R544, R547). -/

namespace Sys2Proof.Machine

open Sys2Proof

/-! ### Layout (R213) -/

/-- Bytes of a slot's page list: `S`. -/
def Pool.listSize (p : Pool) : Nat := up64 (8 * (p.maxPages + 1))
def Pool.lists (p : Pool) : Nat := 64 + up64 (32 * p.slots)
def Pool.counts (p : Pool) : Nat := p.lists + p.listSize * p.slots
def Pool.stack (p : Pool) : Nat := p.counts + up64 (4 * p.pages)
def Pool.size (p : Pool) : Nat := p.stack + up64 (4 * p.pages)

/-- Addresses in the metadata area. -/
def Pool.entryAt (p : Pool) (slot : Nat) : Nat := p.info + 64 + 32 * slot
def Pool.listAt (p : Pool) (slot : Nat) : Nat := p.info + p.lists + slot * p.listSize
def Pool.countAt (p : Pool) (page : Nat) : Nat := p.info + p.counts + 4 * page
def Pool.stackAt (p : Pool) (i : Nat) : Nat := p.info + p.stack + 4 * i

/-- A page's CVA, and the page of a CVA. -/
def Pool.pageBytes (p : Pool) : Nat := p.lp * 32768
def Pool.pageCva (p : Pool) (i : Nat) : Nat := p.area + i * p.pageBytes
def Pool.pageOf (p : Pool) (cva : Nat) : Nat := (cva - p.area) / p.pageBytes

/-! ### Device accesses of whole numbers -/

/-- Read an `n`-byte number. -/
def State.devGet (s : State) (c cva n : Nat) : State × Except Status Nat :=
  thenDo (s.devRead c cva n) fun s1 bs => (s1, .ok (ofBytes bs))

/-- Write an `n`-byte number. -/
def State.devPut (s : State) (c cva n v : Nat) : State × Except Status Unit := s.devWrite c cva (bytesOf n v)

/-- Do a list of things in order; the first failure ends it. -/
def eachDo {α : Type} (s : State) (xs : List α) (f : State → α → State × Except Status Unit) : State × Except Status Unit :=
  xs.foldl (fun acc x => thenDo acc fun s1 _ => f s1 x) (s, .ok ())

/-! ### Length entries (Table 8-5) -/

/-- A length entry's word 0. -/
def kvState (w : Word) : Nat := bits w 62 2
def kvCancel (w : Word) : Bool := tst w 61
def kvPages (w : Word) : Nat := bits w 24 14
def kvLength (w : Word) : Nat := bits w 0 24
def kvWord (st : Nat) (cancel : Bool) (n len : Nat) : Word := pack [(62, st), (61, b2n cancel), (24, n), (0, len)]

def State.kvEntry (s : State) (c : Nat) (p : Pool) (slot : Nat) : State × Except Status Word :=
  thenDo (s.devRead c (p.entryAt slot) 32) fun s1 bs => (s1, .ok ((wordsOf 1 bs).getD 0 0))

/-- The CVA of local page `j` of a slot. -/
def State.kvPage (s : State) (c : Nat) (p : Pool) (slot j : Nat) : State × Except Status Nat := s.devGet c (p.listAt slot + 8 + 8 * j) 8

/-- The count of the page at a CVA. -/
def State.kvCount (s : State) (c : Nat) (p : Pool) (cva : Nat) : State × Except Status Nat := s.devGet c (p.countAt (p.pageOf cva)) 4

/-- The page CVAs of a slot's list. -/
def State.kvList (s : State) (c : Nat) (p : Pool) (slot n : Nat) : State × Except Status (List Nat) :=
  if n = 0 then (s, .ok [])
  else thenDo (s.devRead c (p.listAt slot + 8) (8 * n)) fun s1 bs => (s1, .ok ((wordsOf n bs).map BitVec.toNat))

/-! ### Pages -/

/-- Take the top page of the free stack. -/
def State.kvPop (s : State) (c : Nat) (p : Pool) : State × Except Status Nat :=
  thenDo (s.devGet c p.info 4) fun s1 f =>
    thenDo (s1.devGet c (p.stackAt (f - 1)) 4) fun s2 q =>
      thenDo (s2.devPut c p.info 4 (f - 1)) fun s3 _ => (s3, .ok q)

/-- One reference fewer; a page without one returns to the free stack (R217). -/
def State.kvDrop (s : State) (c : Nat) (p : Pool) (cva : Nat) : State × Except Status Unit :=
  let i := p.pageOf cva
  thenDo (s.devGet c (p.countAt i) 4) fun s1 n =>
    thenDo (s1.devPut c (p.countAt i) 4 (n - 1)) fun s2 _ =>
      if n ≤ 1 then
        thenDo (s2.devGet c p.info 4) fun s3 f =>
          thenDo (s3.devPut c (p.stackAt f) 4 i) fun s4 _ => s4.devPut c p.info 4 (f + 1)
      else (s2, .ok ())

/-- One reference more. -/
def State.kvKeep (s : State) (c : Nat) (p : Pool) (cva : Nat) : State × Except Status Unit :=
  thenDo (s.devGet c (p.countAt (p.pageOf cva)) 4) fun s1 n => s1.devPut c (p.countAt (p.pageOf cva)) 4 (n + 1)

/-! ### Admission (R218, R219) -/

/-- A sequence entry as the check phase found it. -/
structure KvUse where
  entry : Nat
  slot : Nat
  add : Nat
  n : Nat
  want : Nat
  cow : Bool
  len : Nat
  cancel : Bool

/-- Check one entry: everything that it reads, and every block that the apply phase will write for it (R547). -/
def State.kvCheckOne (s : State) (c : Nat) (p : Pool) (entry : Nat) (seen : List Nat) : State × Except Status KvUse :=
  thenDo (s.devRead c entry 16) fun s1 bs =>
    let w := (wordsOf 1 bs).getD 0 0
    let slot := bits w 24 16
    let a := bits w 0 24
    if p.slots ≤ slot || bits w 40 24 != 0 then (s1, .error 0x2041)
    else
      thenDo (s1.kvEntry c p slot) fun s2 e =>
        let n := kvPages e
        let want := cdiv (kvLength e + a) 128
        let j0 := kvLength e / 128
        if kvState e = 0 then (s2, .error 0x4042)
        else if kvState e = 2 || seen.contains slot then (s2, .error 0x4041)
        else if p.maxPages < want then (s2, .error 0x4043)
        else
          thenDo (s2.devRead c (p.listAt slot) (8 * (max n want + 1))) fun s3 _ =>
            thenDo (s3.kvList c p slot n) fun s4 list =>
              let counts := list.foldl (fun acc q => thenDo acc fun s5 ns => thenDo (s5.kvCount c p q) fun s6 k => (s6, .ok (ns ++ [k])))
                ((s4, .ok []) : State × Except Status (List Nat))
              thenDo counts fun s5 ns =>
                (s5, .ok ⟨entry, slot, a, n, want, a != 0 && j0 < n && 2 ≤ ns.getD j0 0, kvLength e, kvCancel e⟩)

/-- Check a step's entries in list order, then the pages they need (R219). -/
def State.kvCheck (s : State) (c : Nat) (p : Pool) (list count : Nat) : State × Except Status (List KvUse) :=
  let go := (List.range count).foldl (fun acc i =>
    thenDo acc fun s1 us => thenDo (s1.kvCheckOne c p (list + 16 * i) (us.map KvUse.slot)) fun s2 u => (s2, .ok (us ++ [u])))
    ((s, .ok []) : State × Except Status (List KvUse))
  thenDo go fun s1 us =>
    let need := us.foldl (fun k u => k + (u.want - u.n) + b2n u.cow) 0
    thenDo (s1.devGet c p.info 4) fun s2 f =>
      if f < need then (s2, .error 0x4040)
      else
        thenDo (eachDo s2 (List.range need) fun s3 i =>
          thenDo (s3.devGet c (p.stackAt (f - 1 - i)) 4) fun s4 q => thenDo (s4.devGet c (p.countAt q) 4) fun s5 _ => (s5, .ok ()))
          fun s3 _ => (s3, .ok us)

/-- A fresh page with a count of 1. -/
def State.kvFresh (s : State) (c : Nat) (p : Pool) : State × Except Status Nat :=
  thenDo (s.kvPop c p) fun s1 q => thenDo (s1.devPut c (p.countAt q) 4 1) fun s2 _ => (s2, .ok (p.pageCva q))

/-- Copy-on-write of the page that the append begins in: the copy, the new page's count, the list, then the drop. -/
def State.kvCow (s : State) (c : Nat) (p : Pool) (u : KvUse) : State × Except Status Unit :=
  let j0 := u.len / 128
  thenDo (s.kvPage c p u.slot j0) fun s1 old =>
    thenDo (s1.kvPop c p) fun s2 q =>
      match s2.copyBytes c (cvaOperand old) (cvaOperand (p.pageCva q)) p.pageBytes with
      | (s3, some st) => (s3, .error st)
      | (s3, none) =>
        thenDo (s3.devPut c (p.countAt q) 4 1) fun s4 _ =>
          thenDo (s4.devPut c (p.listAt u.slot + 8 + 8 * j0) 8 (p.pageCva q)) fun s5 _ => s5.kvDrop c p old

/-- Apply one entry. Word 1 of the list entry is written whole, so that its ignored bits [55:25] become 0 (DESIGN CHOICE, log 128). -/
def State.kvApplyOne (s : State) (c : Nat) (p : Pool) (no : BitVec 32) (u : KvUse) : State × Except Status Unit :=
  thenDo (if u.cow then s.kvCow c p u else (s, .ok ())) fun s1 _ =>
    thenDo (eachDo s1 (List.range (u.want - u.n)) fun s2 i =>
      thenDo (s2.kvFresh c p) fun s3 q =>
        thenDo (s3.devPut c (p.listAt u.slot + 8 + 8 * (u.n + i)) 8 q) fun s4 _ => s4.devPut c (p.listAt u.slot) 8 (u.n + i + 1)) fun s2 _ =>
      let n := max u.n u.want
      thenDo (s2.devPut c (p.entryAt u.slot) 8 (kvWord 2 u.cancel n u.len).toNat) fun s3 _ =>
        thenDo (s3.devPut c (p.entryAt u.slot + 16) 8 no.toNat) fun s4 _ =>
          thenDo (s4.devPut c (u.entry + 8) 8 u.add) fun s5 _ =>
            thenDo (s5.kvList c p u.slot n) fun s6 list => eachDo s6 list fun s7 q => s7.kvKeep c p q

def State.kvApply (s : State) (c : Nat) (p : Pool) (no : BitVec 32) (us : List KvUse) : State × Except Status Unit :=
  eachDo s us fun s1 u => s1.kvApplyOne c p no u

def KvUse.use (u : KvUse) : SeqUse := ⟨u.slot, u.add, u.entry⟩

/-! ### Replay (R220) -/

/-- Reset accepted and FINAL of every entry, with the word's ignored bits (DESIGN CHOICE, log 128). -/
def State.kvReset (s : State) (c : Nat) (us : List SeqUse) : State × Except Status Unit :=
  eachDo s us fun s1 u => s1.devPut c (u.entry + 8) 8 u.add

/-! ### The fall-back bitmap (R263, R273, R274) -/

def State.fallbackAt (s : State) (c slot : Nat) : Nat := s.reserve c + 0x1000 + slot / 8

/-- The fall-back bit of a sequence slot; a byte that cannot be read has none. -/
def State.fallbackBit (s : State) (c slot : Nat) : State × Bool :=
  match s.devGet c (s.fallbackAt c slot) 1 with
  | (s1, .ok v) => (s1, v.testBit (slot % 8))
  | (s1, .error _) => (s1, false)

/-- Write a byte of the bitmap as read, with the bit set or clear. -/
def State.putFallback (s : State) (c : Nat) (on : Bool) (slot v : Nat) : State × Except Status Unit :=
  let v1 := if v.testBit (slot % 8) = on then v else if on then v + 2 ^ (slot % 8) else v - 2 ^ (slot % 8)
  s.devPut c (s.fallbackAt c slot) 1 v1

/-- Set or clear the bit. -/
def State.setFallback (s : State) (c : Nat) (on : Bool) (slot : Nat) : State × Except Status Unit :=
  thenDo (s.devGet c (s.fallbackAt c slot) 1) fun s1 v => s1.putFallback c on slot v

/-- Whether any sequence of a list has its bit set. -/
def State.anyFallback (s : State) (c : Nat) (slots : List Nat) : State × Bool :=
  slots.foldl (fun acc k => let r := acc.1.fallbackBit c k; (r.1, acc.2 || r.2)) (s, false)

/-! ### Freeing (R221) -/

/-- Drop the owner references, zero the page list, and free the slot; its fall-back bit, in the byte `v`, clears. -/
def State.kvFree (s : State) (c : Nat) (p : Pool) (slot n v : Nat) : State × Except Status Unit :=
  thenDo (s.kvList c p slot n) fun s1 list =>
    thenDo (eachDo s1 list fun s2 q => s2.kvDrop c p q) fun s2 _ =>
      thenDo (s2.devWrite c (p.listAt slot) (List.replicate (8 * (n + 1)) 0)) fun s3 _ =>
        thenDo (s3.devPut c (p.entryAt slot) 8 0) fun s4 _ => s4.putFallback c false slot v

/-! ### Completion (R221, R547) -/

/-- Go on after a step that may fail, counting the failure. -/
def orCount (x : State × Except Status Unit) (k : Nat) : State × Nat :=
  match x.2 with
  | .ok () => (x.1, k)
  | .error _ => (x.1, k + 1)

/-- Do each of a list of updates; one that fails is left as it stands and counted (R547). -/
def eachCount {α : Type} (x : State × Nat) (xs : List α) (f : State → α → State × Except Status Unit) : State × Nat :=
  xs.foldl (fun acc y => orCount (f acc.1 y) acc.2) x

/-- Drop one reference of every page of a slot's list; each drop reads its own entry of the list. -/
def State.kvDropAll (s : State) (c : Nat) (p : Pool) (slot n k : Nat) : State × Nat :=
  eachCount (s, k) (List.range n) fun s1 j => thenDo (s1.kvPage c p slot j) fun s2 q => s2.kvDrop c p q

/-- Free a slot at completion, each update by itself. -/
def State.kvFreeAll (s : State) (c : Nat) (p : Pool) (slot n k : Nat) : State × Nat :=
  let a1 := s.kvDropAll c p slot n k
  let a2 := orCount (a1.1.devWrite c (p.listAt slot) (List.replicate (8 * (n + 1)) 0)) a1.2
  let a3 := orCount (a2.1.devPut c (p.entryAt slot) 8 0) a2.2
  orCount (a3.1.setFallback c false slot) a3.2

/-- Complete one entry; the word's ignored bits stay (DESIGN CHOICE, log 128): the state, failures so far, and whether it carries CANCEL_SEEN. -/
def State.kvFinishOne (s : State) (c : Nat) (p : Pool) (valid : Bool) (u : SeqUse) : State × Nat × Bool :=
  let r := s.devGet c (u.entry + 8) 8
  let w : Word := match r.2 with | .ok v => BitVec.ofNat 64 v | .error _ => BitVec.ofNat 64 u.add
  match r.1.kvEntry c p u.slot with
  | (s1, .error _) => (s1, 1, false)
  | (s1, .ok e) =>
    let n := kvPages e
    let accepted := bits w 0 24
    let acc := min accepted u.add
    let len := if valid then kvLength e + acc else kvLength e
    let complete := valid && tst w 24
    let free := complete || kvCancel e
    let flags := pack [(56, b2n valid), (57, b2n (valid && acc < u.add)), (58, b2n complete), (59, b2n (free && kvCancel e)),
      (60, b2n free), (61, b2n (valid && u.add < accepted))]
    let a1 := s1.kvDropAll c p u.slot n 0
    let a2 := if free then a1.1.kvFreeAll c p u.slot n a1.2
      else orCount (a1.1.devPut c (p.entryAt u.slot) 8 (kvWord 1 false n len).toNat) a1.2
    let a3 := orCount (a2.1.devPut c (u.entry + 8) 8 (pack [(0, bits w 0 56)] ||| flags).toNat) a2.2
    (a3.1, a3.2, free && kvCancel e)

/-- Complete a step's sequences in list order: the failures, and whether any entry carries CANCEL_SEEN. -/
def State.kvFinish (s : State) (c : Nat) (valid : Bool) (us : List SeqUse) : State × Nat × Bool :=
  match s.ctx? c with
  | some x =>
    (match x.cr.pool with
     | some p => us.foldl (fun acc u =>
         let r := acc.1.kvFinishOne c p valid u
         (r.1, acc.2.1 + r.2.1, acc.2.2 || r.2.2)) (s, 0, false)
     | none => (s, 0, false))
  | none => (s, 0, false)

/-! ### KV operations (R222) -/

/-- Operation, source, target and p of a KV record (Table 8-8). -/
def kvOp (ws : List Word) : Nat := bits (ws.getD 1 0) 56 8
def kvSource (ws : List Word) : Nat := bits (ws.getD 1 0) 24 16
def kvTarget (ws : List Word) : Nat := bits (ws.getD 1 0) 0 16
def kvP (ws : List Word) : Nat := bits (ws.getD 2 0) 0 24

/-- Check 1: a legal operation, the RSV fields, the slots, the unused fields. -/
def kvLegal (p : Pool) (ws : List Word) : Bool :=
  let op := kvOp ws
  1 ≤ op && op ≤ 3 && bits (ws.getD 0 0) 0 55 = 0 && bits (ws.getD 1 0) 40 16 = 0 && bits (ws.getD 1 0) 16 8 = 0 &&
    bits (ws.getD 2 0) 24 40 = 0 && (ws.drop 3).all (· = 0) && kvTarget ws < p.slots &&
    (if op = 2 then kvSource ws < p.slots else kvSource ws = 0 && kvP ws = 0)

/-- OPEN. -/
def State.kvOpenSlot (s : State) (c : Nat) (p : Pool) (target : Nat) : State × Except Status Unit :=
  thenDo (s.kvEntry c p target) fun s1 e =>
    if kvState e != 0 then (s1, .error 0x2042)
    else thenDo (s1.devGet c (s1.fallbackAt c target) 1) fun s2 v =>
      thenDo (s2.devPut c (p.entryAt target) 8 (kvWord 1 false 0 0).toNat) fun s3 _ => s3.putFallback c false target v

/-- FORK: the first pages are shared. -/
def State.kvForkSlot (s : State) (c : Nat) (p : Pool) (source target n : Nat) : State × Except Status Unit :=
  thenDo (s.kvEntry c p target) fun s1 e =>
    if kvState e != 0 then (s1, .error 0x2042)
    else thenDo (s1.kvEntry c p source) fun s2 x =>
      if kvState x = 0 then (s2, .error 0x4042)
      else if kvState x = 2 then (s2, .error 0x4041)
      else if n < 1 || kvLength x < n then (s2, .error 0x2042)
      else
        let k := cdiv n 128
        thenDo (s2.kvList c p source k) fun s3 list =>
          thenDo (eachDo s3 list fun s4 q => thenDo (s4.kvCount c p q) fun s5 _ => (s5, .ok ())) fun s4 _ =>
            thenDo (s4.devRead c (p.listAt target) (8 * (k + 1))) fun s5 _ =>
              thenDo (s5.devGet c (s5.fallbackAt c target) 1) fun s6 v =>
                thenDo (s6.devWrite c (p.listAt target) (wordBytes ((k :: list).map (BitVec.ofNat 64)))) fun s7 _ =>
                  thenDo (eachDo s7 list fun s8 q => s8.kvKeep c p q) fun s8 _ =>
                    thenDo (s8.devPut c (p.entryAt target) 8 (kvWord 1 false k n).toNat) fun s9 _ => s9.putFallback c false target v

/-- CANCEL: an Open sequence is freed, an In-step one is marked. -/
def State.kvCancelSlot (s : State) (c : Nat) (p : Pool) (target : Nat) : State × Except Status Unit :=
  thenDo (s.kvEntry c p target) fun s1 e =>
    if kvState e = 0 then (s1, .error 0x4042)
    else if kvState e = 2 then s1.devPut c (p.entryAt target) 8 (kvWord 2 true (kvPages e) (kvLength e)).toNat
    else
      thenDo (s1.devRead c (p.listAt target) (8 * (kvPages e + 1))) fun s2 bs =>
        let list := ((wordsOf (kvPages e + 1) bs).drop 1).map BitVec.toNat
        thenDo (eachDo s2 list fun s3 q => thenDo (s3.kvCount c p q) fun s4 _ => (s4, .ok ())) fun s3 _ =>
          thenDo (s3.devGet c p.info 4) fun s4 _ =>
            thenDo (s4.devGet c (s4.fallbackAt c target) 1) fun s5 v => s5.kvFree c p target (kvPages e) v

end Sys2Proof.Machine
end

