-- ==== Sys2Proof/Machine/Steps.lean ====
section
/-! DEFINITION. Steps on their way through the home tile: discovery by the sweep (R248 to R252), record fetch (R376, R546),
admission (R172 to R174, R377, R385), start and restart of code, completion (R61, R62, R221, R378), KV and NOP records, Lodestar
(R270 to R276). -/

namespace Sys2Proof.Machine

open Sys2Proof

/-! ### The sweep -/

/-- Steps of a context that are in flight (R60). -/
def Ctx.flights (x : Ctx) : Nat := x.steps.countP Step.inFlight

/-- Steps that a context's home tile holds: in flight, or with its waypoint being saved. A third waits in the home slot as a
record (R546; DEDUCED, log 94). -/
def Ctx.holds (x : Ctx) : Nat := x.steps.countP Step.held

/-- A context is swept (R249, R373, R374). -/
def Ctx.swept (x : Ctx) : Bool := x.st = .running && ! x.destroying && x.flights < 2

/-- The swept contexts whose tail words lie in a line, in order. -/
def State.lineCtxs (s : State) (line : Nat) : List (Nat × Ctx) := s.ctxs.filter fun p => p.1 / 8 = line && p.2.swept

/-- The shortest interval of a list of contexts, in µs; 64 for none. -/
def shortest (xs : List (Nat × Ctx)) : Nat := xs.foldl (fun m p => min m p.2.ring.interval) 64

/-- The stretch s of `HI_SWEEP`; 1 before it is first computed (R251). -/
def State.stretch (s : State) : Num :=
  let v : BitVec 32 := (s.reg (hiBase + 0x050)).setWidth 32
  if v = 0 then Num.ofInt 1 else f32 v

/-- An interval in µs, multiplied by s, has passed since a time (R251). -/
def State.intervalPast (s : State) (since : Word) (us : Nat) : Bool :=
  ! Num.lt (Num.ofInt (s.chron - since).toNat) (Num.mul (Num.ofInt (1000 * us)) s.stretch)

/-- A line falls due: never read yet, or its shortest interval is over (R250). -/
def State.lineDue (s : State) (line : Nat) : Bool :=
  ! (s.lineCtxs line).isEmpty &&
    (match FMap.find? s.mgmt.swept line with
     | some a => s.intervalPast a (shortest (s.lineCtxs line))
     | none => true)

/-- When a line falls due; one never read comes before every other. -/
def State.dueAt (s : State) (line : Nat) : Num :=
  match FMap.find? s.mgmt.swept line with
  | some a => Num.add .rne (Num.ofInt a.toNat) (Num.mul (Num.ofInt (1000 * shortest (s.lineCtxs line))) s.stretch)
  | none => Num.ofInt (-1)

/-- Due lines are read in order of due time, and the lower context ID goes first on a tie (R250). -/
def State.lineFirst (s : State) (line : Nat) : Bool :=
  (s.ctxs.map fun p => p.1 / 8).all fun l =>
    ! s.lineDue l || Num.lt (s.dueAt line) (s.dueAt l) || (line ≤ l && ! Num.lt (s.dueAt l) (s.dueAt line))

/-- The host line that holds the tail words of eight contexts (R376). -/
def State.tailLine (s : State) (line : Nat) : Nat := (s.reg (hiBase + 0x018)).toNat + 64 * line

/-- What a sweep of a context's tail does to its interval (R249). -/
def Ring.sweep (r : Ring) (tail : BitVec 32) : Ring :=
  let r1 := { r with hold := false }
  if tail != r.tail then { r1 with tail := tail, interval := 2, unchanged := 0 }
  else if 32 ≤ r.unchanged + 1 then { r1 with interval := min 64 (2 * r.interval), unchanged := 0 }
  else { r1 with unchanged := r.unchanged + 1 }

/-- More records are announced than the ring holds (R376). -/
def Ctx.overrun (x : Ctx) : Bool := x.size < (x.ring.tail - x.ring.fetched).toNat

/-- The sweep of one context. -/
def State.sweepCtx (s : State) (c : Nat) (tail : BitVec 32) : State :=
  let s1 := s.onCtx c fun x => { x with ring := x.ring.sweep tail }
  match s1.ctx? c with
  | some x => if x.overrun then s1.faultCtx c 0x2101 else s1
  | none => s1

/-- A sweep read (R250): a failed one is counted, and never starts a step (R252). -/
def execSweepRead (line : Fin 512) (ok : Bool) (s : State) : Result :=
  .next (
    if ! s.sweeps || ! s.lineDue line || ! s.lineFirst line || ! s.hostReadFree then s
    else
      let s1 := ({ s with mgmt := { s.mgmt with swept := FMap.insert s.mgmt.swept line s.chron } }).count (hiBase + 0x100) 1
      let a := s.tailLine line
      if ! ok || s.refusesAny pf0Space a 64 then (s1.count (hiBase + 0x108) 1).count (hiBase + 0x118) 1
      else (s.lineCtxs line).foldl (fun acc p =>
        acc.sweepCtx p.1 (BitVec.ofNat 32 (ofBytes (s.hostRead pf0Space (a + 8 * (p.1 % 8)) 4)))) s1)

/-- Rate of the link in GT/s, doubled (Table 14-16). -/
def rateDouble (code : Nat) : Nat :=
  match code with
  | 1 => 5 | 2 => 10 | 3 => 16 | 4 => 32 | 5 => 64 | 6 => 128 | 7 => 256
  | _ => 0

/-- The sweep demand in reads a second: lines with swept contexts, and the management tail (R251, R370). -/
def State.demand (s : State) : Nat :=
  (List.range 512).foldl (fun n l => let xs := s.lineCtxs l; if xs.isEmpty then n else n + 1000000 / shortest xs)
    (if tst (s.reg (hiBase + 0x040)) 16 then 500000 else 0)

/-- The budget in reads a second: 2 % of the negotiated rate, 64 bytes a read. -/
def State.budget (s : State) : Nat := rateDouble (bits (s.reg hiBase) 0 4) * bits (s.reg hiBase) 4 6 * 78125 / 4

/-- Every 64 µs: demand and stretch (R251). -/
def execSweepStretch (s : State) : Result :=
  .next (
    if ! s.sweeps || ! s.due 14 64000 then s
    else
      let d := s.demand
      let b := s.budget
      let st := if b < d then codeF32 (Enc.fp32.div .rne (Num.ofInt d) (Num.ofInt b)) else 0x3F800000#32
      (s.acted 14).setReg (hiBase + 0x050) (pack [(32, d / 1000), (0, st.toNat)]))

/-! ### Record fetch (R546) -/

/-- Records of the next fetch: up to 8, up to the tail and the ring's end. -/
def Ctx.fetchCount (x : Ctx) : Nat := min 8 (min (x.ring.tail - x.ring.fetched).toNat (x.size - x.ring.fetched.toNat % x.size))

def execRecordFetch (c : CtxId) (s : State) : Result :=
  .next (match s.ctx? c.toNat with
    | some x =>
      if s.sweeps && s.hostReadFree && x.swept && x.home.isSome && x.ring.fetching.isNone && x.ring.waiting.isEmpty && ! x.ring.hold &&
          x.ring.tail != x.ring.fetched && ! x.overrun then
        s.onCtx c.toNat fun x => { x with ring := { x.ring with fetching := some x.fetchCount } }
      else s
    | none => s)

/-- The host address space of a context (R367). -/
def Ctx.space (x : Ctx) : Nat := hostSpace x.cr.fn.toNat x.cr.pasid.toNat

/-- The records of a fetch, with their ring indices. -/
def State.fetchedRecords (s : State) (x : Ctx) (n : Nat) : List (Nat × List Word) :=
  (List.range n).map fun i =>
    let k := x.ring.fetched.toNat + i
    (k % 2 ^ 32, wordsOf 8 (s.hostRead x.space ((x.cr.ring + 64 * (k % x.size)) % 2 ^ 47) 64))

/-- A failed fetch is tried again at the next sweep; the eighth in a row faults the context (R376). -/
def State.fetchFailed (s : State) (c : Nat) (x : Ctx) : State :=
  let s1 := s.onCtx c fun x => { x with ring := { x.ring with fetching := none, fails := x.ring.fails + 1, hold := true } }
  if 8 ≤ x.ring.fails + 1 then s1.faultCtx c 0x6100 else s1

/-- A fetch ends. -/
def execRecordFetchDone (c : CtxId) (ok : Bool) (s : State) : Result :=
  .next (match s.ctx? c.toNat with
    | some x =>
      (match x.ring.fetching with
       | none => s
       | some n =>
         let a := (x.cr.ring + 64 * (x.ring.fetched.toNat % x.size)) % 2 ^ 47
         if ! s.moving then s
         else if ok && s.linkUp && ! s.refusesAny x.space a (64 * n) then
           let rs := s.fetchedRecords x n
           (s.onCtx c.toNat fun x => { x with ring := { x.ring with
             fetching := none, fetched := x.ring.fetched + BitVec.ofNat 32 n, fails := 0, waiting := x.ring.waiting ++ rs } }).count (hiBase + 0x110) n
         else
           (s.count (hiBase + 0x118) 1).fetchFailed c.toNat x)
    | none => s)

/-! ### Records (Tables 14-9 and 14-10) -/

def recType (ws : List Word) : Nat := bits (ws.getD 0 0) 56 8
def recSeqs (ws : List Word) : Nat := bits (ws.getD 5 0) 48 16
def recList (ws : List Word) : Nat := bits (ws.getD 5 0) 0 48
def recChart (ws : List Word) : Nat := bits (ws.getD 6 0) 56 8
def recGen (ws : List Word) : Nat := bits (ws.getD 6 0) 40 16
def recPinAdd (ws : List Word) : Nat := bits (ws.getD 7 0) 48 16
def recPinDrop (ws : List Word) : Nat := bits (ws.getD 7 0) 32 16

/-- Check 1 of R377: type, RSV fields, alignment and ranges. -/
def recOk (ws : List Word) : Bool :=
  recType ws = 1 && bits (ws.getD 0 0) 48 7 = 0 && bits (ws.getD 0 0) 0 8 = 0 && bits (ws.getD 1 0) 48 16 = 0 &&
  recEntry ws % 4 = 0 && bits (ws.getD 2 0) 48 16 = 0 && bits (ws.getD 4 0) 48 16 = 0 && recSeqs ws ≤ 8192 && recList ws % 16 = 0 &&
  (recChart ws ≤ 63 || recChart ws = 0xFF) && bits (ws.getD 6 0) 0 40 = 0 && bits (ws.getD 7 0) 0 32 = 0 &&
  (recChart ws != 0xFF || (recPinAdd ws = 0 && recPinDrop ws = 0))

/-- The words of a completion record (Table 14-10). -/
def completionWords (type : Nat) (st : Status) (further replays : Nat) (noted : BitVec 16) (index : Nat) (stepno : BitVec 32)
    (start now : Word) (chart gen : Nat) (layop : BitVec 32) (tile : Nat) : List Word :=
  [ pack [(56, type), (32, st.toNat), (24, further), (21, replays), (0, noted.toNat)], pack [(32, index), (0, stepno.toNat)],
    start, now, pack [(56, chart), (40, gen)], pack [(32, layop.toNat), (22, tile)], 0, 0 ]

/-- A context may process its next record: the record and the ring index (R60, R546; DEDUCED, log 94). -/
def State.nextRecord (s : State) (c : Nat) : Option (Ctx × Nat × List Word) :=
  match s.ctx? c with
  | some x =>
    if s.moving && s.normal && x.st = .running && ! x.destroying && x.home.isSome && x.holds < 2 then x.ring.waiting.head?.map fun r => (x, r.1, r.2)
    else none
  | none => none

/-- The record at the front has been processed. -/
def State.tookRecord (s : State) (c : Nat) : State :=
  s.onCtx c fun x => { x with ring := { x.ring with waiting := x.ring.waiting.drop 1 } }

/-! ### Chart generations at steps (R385) -/

/-- Generations of a chart. -/
def Ctx.gens (x : Ctx) (k : Nat) : List Gen := (FMap.get Chart.empty x.charts k).gens

/-- The generation that a step's fields name: 0 for the Current one (R384). -/
def Ctx.resolve (x : Ctx) (k g : Nat) : Option Gen :=
  (x.gens k).find? fun y => if g = 0 then y.st = .current else y.num = g

/-- Pins of a generation: its requests and its admitted steps. -/
def Gen.held (y : Gen) : Nat := y.pins + y.steps

def State.onGen (s : State) (c k num : Nat) (f : Gen → Gen) : State :=
  s.onCtx c fun x =>
    let ch := FMap.get Chart.empty x.charts k
    { x with charts := FMap.put Chart.empty x.charts k { ch with gens := ch.gens.map fun y => if y.num = num then f y else y } }

/-- A generation that holds a state or pins. -/
def Ctx.gen? (x : Ctx) (k num : Nat) : Option Gen := (x.gens k).find? fun y => y.num = num

/-- A Retiring generation without pins becomes Retired, with its event (R385). -/
def State.settleGen (s : State) (c k num : Nat) : State :=
  match s.ctx? c with
  | some x =>
    (match x.gen? k num with
     | some y => if y.st = .retiring && y.held = 0 then
         (s.onGen c k num fun y => { y with st := .retired }).event (logEntry 0x31 0 0xFFFFFFFF c 0 k num)
       else s
     | none => s)
  | none => s

/-- The checks of R385 on a step record: the generation's number, none for a step without a chart. -/
def Ctx.chartCheck (x : Ctx) (ws : List Word) : Except Status (Option Nat) :=
  if recChart ws = 0xFF then .ok none
  else match x.resolve (recChart ws) (recGen ws) with
    | none => .error 0x2110
    | some y =>
      if ! (y.st = .ready || y.st = .current || (y.st = .retiring && y.held != 0)) then .error 0x2110
      else if y.pins - y.reserved < recPinDrop ws then .error 0x2111
      else if 2 ^ 24 - 1 < y.pins + recPinAdd ws then .error 0x4111
      else .ok (some y.num)

/-! ### Waypoint lists (R172 to R174) -/

/-- A save entry, if its three words are legal: a region in a scratchpad of the grid or in device memory, unused bits zero, whole
64-byte blocks. R174 lists no such case: the model gives it `0x2021` too (DESIGN CHOICE, log 28). -/
def readSave (ws : List Word) : Option Save :=
  let w := ws.getD 0 0
  let a := ws.getD 1 0
  let n := (ws.getD 2 0).toNat
  let o : Operand := Operand.ofWord w
  let place := if o.cls = 0 then o.addr.toNat < 2 ^ 36 && o.spTile < 640 else o.cls = 1 && o.addr.toNat < 2 ^ 48
  if place && bits w 56 6 = 0 && bits a 47 17 = 0 && n % 64 = 0 then some ⟨o, a.toNat, n⟩ else none

/-- A recompute entry is legal: an FP32 master and a block-scaled copy of its shape, not T2 (R174). A master of another format, or
descriptor words that spell no legal descriptor, give `0x2021` too (DESIGN CHOICE, log 28). -/
def recompOk (ws : List Word) : Bool :=
  match Desc.read (ws.take 4), Desc.read (ws.drop 4) with
  | some m, some k => m.fmt = 0 && Fmt.block k.fmt && k.fmt != 10 && m.rows = k.rows && m.cols = k.cols && m.batch = k.batch
  | _, _ => false

/-- Every element of a list of options, if all are there. -/
def allSome {α : Type} : List (Option α) → Option (List α)
  | [] => some []
  | some x :: xs => (allSome xs).map (x :: ·)
  | none :: _ => none

/-- The waypoint that a list's 1,024 bytes spell (Table 6-2). -/
def readWaypoint (bs : List Byte) : Option Waypoint :=
  let ws := wordsOf 128 bs
  let h := ws.getD 0 0
  let v := bits h 0 8
  let n := bits h 8 8
  let re := (List.range n).map fun c => (ws.drop (64 + 8 * c)).take 8
  if 16 < v || 8 < n || bits h 19 45 != 0 || ! ((ws.drop 49).take 15).all (· = 0) || ! re.all recompOk then none
  else match allSome ((List.range v).map fun i => readSave ((ws.drop (1 + 3 * i)).take 3)) with
    | some saves => if (saves.map (·.bytes)).sum ≤ 2 ^ 22 then some ⟨bits h 16 3, [], saves, re⟩ else none
    | none => none

/-- Read the waypoint list of a home slot; without one the waypoint holds the counters alone. -/
def State.takeWaypoint (s : State) (c : Nat) (home : Nat × Nat) : State × Except Status Waypoint :=
  let a := bits (s.treg home.1 (0x900 + 8 * home.2)) 0 48
  if a = 0 then (s, .ok .none)
  else
    thenDo (s.cvaParts c a 1024 .read) fun s1 ps =>
      thenDo (s1.readParts c true ps) fun s2 bs =>
        match readWaypoint bs with
        | some w => (s2, .ok w)
        | none => (s2, .error 0x2021)

/-! ### Admission (R377) -/

def Tally.start : Tally := ⟨0, 0, [], [], 0, 0, 0, 0xFFFFFFFF#32, 0, false, 0, 0⟩

/-- A step as its record begins it: nothing runs yet. -/
def newStep (no : BitVec 32) (index : Nat) (ws : List Word) (chart : Option (Nat × Nat)) : Step :=
  ⟨no, index, ws, .complete, false, none, .start, .none, ⟨0, 0, 0, false, false⟩, chart, false, 0, [], 0, false⟩

/-- A step ends at admission or at its saves: its status, acted on by class, never replayed (R92, R174, R377, R547). -/
def State.refuseStep (s : State) (c : Nat) (no : BitVec 32) (st : Status) : State :=
  let t := match s.homeOf c with | some h => h.1 | none => 0x3FF
  let s1 := (s.endStep c no st).logStatus st t 0 c 0xFFFFFFFF#32 no s.marks.spot
  if faulting st then s1.faultWith c no st else s1

/-- Sequences in flight in the package (R24). -/
def State.sequences (s : State) : Nat := s.ctxs.foldl (fun n p => p.2.steps.foldl (fun k q => k + q.seqs.length) n) 0

/-- What admission finds: the chart's generation, the sequences, the waypoint. -/
structure Admission where
  gen : Option Nat
  uses : List KvUse
  wp : Waypoint

/-- The KV check of a record: a list in a context without a pool is no list (R218). -/
def State.kvChecked (s : State) (c : Nat) (x : Ctx) (ws : List Word) : State × Except Status (List KvUse) :=
  if recSeqs ws = 0 then (s, .ok [])
  else match x.cr.pool with
    | none => (s, .error 0x2041)
    | some p => s.kvCheck c p (recList ws) (recSeqs ws)

/-- The checks of R377 before the chart's pass: record form, sequences in flight (R24). -/
def State.formCheck (s : State) (ws : List Word) : Option Status :=
  if ! recOk ws then some 0x2102
  else if 8192 < s.sequences + recSeqs ws then some 0x4002
  else none

/-- The chart and generation that a record resolves to, where its admission comes so far (R385). -/
def State.resolved (s : State) (x : Ctx) (ws : List Word) : Option (Nat × Nat) :=
  if (s.formCheck ws).isSome || recChart ws = 0xFF then none
  else (x.resolve (recChart ws) (recGen ws)).map fun y => (recChart ws, y.num)

/-- The checks of R377 in order; nothing has changed when one fails. -/
def State.admitChecks (s : State) (c : Nat) (x : Ctx) (home : Nat × Nat) (ws : List Word) : State × Except Status Admission :=
  match s.formCheck ws with
  | some st => (s, .error st)
  | none =>
    match x.chartCheck ws with
    | .error st => (s, .error st)
    | .ok gen =>
      thenDo (s.kvChecked c x ws) fun s1 us =>
        thenDo (s1.takeWaypoint c home) fun s2 wp => (s2, .ok ⟨gen, us, wp⟩)

/-- Apply an admission: the pool, the pins, the fall-back bit (R219, R274, R385). -/
def State.applyAdmission (s : State) (c : Nat) (x : Ctx) (no : BitVec 32) (ws : List Word) (a : Admission) : State × Except Status Unit :=
  let kv := match x.cr.pool with
    | some p => s.kvApply c p no a.uses
    | none => (s, .ok ())
  thenDo kv fun s1 _ =>
    let s2 := match a.gen with
      | some g => s1.onGen c (recChart ws) g fun y =>
          { y with pins := y.pins + recPinAdd ws, reserved := y.reserved + recPinDrop ws, steps := y.steps + 1 }
      | none => s1
    let fb := if recFallback ws = 0 then (s2, false) else s2.anyFallback c (a.uses.map KvUse.slot)
    (fb.1.onStep c no fun p => { p with
      phase := .saving, wp := { a.wp with counters := fb.1.takeCounters c }, pinned := a.gen.isSome,
      pinDrop := recPinDrop ws, seqs := a.uses.map KvUse.use, watch := { p.watch with fallback := fb.2 } }, .ok ())

/-- A step record, or a record of an unknown type, is admitted or refused. -/
def execStepAdmission (c : CtxId) (s : State) : Result :=
  .next (match s.nextRecord c.toNat with
    | some (x, i, ws) =>
      if recType ws = 2 || recType ws = 3 then s
      else
        let no := x.nextStep
        let s1 := (s.tookRecord c.toNat).onCtx c.toNat fun x =>
          { x with nextStep := no + 1, steps := x.steps ++ [newStep no i ws (s.resolved x ws)] }
        (match x.home with
         | none => s
         | some home =>
           match thenDo (s1.admitChecks c.toNat x home ws) fun s2 a => s2.applyAdmission c.toNat x no ws a with
           | (s2, .ok ()) => s2
           | (s2, .error st) => s2.refuseStep c.toNat no st)
    | none => s)

/-! ### The start of code (R60, R172) -/

/-- The first step of a context whose saves run and whose code may start. -/
def State.startable (s : State) (c : Nat) : Option Step :=
  match s.ctx? c with
  | some x => x.steps.find? fun p => p.phase = .saving && s.codeFree c p.stepno
  | none => none

/-- The save copies are acknowledged, the counters recorded, and the code starts. -/
def execWaypointSaved (c : CtxId) (s : State) : Result :=
  .next (match s.startable c.toNat with
    | none => s
    | some p =>
      if ! s.moving then s
      else match s.copySaves c.toNat false p.wp.saves with
        | (s1, some st) => s1.refuseStep c.toNat p.stepno st
        | (s1, none) =>
          (s1.onStep c.toNat p.stepno fun q => { q with wp := { q.wp with counters := s1.takeCounters c.toNat } }).startCode
            c.toNat p p.watch.fallback)

/-- The home tile restarts the code of a restored step, at the fall-back entry where Lodestar moved it there (R176, R273).
accepted and FINAL of its sequences are reset first (R220). A step that runs again with an earlier one takes its waypoint
counters anew (R83). -/
def execReplayRestart (c : CtxId) (s : State) : Result :=
  .next (match s.restorable c.toNat with
    | none => s
    | some p =>
      if ! s.moving then s
      else match s.kvReset c.toNat p.seqs with
        | (s1, .error st) => s1.refuseStep c.toNat p.stepno st
        | (s1, .ok ()) =>
          (s1.onStep c.toNat p.stepno fun q =>
            { q with tally := q.tally.again, generation := q.generation + 1,
                     wp := if q.rerun then { q.wp with counters := s1.takeCounters c.toNat } else q.wp }).startCode
            c.toNat p p.watch.fallback)

/-! ### Completion (R61, R62, R221, R271, R275, R276, R378) -/

/-- A step whose record may be written: every piece is in, or it was flushed, or it ended at admission (R61, R83). -/
def Step.finished (p : Step) : Bool :=
  match p.phase with
  | .running => p.ended && p.tally.received = p.tally.issued
  | .complete => true
  | _ => false

/-- The deadline D and the end of its grace (R270, R276), in Chronometer time. -/
def Step.deadline (p : Step) : Nat := (recDeadline p.words).toNat
def Step.graceEnd (p : Step) : Nat := p.deadline + 1000 * recG p.words

/-- A watched step is still in flight at D + G (R276): a step that has finished by then may still complete with
`DEADLINE_LATE` in that nanosecond. One whose abort without a replay is under way, or over, only waits for its record. -/
def Step.overdue (p : Step) (now : Word) : Bool :=
  watched p.words && p.codeStart.isSome && (if p.finished then decide (p.graceEnd < now.toNat) else decide (p.graceEnd ≤ now.toNat)) &&
  (match p.phase with | .running => true | .flushing r => r | .restoring => true | _ => false)

/-- Lodestar registers of a home slot. -/
def lsCfg (n : Nat) : Nat := 0xA00 + 0x20 * n
def lsU (n : Nat) : Nat := 0xA08 + 0x20 * n
def lsF (n : Nat) : Nat := 0xA10 + 0x20 * n

/-- `old + (new - old) * 2^-3` in FP32 (R271). -/
def learn (old new : BitVec 32) : BitVec 32 := vAdd old (vMul (vSub new old) 0x3E000000#32)

/-- Learn u from a run without fall-back and without replay, f from a fall-back run, of any step with or without a deadline
(R271). -/
def State.learnStep (s : State) (c : Nat) (p : Step) : State :=
  match s.homeOf c with
  | none => s
  | some (t, n) =>
    if p.watch.usedFallback then
      let v := codeF32 (Enc.fp32.div .rne (Num.ofInt (s.chron - p.watch.start).toNat) (Num.ofInt 1000))
      let old : BitVec 32 := (s.treg t (lsF n)).setWidth 32
      let new := if ((s.tile t).slot n).learnt then learn old v else v
      (s.setTreg t (lsF n) (new.setWidth 64)).onTile t fun x => x.onSlot n fun z => { z with learnt := true }
    else if p.tally.replays = 0 && p.generation = 0 && recP p.words != 0 then
      let v := codeF32 (Enc.fp32.div .rne (Num.ofInt (s.chron - p.codeStart.getD 0).toNat) (Num.ofInt (1000 * recP p.words)))
      let old : BitVec 32 := (s.treg t (lsU n)).setWidth 32
      s.setTreg t (lsU n) ((if old = 0 then v else learn old v).setWidth 64)
    else s

/-- The NOTED flags that completion adds. -/
def State.completionNotes (s : State) (p : Step) (seen : Bool) : List Status :=
  (if seen then [0x1020] else []) ++ (if p.watch.usedFallback then [0x1040] else []) ++
  (if watched p.words && p.codeStart.isSome && p.deadline < s.chron.toNat && s.chron.toNat ≤ p.graceEnd then [0x1041] else [])

/-- Release the pins of a step that took them (R385). -/
def State.releasePins (s : State) (c : Nat) (p : Step) : State :=
  match p.pinned, p.chart with
  | false, _ | _, none => s
  | true, some (k, g) =>
    (s.onGen c k g fun y => { y with pins := y.pins - p.pinDrop, reserved := y.reserved - p.pinDrop, steps := y.steps - 1 }).settleGen c k g

/-- Send the norm-watch commits of a step (R168). -/
def State.sendCommits (s : State) (c : Nat) (p : Step) (valid : Bool) : State :=
  { s with mail := { s.mail with commits := s.mail.commits ++ p.tally.tiles.map fun t => ⟨t, c, p.stepno.setWidth 2, valid⟩ } }

/-- Complete the oldest step of a context. -/
def State.completeStep (s : State) (c : Nat) (p : Step) : State :=
  let valid := classOf p.tally.status ≤ 1
  let kv := s.kvFinish c valid p.seqs
  let y0 := { p.tally with further := min 255 (p.tally.further + kv.2.1) }
  let y := if valid then (s.completionNotes p kv.2.2).foldl Tally.note y0 else y0
  let late := valid && (s.completionNotes p false).contains 0x1041
  let s1 := match late, kv.1.homeOf c with
    | true, some h => kv.1.tcount h.1 0xC08 1
    | _, _ => kv.1
  let s2 := ((if valid then s1.learnStep c p else s1).releasePins c p).sendCommits c p valid
  let gen := match p.chart with | some g => g.2 | none => 0
  let ws := completionWords (recType p.words) y.status y.further y.replays y.noted p.index (if recType p.words = 1 then p.stepno else 0)
    (p.codeStart.getD 0) s.chron (recChart p.words) gen y.failLayop y.failTile
  (s2.onCtx c fun x => { x with steps := x.steps.drop 1 }).putCompletion c p.index ws (recIrq p.words)

/-- Steps of a context complete in ring order (R62); one past its grace is aborted first (R276); a context being destroyed writes no records (R374). -/
def execStepCompletion (c : CtxId) (s : State) : Result :=
  .next (match s.ctx? c.toNat with
    | some x =>
      (match x.steps.head? with
       | some p => if s.moving && ! x.destroying && p.finished && ! p.overdue s.chron then s.completeStep c.toNat p else s
       | none => s)
    | none => s)

/-! ### KV and NOP records (R222, R546) -/

/-- Complete a record that is no step. -/
def State.completeRecord (s : State) (c i : Nat) (ws : List Word) (st : Status) : State :=
  s.putCompletion c i (completionWords (recType ws) st 0 0 0 i 0 0 s.chron 0 0 0xFFFFFFFF#32 0) (recIrq ws)

/-- Run the KV operation at the front of a context's records, where its code is one of a list. -/
def State.kvRecord (s : State) (c : Nat) (mine : Nat → Bool) (k : State → Pool → List Word → State × Except Status Unit) : State :=
  match s.nextRecord c with
  | some (x, i, ws) =>
    if recType ws != 2 || ! mine (kvOp ws) then s
    else
      let s1 := s.tookRecord c
      let r := match x.cr.pool with
        | some p => if kvLegal p ws then k s1 p ws else (s1, .error 0x2042)
        | none => (s1, .error 0x2042)
      (match r with
       | (s2, .ok ()) => s2.completeRecord c i ws 0
       | (s2, .error st) => s2.completeRecord c i ws st)
  | none => s

/-- OPEN, and every operation code outside Table 8-8. -/
def execKvOpen (c : CtxId) (s : State) : Result :=
  .next (s.kvRecord c.toNat (fun op => op != 2 && op != 3) fun s p ws => s.kvOpenSlot c.toNat p (kvTarget ws))
def execKvFork (c : CtxId) (s : State) : Result :=
  .next (s.kvRecord c.toNat (fun op => op = 2) fun s p ws => s.kvForkSlot c.toNat p (kvSource ws) (kvTarget ws) (kvP ws))
def execKvCancel (c : CtxId) (s : State) : Result :=
  .next (s.kvRecord c.toNat (fun op => op = 3) fun s p ws => s.kvCancelSlot c.toNat p (kvTarget ws))

def execNop (c : CtxId) (s : State) : Result :=
  .next (match s.nextRecord c.toNat with
    | some (_, i, ws) => if recType ws = 3 then (s.tookRecord c.toNat).completeRecord c.toNat i ws 0 else s
    | none => s)

/-! ### Lodestar (R270 to R276) -/

/-- An FP32 value of µs in units of `2^-149` µs. -/
def microUnits (v : BitVec 32) : Nat :=
  match f32 v with
  | .fin false m e => scaleTo m e (-149)
  | _ => 0

/-- Lodestar's prediction of a miss (R272), in exact arithmetic: times in ns, u and f in units of `2^-149` µs. -/
def missAhead (now start d total p u f : Nat) : Bool :=
  if total != 0 && (p != 0 || u != 0) then
    let k := if p = 0 then 1 else p
    let rate := max (u * 1000 * k) (if p = 0 then 0 else (now - start) * 2 ^ 149)
    let r : Int := ((total : Int) - p) * rate
    let scale : Int := 1000 * k * 2 ^ 149
    (d : Int) * scale < (now : Int) * scale + r * 1000 && (f * 1000 * k : Int) < r
  else (((d : Int) - now) * 2 ^ 149 ≤ f * 1000 + 8000 * 2 ^ 149)

/-- The step of a context that Lodestar evaluates now. -/
def State.evaluated (s : State) (c : Nat) : Option Step :=
  match s.ctx? c with
  | some x => x.steps.find? fun p => watched p.words && p.codeStart.isSome && p.phase.live && p.watch.next.toNat ≤ s.chron.toNat
  | none => none

/-- The step falls back: a replay at its fall-back entry, its sequences marked (R273). A step that is being flushed or restored for a replay
takes its fall-back entry in that replay, which counts once (DESIGN CHOICE, log 124). -/
def State.fallBack (s : State) (c t : Nat) (p : Step) : State :=
  let joins := p.phase != .running
  let counts := ! joins || p.rerun
  let s1 := p.seqs.foldl (fun acc u => (acc.setFallback c true u.slot).1) s
  let s2 := s1.onStep c p.stepno fun q =>
    { q with watch := { q.watch with fallback := true }, tally := if counts then { q.tally with replays := q.tally.replays + 1, cause := 0 } else q.tally }
  let s3 := ((if counts then s2.countReplay c 0 else s2).tcount t 0xC00 1).emit
    ⟨0x09, some t, none, some c, none, 0, (p.stepno.setWidth 2).toNat, p.stepno.toNat, 0⟩
  if joins then s3 else s3.abortStep c p.stepno true

/-- A step that Lodestar may move: its code runs, or it is on its way to run again. -/
def Phase.movable : Phase → Bool
  | .running | .flushing true | .restoring => true
  | _ => false

/-- One evaluation, 8 µs after the one before. -/
def execLodestarCheck (c : CtxId) (s : State) : Result :=
  .next (match s.evaluated c.toNat, s.homeOf c.toNat with
    | some p, some (t, n) =>
      if ! s.moving then s
      else
        let s1 := s.onStep c.toNat p.stepno fun q => { q with watch := { q.watch with next := q.watch.next + 8000 } }
        let prog := (s.counter t c.toNat (recKp p.words) - p.watch.p0).toNat
        let miss := missAhead s.chron.toNat p.watch.start.toNat p.deadline (recP p.words) prog
          (microUnits ((s.treg t (lsU n)).setWidth 32)) (microUnits ((s.treg t (lsF n)).setWidth 32))
        if miss && p.phase.movable && recFallback p.words != 0 && ! p.watch.fallback && p.tally.replays < p.wp.limit then
          s1.fallBack c.toNat t p
        else s1
    | _, _ => s)

/-- The step of a context that has missed its deadline and its grace (R276). -/
def State.missed (s : State) (c : Nat) : Option Step :=
  match s.ctx? c with
  | some x => x.steps.find? fun p => p.overdue s.chron
  | none => none

/-- A watched step still in flight at D + G is aborted and not replayed (R276). -/
def execDeadlineMissed (c : CtxId) (s : State) : Result :=
  .next (match s.missed c.toNat with
    | some p =>
      if ! s.moving then s
      else
        let s1 := match s.homeOf c.toNat with | some h => s.tcount h.1 0xC10 1 | none => s
        let s2 := s1.onTally c.toNat p.stepno fun y => y.fail 0x8001 .none
        (match p.phase with
         | .running => s2.abortStep c.toNat p.stepno false
         | .flushing _ => s2.onStep c.toNat p.stepno fun q => { q with phase := .flushing false, rerun := false }
         | _ => s2.endStep c.toNat p.stepno 0x8001)
    | none => s)

end Sys2Proof.Machine
end

