-- ==== Sys2Proof/Machine/Serve.lean ====
section
/-! DEFINITION. A tile as PF0 serves it: control, regions and zeroing (R39 to R42, R261), clears, halt and cache flush (R55,
R56), the norm watch's and Lodestar's entries (R171, R179, R271), spill and restore (R264 to R268), the watch
bill (R277 to R279). -/

namespace Sys2Proof.Machine

open Sys2Proof

/-- A write-only register whose action is on bit 0. -/
def State.trigger1 (s : State) (a : Nat) (w : Wr) (k : State → State) : State :=
  s.write a w fun s v _ => if tst v 0 then k s else s

/-! ### Control (Table 2-6) -/

/-- A Faulted tile keeps HOLD until its next tile reset (R461, R480), and a tile in its self-test until that ends (DESIGN CHOICE, log 123). -/
def State.keepsHold (s : State) (t : Nat) : Bool := s.faultedTile t || s.start.tileReset = some t

/-- A valid region entry names another context than `c`. -/
def State.othersRegions (s : State) (t c : Nat) : Bool := (List.range 16).any fun n => tst (s.spEntry t n) 28 && bits (s.spEntry t n) 0 12 != c

def execTlCtrlWrite (t : Tile) (w : Wr) (s : State) : Result :=
  .next (
    let a := tileBase t + 0x008
    s.write a w fun s v m =>
      let old := s.reg a
      let new := merge old v m
      let s1 := s.setField a 0 1 (if s.keepsHold t then bits old 0 1 else bits new 0 1)
      if bits new 1 13 = bits old 1 13 then s1
      else if (s.tile t).work.queues.any fun q => ! q.2.isEmpty then s1.record a 0x2014
      else if tst new 1 && s.othersRegions t (bits new 2 12) then s1.record a 0x3061
      else s1.setField a 1 13 (bits new 1 13))

/-! ### Regions and zeroing (R40, R41) -/

/-- Two ranges of granules meet. -/
def meets (b n c k : Nat) : Bool := b < c + k && c < b + n && n != 0 && k != 0

/-- A range of granules meets a valid entry other than `n`: an entry that is written anew is not compared with itself (DESIGN
CHOICE, log 95). -/
def State.overlapsEntry (s : State) (t n base count : Nat) : Bool :=
  (List.range 16).any fun i => i != n && tst (s.spEntry t i) 28 && meets base count (bits (s.spEntry t i) 12 8) (bits (s.spEntry t i) 20 8)

/-- The granules of a range whose previous owner was a different context. -/
def State.foreign (s : State) (t c base count : Nat) : List Nat :=
  ((List.range count).map (base + ·)).filter fun g =>
    match FMap.get none (s.tile t).sp.owners g with
    | some o => o != c
    | none => false

/-- The granules of a range get an owner; those of another context begin to be zeroed. -/
def State.takeGranules (s : State) (t c base count : Nat) : State :=
  let dirty := s.foreign t c base count
  s.onTile t fun x => { x with sp := { x.sp with
    owners := ((List.range count).map (base + ·)).foldl (fun m g => FMap.put none m g (some c)) x.sp.owners
    zeroing := x.sp.zeroing ++ dirty.filter fun g => ! x.sp.zeroing.contains g } }

/-- Make entry `n` valid for a context over a range of granules (R41). -/
def State.giveEntry (s : State) (t n c base count : Nat) : State :=
  let s1 := s.takeGranules t c base count
  let z := ((List.range count).map (base + ·)).any fun g => (s1.tile t).sp.zeroing.contains g
  s1.setTreg t (0x100 + 8 * n) (pack [(29, b2n z), (28, 1), (20, count), (12, base), (0, c)])

def execTlSpregWrite (t : Tile) (n : Fin 16) (w : Wr) (s : State) : Result :=
  .next (
    let a := tileBase t + 0x100 + 8 * n
    s.write a w fun s v m =>
      let new := merge (s.reg a) v m
      let c := bits new 0 12
      let base := bits new 12 8
      let count := bits new 20 8
      if tst new 28 then
        if 192 < base + count || count = 0 || s.overlapsEntry t n base count then s.record a 0x2011
        else s.giveEntry t n c base count
      else s.setReg a (pack [(29, b2n (tst (s.reg a) 29)), (20, count), (12, base), (0, c)]))

/-- Granules of a range become zero, and correct (R41, R42). -/
def State.zeroGranules (s : State) (t : Nat) (gs : List Nat) : State :=
  s.onTile t fun x => { x with sp := { x.sp with
    bytes := FMap.keep (fun a => ! gs.contains (a / granuleBytes)) x.sp.bytes
    bad := FMap.keep (fun w => ! gs.contains (8 * w / granuleBytes)) x.sp.bad
    zeroing := x.sp.zeroing.filter fun g => ! gs.contains g } }

/-- Zeroing that entry `n` waits for completes, and that of granules no valid entry covers. -/
def execGranuleZeroingDone (t : Tile) (n : Fin 16) (s : State) : Result :=
  .next (
    let v := s.spEntry t n
    if ! s.moving || ! tst v 29 then s
    else
      let mine := (s.tile t).sp.zeroing.filter fun g =>
        (tst v 28 && bits v 12 8 ≤ g && g < bits v 12 8 + bits v 20 8) ||
        ! (List.range 16).any fun i => let e := s.spEntry t i; tst e 28 && bits e 12 8 ≤ g && g < bits e 12 8 + bits e 20 8
      (s.zeroGranules t mine).setField (tileBase t + 0x100 + 8 * n) 29 1 0)

/-- The scrubber meets a word with an error: a single one is corrected and counted, any other is uncorrectable (R42). -/
def execSpScrub (t : Tile) (word : Nat) (single : Bool) (s : State) : Result :=
  if ! Instr.wf (.spScrub t word single) then .refused .illFormed
  else .next (
    if ! s.moving then s
    else if single && ! FMap.get false (s.tile t).sp.bad word then (s.orReg (tileBase t + 0x018) 1).tcount t 0x350 1
    else
      (s.onTile t fun x => { x with sp := { x.sp with bad := FMap.put false x.sp.bad word true } }).noteSp t (8 * word) 0xFFF)

/-! ### Clears, halt, cache flush -/

/-- Counters of a tile (Tables 2-6 and 10-7). -/
def tileCounters (t : Nat) : List Nat :=
  ((span 0x300 10) ++ [0x350, 0x358, 0x7C0, 0x7C8, 0x7D0, 0x7D8]).map (tileBase t + ·)

def execTlCntClear (t : Tile) (w : Wr) (s : State) : Result :=
  .next (s.trigger1 (tileBase t + 0x3F8) w fun s => s.clearRegs (tileCounters t))

def execHcCtrlHalt (t : Tile) (w : Wr) (s : State) : Result :=
  .next (
    let a := tileBase t + 0x808
    s.write a w fun s v m => s.setReg a (setBits 0 0 1 (bits (merge (s.reg a) v m) 0 1)))

/-- A second write during a flush has no further effect. -/
def execHcCacheFlush (t : Tile) (w : Wr) (s : State) : Result :=
  .next (s.trigger1 (tileBase t + 0x898) w fun s => s.onTile t fun x => { x with flushing := true })

/-- Lines that the tile's home slots have made dirty. -/
def TileState.dirtyLines (x : TileState) : List Nat := x.slots.flatMap fun p => p.2.dirty

def execHcCacheFlushDone (t : Tile) (s : State) : Result :=
  .next (
    if s.moving && (s.tile t).flushing then (s.writeBackAll (s.tile t).dirtyLines).onTile t fun x => { x with flushing := false }
    else s)

/-! ### Norm-watch and Lodestar entries -/

/-- Another valid entry of the tile names the same context and operator. -/
def State.nwTwin (s : State) (t n : Nat) (new : Word) : Bool :=
  (List.range 16).any fun i => i != n && tst (s.nwCfg t i) 63 && bits (s.nwCfg t i) 0 28 = bits new 0 28

/-- A write of a norm-watch entry (R171). One that is a duplicate and has W = 0 too is refused as a duplicate (DESIGN CHOICE,
log 97). -/
def execTlNwCfgWrite (t : Tile) (n : Fin 16) (w : Wr) (s : State) : Result :=
  .next (
    let a := tileBase t + 0x400 + 0x30 * n
    s.write a w fun s v m =>
      let new := merge (s.reg a) v m
      if tst new 63 && s.nwTwin t n new then s.record a 0x201B
      else if tst new 63 && nwW new = 0 then s.record a rejected
      else ((s.setReg a new).setReg (a + 8) 0).onWork t fun x => { x with banks := x.banks.filter fun b => b.entry != n.val })

def execTlNwClear (t : Tile) (w : Wr) (s : State) : Result :=
  .next (s.write (tileBase t + 0x720) w fun s v _ =>
    let s1 := (List.range 16).foldl (fun acc n =>
      if tst v n then (acc.clearRegs (span (tileBase t + 0x410 + 0x30 * n) 4)).setField (tileBase t + 0x700) n 1 0 else acc) s
    if tst v 16 then s1.clearRegs (span (tileBase t + 0x708) 3) else s1)

def execHcLsCfgWrite (t : Tile) (n : Fin 16) (w : Wr) (s : State) : Result :=
  .next (
    let a := tileBase t + lsCfg n
    s.write a w fun s v m =>
      let f := bits (merge (s.reg a) v m) 0 32
      (((s.setReg a (BitVec.ofNat 64 f)).setTreg t (lsU n) 0).setTreg t (lsF n) ((toF32 (Num.ofInt f)).setWidth 64)).onTile t
        fun x => x.onSlot n fun z => { z with learnt := false })

/-! ### Spill and restore (R264 to R268) -/

def State.preemptStatus (s : State) (t : Nat) (st : Status) (busy : Bool) : State :=
  s.setTreg t 0x738 (pack [(16, st.toNat), (0, b2n busy)])

/-- A refused order records its status; a running one stays busy. -/
def State.refuseOrder (s : State) (t : Nat) (st : Status) : State := s.preemptStatus t st (s.tile t).work.order.isSome

/-- Priority of a context (R259); none has the lowest. -/
def State.prioOf (s : State) (c : Nat) : Nat := match s.ctx? c with | some x => x.cr.prio.toNat | none => 0
def State.reserveSize (s : State) (c : Nat) : Nat := match s.ctx? c with | some x => x.cr.spillSize | none => 0

/-- The checks of Table 10-4. -/
def State.spillCheck (s : State) (t n m b o op : Nat) : Option Status :=
  let e := s.spEntry t n
  let v := bits e 0 12
  let live := match s.ctx? b with | some x => ! x.destroying | none => false
  if (s.tile t).work.order.isSome then some 0x4063
  else if op != 1 || ! tst e 28 || tst e 29 || tst (s.spEntry t m) 28 || tst (s.spSave t m) 63 || ! live || b = v then some 0x2060
  else if s.partitioned t || s.prioOf b ≤ s.prioOf v then some 0x3060
  else if o < 1 || s.reserveSize v < o * 65536 + bits e 20 8 * granuleBytes + 589824 then some 0x4060
  else none

/-- Queued commands of an entry's context that name its granules, in their order (R265). -/
def State.toPark (s : State) (t n : Nat) : List Entry :=
  let e := s.spEntry t n
  let xs := ((s.tile t).work.queues.flatMap (·.2)).filter fun x =>
    x.cmd.ctx.toNat = bits e 0 12 && x.cmd.names t (bits e 12 8) (bits e 20 8)
  xs.mergeSort fun x y => x.ord ≤ y.ord

/-- Begin a spill: the victim's commands on the region park (R265). -/
def State.beginSpill (s : State) (t n m b o : Nat) : State :=
  let v := bits (s.spEntry t n) 0 12
  let s1 := (s.onWork t fun w => { w with order := some ⟨false, n, m, b, o, v, 0, 0⟩ }).preemptStatus t 0 true
  let xs := s1.toPark t n
  let ords := xs.map (·.ord)
  let s2 := s1.onWork t fun w => { w with queues := (w.queues.map fun q => (q.1, q.2.filter fun e => ! ords.contains e.ord)).filter fun q => ! q.2.isEmpty }
  xs.foldl (fun acc x => acc.park t n x) s2

/-- A write of `TL_PREEMPT` with op SPILL, or with an op that is none. -/
def execSpill (t : Tile) (w : Wr) (s : State) : Result :=
  .next (s.write (tileBase t + 0x730) w fun s v _ =>
    let n := bits v 56 4
    let m := bits v 52 4
    let b := bits v 40 12
    let o := bits v 0 24
    if bits v 60 4 = 2 then s
    else match s.spillCheck t n m b o (bits v 60 4) with
      | some st => s.refuseOrder t st
      | none => s.beginSpill t n m b o)

/-- The order in progress on a tile, of one kind. -/
def State.order? (s : State) (t : Nat) (restore : Bool) : Option Order :=
  (s.tile t).work.order.bind fun o => if o.restore = restore then some o else none

/-- Commands of the victim that still run and name the region. -/
def State.victimRuns (s : State) (t : Nat) (o : Order) : Bool :=
  let e := s.spEntry t o.n
  (s.tile t).work.running.any fun r => r.cmd.ctx.toNat = o.victim && (r.cmd.names t (bits e 12 8) (bits e 20 8) || r.cmd.keeps || r.cmd.adds)

/-- Parked records of an entry set out to return to their queues (R267, R268). -/
def State.unpark (s : State) (t n : Nat) : State :=
  s.onWork t fun w => { w with parked := w.parked.map fun p => if p.entry = n then { p with entry := returning } else p }

/-- A spill is undone: the region and its commands stay with the victim (R267). -/
def State.undoSpill (s : State) (t : Nat) (o : Order) (st : Status) : State :=
  ((s.onWork t fun w => { w with order := none }).unpark t o.n).preemptStatus t st false

/-- The bytes of a kept result as its save area holds them: 1,024 rows of 128 FP32. -/
def Kept.bytes (k : Kept) : List Byte :=
  k.data.flatMap fun row => row.flatMap (fun x => bytesOf 4 x.toNat) ++ List.replicate (4 * (128 - row.length)) 0

/-- Copy the victim's kept result, if it has one, to the save area. -/
def State.spillKept (s : State) (v a : Nat) (k : Option Kept) : State × Except Status Unit :=
  match k with
  | some k => s.devWrite v a k.bytes
  | none => (s, .ok ())

/-- Copy `n` bytes of a scratchpad to the victim's save area. -/
def State.spillBytes (s : State) (t v off a n : Nat) : State × Except Status Unit :=
  thenDo (s.readPart v false ⟨.sp t off, n, none, 0, 0⟩) fun s1 bs => s1.devWrite v a bs

/-- Copy a region's granules, and the victim's kept result, to the save area (R265). -/
def State.spillCopy (s : State) (t : Nat) (o : Order) : State × Except Status Unit :=
  let e := s.spEntry t o.n
  let base := bits e 12 8
  let count := bits e 20 8
  let area := s.reserve o.victim + o.off * 65536
  let kept := match (s.tile t).work.kept with | some k => if k.ctx = o.victim then some k else none | none => none
  thenDo (s.spillKept o.victim (area + count * granuleBytes) kept) fun s1 _ =>
    eachDo s1 (List.range count) fun s2 i =>
      s2.spillBytes t o.victim ((base + i) * granuleBytes) (area + i * granuleBytes) granuleBytes

/-- The copy has ended and the last granule is zero: the region is the beneficiary's (R265). -/
def State.finishSpill (s : State) (t : Nat) (o : Order) : State :=
  let e := s.spEntry t o.n
  let base := bits e 12 8
  let count := bits e 20 8
  let w := (s.tile t).work
  let kept := match w.kept with | some k => if k.ctx = o.victim then some k else none | none => none
  let bytes := count * granuleBytes + (match kept with | some k => 512 * k.rows | none => 0)
  let s1 := s.onWork t fun w => { w with
    order := none
    kept := if kept.isSome then none else w.kept
    accSave := match kept with | some k => FMap.insert w.accSave o.n k | none => w.accSave }
  let s2 := (s1.setField (tileBase t + 0x100 + 8 * o.n) 28 1 0).setTreg t (0x740 + 8 * o.n)
    (pack [(63, 1), (51, o.victim), (43, count), (35, base), (24, w.parkedFor o.n), (0, o.off)])
  let s3 := ((s2.giveEntry t o.m o.bene base count).zeroGranules t ((List.range count).map (base + ·))).setField
    (tileBase t + 0x100 + 8 * o.m) 29 1 0
  (s3.tcount t 0x7D0 bytes).preemptStatus t 0 false

/-- SPILL_DONE: the copy, unless a parked record could not be written: then the order ends as R267 has it (R544). -/
def execSpillDone (t : Tile) (s : State) : Result :=
  .next (match s.order? t false with
    | none => s
    | some o =>
      if ! s.moving then s
      else if o.failed != 0 then s.undoSpill t o o.failed
      else if s.victimRuns t o then s
      else match s.spillCopy t o with
        | (s1, .ok ()) => s1.finishSpill t o
        | (s1, .error st) => s1.undoSpill t o st)

def execSpillFailed (t : Tile) (st : Status) (s : State) : Result :=
  .next (match s.order? t false with
    | some o => if s.moving then s.undoSpill t o st else s
    | none => s)

/-- The checks of a restore (R268). -/
def State.restoreCheck (s : State) (t n : Nat) : Option Status :=
  let v := s.spSave t n
  if (s.tile t).work.order.isSome then some 0x4063
  else if ! tst v 63 || s.overlapsEntry t 16 (bits v 35 8) (bits v 43 8) then some 0x2060
  else none

def execRestore (t : Tile) (w : Wr) (s : State) : Result :=
  .next (s.write (tileBase t + 0x730) w fun s v _ =>
    let n := bits v 56 4
    if bits v 60 4 != 2 then s
    else match s.restoreCheck t n with
      | some st => s.refuseOrder t st
      | none =>
        let p := s.spSave t n
        let c := bits p 51 12
        ((s.onWork t fun w => { w with order := some ⟨true, n, 0, 0, bits p 0 24, c, 0, 0⟩ }).giveEntry t n c (bits p 35 8) (bits p 43 8)).preemptStatus
          t 0 true)

/-- Copy `n` bytes of the victim's save area back to a scratchpad offset. -/
def State.restoreBytes (s : State) (t v a off n : Nat) : State × Option Status :=
  match s.devRead v a n with
  | (s1, .ok bs) => (s1.spWrite t off bs, none)
  | (s1, .error st) => (s1, some st)

/-- Do every step of a list; a failure is remembered and stops none. -/
def doAll (s : State) (f : State → Nat → State × Option Status) : List Nat → State × Option Status
  | [] => (s, none)
  | i :: is =>
    let r := doAll (f s i).1 f is
    (r.1, r.2.or (f s i).2)

/-- Copy a save area back; a granule whose copy fails stays zero. -/
def State.restoreCopy (s : State) (t : Nat) (o : Order) (base count : Nat) : State × Option Status :=
  doAll (s.zeroGranules t ((List.range count).map (base + ·)))
    (fun s1 i => s1.restoreBytes t o.victim (s.reserve o.victim + o.off * 65536 + i * granuleBytes) ((base + i) * granuleBytes)
      granuleBytes) (List.range count)

/-- The kept result that a save area's bytes hold, for the shape that was saved. The area has no room for the checksum cells: they begin
anew from the words read back (DESIGN CHOICE, log 110). -/
def Kept.loaded (k : Kept) (bs : List Byte) : Kept :=
  let data := (List.range k.rows).map fun r => (List.range k.cols).map fun c => BitVec.ofNat 32 (ofBytes ((bs.drop (512 * r + 4 * c)).take 4))
  { k with data := data, sums := data.map fun row => row.map fun w => (f32 w, (f32 w).abs) }

/-- Read the accumulator save back, if one was made (R268). -/
def State.restoreKept (s : State) (v a : Nat) (k : Option Kept) : State × Option Kept × Option Status :=
  match k with
  | none => (s, none, none)
  | some k =>
    match s.devRead v a (512 * k.rows) with
    | (s1, .ok bs) => (s1, some (k.loaded bs), none)
    | (s1, .error st) => (s1, none, some st)

/-- A parked record as the park area holds it. -/
def Parked.loaded (p : Parked) (bs : List Byte) : Parked :=
  match Rec.read (wordsOf 8 bs) with
  | some r => { p with ent := { p.ent with cmd := r } }
  | none => p

/-- Read one parked record back into its place. -/
def State.restoreParked (s : State) (t n a i : Nat) : State × Option Status :=
  match (s.tile t).work.parked.find? fun p => p.entry = n && p.place = i with
  | none => (s, none)
  | some p =>
    match s.devRead p.ent.cmd.ctx.toNat (a + 64 * i) 64 with
    | (s1, .ok bs) => (s1.onWork t fun w => { w with parked := w.parked.map fun x => if x.entry = n && x.place = i then x.loaded bs else x }, none)
    | (s1, .error st) => (s1, some st)

/-- The data and the accumulator return, and the parked records are read back and set out for their queues. Where a copy met an
error, every parked piece fails with `SOURCE_UNCORRECTABLE`. -/
def execRestoreDone (t : Tile) (s : State) : Result :=
  .next (match s.order? t true with
    | none => s
    | some o =>
      let w := (s.tile t).work
      let saved := FMap.find? w.accSave o.n
      let others := match w.kept with | some k => k.ctx != o.victim | none => false
      if ! s.moving || (saved.isSome && others) then s
      else
        let p := s.spSave t o.n
        let count := bits p 43 8
        let area := s.reserve o.victim + o.off * 65536 + count * granuleBytes
        let x := s.restoreCopy t o (bits p 35 8) count
        let y := x.1.restoreKept o.victim area saved
        let r := doAll y.1 (fun s1 i => s1.restoreParked t o.n (area + 0x80000) i) ((w.parked.filter fun q => q.entry = o.n).map (·.place))
        let bytes := count * granuleBytes + (match saved with | some k => 512 * k.rows | none => 0)
        let s1 := ((r.1.onWork t fun w => { w with
          order := none
          kept := if y.2.1.isSome then y.2.1 else w.kept
          accSave := FMap.erase w.accSave o.n }).setTreg t (0x740 + 8 * o.n) 0).setField (tileBase t + 0x100 + 8 * o.n) 29 1 0
        let s2 := (s1.tcount t 0x7D0 bytes).preemptStatus t 0 false
        match (x.2.or y.2.2).or r.2 with
        | none => s2.unpark t o.n
        | some _ =>
          let xs := (w.parked.filter fun q => q.entry = o.n).map (·.ent)
          xs.foldl (fun acc x => acc.tell t x.cmd.engine.toNat x.cmd 0x5020)
            (s2.onWork t fun w => { w with parked := w.parked.filter fun q => q.entry != o.n }))

/-! ### The watch bill (R277 to R279) -/

/-- Values of the six bands in a word, `k` bits apart. -/
def bands (v : Word) (k w lo : Nat) : List Nat := (List.range 6).map fun b => bits v (k * b + lo) w

/-- Write a 64-byte line of the Near tier as one unit. -/
def State.writeLine (s : State) (a : Nat) (ws : List Word) : State :=
  let s1 := (wholeBlocks a 64).foldl State.healBlock s
  (s1.supersede a 64).setPa a (wordBytes ws)

/-- The bill line (Table 10-5). -/
def State.billLine (s : State) : List Word :=
  let cur := s.reg (sxBase + 0x420)
  let lim := s.reg (sxBase + 0x410)
  let bytes := fun (xs : List Nat) => pack (xs.zipIdx.map fun p => (8 * p.2, p.1))
  [ BitVec.ofNat 64 (bits cur 24 32), s.chron, bytes (bands cur 4 4 0), bytes (bands lim 8 4 0), bytes (bands lim 8 4 4), 0, 0, 0 ]

/-- Write the bill line where `SX_WB_ADDR` names the Near tier. -/
def State.putBill (s : State) : State :=
  let a := bits (s.reg (sxBase + 0x400)) 0 48
  if tierOf a = .near then s.writeLine a s.billLine else s

/-- The limits, which are part of the bill (R277), have changed: the epoch counts and the line is written. -/
def State.changeLimits (s : State) : State :=
  let cur := s.reg (sxBase + 0x420)
  (s.setReg (sxBase + 0x420) (setBits cur 24 32 (bits cur 24 32 + 1))).putBill

/-- A new bill takes effect as one change (R278); the learned gains begin anew (R432). -/
def State.changeBill (s : State) (ds : List Nat) : State :=
  let cur := s.reg (sxBase + 0x420)
  let old := bands cur 4 4 0
  if ds = old then s
  else
    let moves := ((ds.zip old).map fun p => (p.1 - p.2) + (p.2 - p.1)).sum
    let epoch := (bits cur 24 32 + 1) % 2 ^ 32
    let s0 := { s with power := { s.power with decode := { s.power.decode with g := 0 }, prefill := { s.power.prefill with g := 0 } } }.setReg (sxBase + 0x028) 0
    let s1 := s0.setReg (sxBase + 0x420) (pack ((24, epoch) :: ds.zipIdx.map fun p => (4 * p.2, p.1)))
    ((s1.count (sxBase + 0x428) moves).putBill).emit ⟨0x08, none, none, none, none, 0, 0, epoch, s.chron.toNat⟩

/-- Every value lies within its limits. -/
def State.billLegal (s : State) (ds : List Nat) : Bool :=
  let lim := s.reg (sxBase + 0x410)
  (ds.zip ((bands lim 8 4 0).zip (bands lim 8 4 4))).all fun p => p.2.1 ≤ p.1 && p.1 ≤ p.2.2

def execSxWbSet (w : Wr) (s : State) : Result :=
  .next (s.write (sxBase + 0x418) w fun s v _ =>
    let ds := bands v 4 4 0
    if s.billLegal ds then s.changeBill ds else s.record sxBase rejected)

/-- Every tile. -/
def allTiles : List Nat := List.range 640

/-- The band of a row (Table 1-2): the bands have 5, 5, 6, 6, 5 and 5 rows. -/
def bandOfRow (row : Nat) : Nat :=
  if row < 5 then 0 else if row < 10 then 1 else if row < 16 then 2 else if row < 22 then 3 else if row < 27 then 4 else 5

/-- A tile belongs to the decode watch: its column pair is among the first `d_b` of its band (R277). -/
def State.inDecode (s : State) (t : Nat) : Bool :=
  let col := t % 20
  min col (19 - col) < bits (s.reg (sxBase + 0x420)) (4 * bandOfRow (t / 20)) 4

/-- Arithmetic cycles of a tile since a nanosecond of the islands' running. -/
def State.arithSince (s : State) (t : Nat) (since : Word) : Nat := cyclesIn (tileBase t + 0x3F0) since (s.marks.ran - since).toNat

/-- What a tile has counted since a mark; a count that was cleared since has begun anew. -/
def countedSince (m : FMap Word) (t now : Nat) : Nat :=
  let old := (FMap.get 0 m t).toNat
  if old ≤ now then now - old else now

/-- The present counts of all tiles as marks. -/
def marksOf (count : Nat → Nat) : FMap Word := allTiles.foldl (fun m t => FMap.put 0 m t (BitVec.ofNat 64 (count t))) []

/-- What a tile has counted in `TL_CNT_BACKLOG`, in all and since the last adjustment. -/
def State.backlogCount (s : State) (t : Nat) : Nat := bits (s.treg t 0x7D8) 0 48
def State.backlogOf (s : State) (t : Nat) : Nat := countedSince s.marks.backlog t (s.backlogCount t)

/-- A watch's backlog in a band: backlog cycles by arithmetic cycles, averaged over its tiles, in units of `2^-32`; 0 for an empty
watch (R279). -/
def State.backlog (s : State) (band : Nat) (decode : Bool) : Nat :=
  let ts := allTiles.filter fun t => bandOfRow (t / 20) = band && s.inDecode t = decode
  if ts.isEmpty then 0
  else (ts.map fun t => s.backlogOf t * 2 ^ 32 / max 1 (s.arithSince t s.power.billRan)).sum / ts.length

/-- One band's adjustment (R279). -/
def State.adjustBand (s : State) (band theta d lo hi : Nat) : Nat :=
  let bd := s.backlog band true
  let bp := s.backlog band false
  let th := theta * 2 ^ 24
  if bp + th < bd && d < hi then d + 1 else if bd + th < bp && lo < d then d - 1 else d

/-- The counts from which the next period is measured. -/
def State.markBacklog (s : State) : State := { s with marks := { s.marks with backlog := marksOf s.backlogCount } }

/-- Once per period T with AUTO set; the Sextant adjusts the bill in a fix too (R505). -/
def execWatchBillAdjust (s : State) : Result :=
  .next (
    let ctl := s.reg (sxBase + 0x408)
    let lim := s.reg (sxBase + 0x410)
    if ! s.sextant || ! tst ctl 0 || (s.chron - s.power.billAt).toNat < bits ctl 24 16 * 1000000 then s
    else
      let xs := (bands (s.reg (sxBase + 0x420)) 4 4 0).zip ((bands lim 8 4 0).zip (bands lim 8 4 4))
      let ds := xs.zipIdx.map fun x => s.adjustBand x.2 (bits ctl 16 8) x.1.1 x.1.2.1 x.1.2.2
      ({ s with power := { s.power with billAt := s.chron, billRan := s.marks.ran } }.markBacklog).changeBill ds)

end Sys2Proof.Machine
end

