-- ==== Sys2Proof/Machine/Port.lean ====
section
/-! DEFINITION. A light port by itself: its registers, gates and lanes (R311, R336, R340), the blocks that it sends and holds
(R312 to R314), virtual channels, job slots and credits (R333, R334), and the arbitration of the line (R335). -/

namespace Sys2Proof.Machine

open Sys2Proof

/-! ### Registers of a port -/

def lpReg (o p : Nat) : Nat := lpBase + o + 0x80 * p
def lpCfg (p : Nat) : Nat := lpReg 0x100 p
def lpStatus (p : Nat) : Nat := lpReg 0x108 p
def lpPartner (p : Nat) : Nat := lpReg 0x110 p
def lpLaser (p : Nat) : Nat := lpReg 0x118 p
def lpLoopReg (p : Nat) : Nat := lpReg 0x168 p
def jobvcReg (p n : Nat) : Nat := lpBase + 0x600 + 0x40 * p + 8 * n

/-- States of a port (Table 12-3). -/
def portOff : Nat := 0
def portDark : Nat := 1
def portTraining : Nat := 2
def portExchange : Nat := 3
def portTest : Nat := 4
def portUp : Nat := 5
def portHeld : Nat := 6
def portRetrain : Nat := 7

def State.portState (s : State) (p : Nat) : Nat := bits (s.reg (lpStatus p)) 0 4
def State.port (s : State) (p : Nat) : Port := FMap.get .empty s.light.ports p
def State.onPort (s : State) (p : Nat) (f : Port → Port) : State :=
  { s with light := { s.light with ports := FMap.put .empty s.light.ports p (f (s.port p)) } }

/-- A loopback test runs on the port (R538). -/
def State.looping (s : State) (p : Nat) : Bool := tst (s.reg (lpLoopReg p)) 63

/-- The port's link carries blocks. -/
def State.carrying (s : State) (p : Nat) : Bool := ! s.looping p && portExchange ≤ s.portState p && s.portState p ≤ portHeld

/-- A port enters a state. -/
def State.enterPort (s : State) (p k : Nat) : State := (s.setField (lpStatus p) 0 4 k).onPort p fun x => { x with since := s.chron }

/-- A port records a status; one of class `0x6` enters the error record (R496). -/
def State.portStatus (s : State) (p : Nat) (st : Status) : State :=
  (s.setField (lpStatus p) 48 16 st.toNat).logIf (packageFault st 7 p 0)

/-- Record a status in `LP_GSTATUS`. -/
def State.lightStatus (s : State) (st : Status) : State := (s.record lpBase st).logIf (packageFault st 7 0 0)

/-! ### Gates and lasers (R336 to R338) -/

/-- Gates open, and whether the laser-enable land is asserted; with the lasers on, each closed gate probes. `LP_LASER[33]` follows the
emergency-off land when the register is read. -/
def State.setGates (s : State) (p gates : Nat) (laser : Bool) : State :=
  s.setReg (lpLaser p) (pack [(32, b2n laser), (16, if laser then 0xFFFF - gates % 2 ^ 16 else 0), (0, if laser then gates else 0)])

def State.gates (s : State) (p : Nat) : Nat := bits (s.reg (lpLaser p)) 0 16
def State.gateOpen (s : State) (p i : Nat) : Bool := tst (s.reg (lpLaser p)) i
def State.laserOn (s : State) (p : Nat) : Bool := tst (s.reg (lpLaser p)) 32

/-! ### The mode and its lanes (R311, R312) -/

/-- The number of wavelengths of a code (`LP_CFG[3:2]`). -/
def waves (code : Nat) : Nat := if code = 0 then 4 else if code = 1 then 2 else 1

def State.fecIsOn (s : State) (p : Nat) : Bool := tst (s.reg (lpStatus p)) 7

/-- The pairs in use, ascending. -/
def State.pairsInUse (s : State) (p : Nat) : List Nat := (List.range 16).filter fun i => tst (s.reg (lpStatus p)) (32 + i)

/-- Lanes that carry blocks, in ascending order of pair and then wavelength: those of the mode; before it is chosen, `λ0` of every
open pair (R317). -/
def State.lanes (s : State) (p : Nat) : List (Nat × Nat) :=
  if s.portState p ≤ portExchange then ((List.range 16).filter (s.gateOpen p)).map fun i => (i, 0)
  else (s.pairsInUse p).flatMap fun i => (List.range (waves (bits (s.reg (lpStatus p)) 4 2))).map fun l => (i, l)

/-- The line rate in Gb/s: pairs × w × r. -/
def State.lineRate (s : State) (p : Nat) : Nat :=
  (s.pairsInUse p).length * waves (bits (s.reg (lpStatus p)) 4 2) * (if tst (s.reg (lpStatus p)) 6 then 200 else 100)

/-- Bits on the line for one block: 280 bytes, or with the light FEC a quarter of a codeword (R315). -/
def State.blockBits (s : State) (p : Nat) : Nat := if s.fecIsOn p then 8 * 296 else 8 * 280

/-- Blocks that the line takes in the present nanosecond. -/
def State.blocksNow (s : State) (p : Nat) : Nat :=
  let n := s.chron.toNat
  (n + 1) * s.lineRate p / s.blockBits p - n * s.lineRate p / s.blockBits p

/-! ### Bytes of a block (R312, R313) -/

/-- One bit of the CRC-64, least significant bit first: the polynomial of R313 with its bits reversed. -/
def crc64Bit (c : Word) : Word := if c.getLsbD 0 then (c >>> 1) ^^^ 0xC96C5795D7870F42#64 else c >>> 1
def crc64Byte (c : Word) (b : Byte) : Word := (List.range 8).foldl (fun acc _ => crc64Bit acc) (c ^^^ b.setWidth 64)
def crc64 (bs : List Byte) : Word := ~~~ (bs.foldl crc64Byte (BitVec.allOnes 64))

def flitBytes : Nat := 128
def payloadBytes : Nat := 256

/-- A list of bytes with zeros up to a length. -/
def padTo (n : Nat) (bs : List Byte) : List Byte := bs ++ List.replicate (n - bs.length) 0

/-- Payload of a capability block (Table 12-4). -/
def capabilityBytes (c : Capability) : List Byte :=
  padTo payloadBytes ([0x01, c.port, c.node.setWidth 8, BitVec.ofNat 8 (c.node.toNat / 256),
    BitVec.ofNat 8 (128 * b2n c.coordValid + c.coord.toNat), BitVec.ofNat 8 (16 * b2n c.only100 + 4 * c.maxW.toNat + c.fec.toNat),
    c.kind.setWidth 8, 0] ++ c.pairs)

/-- A control block's payload: its kind, and bytes whose layout the spec does not give (log 103). -/
def controlBytes (kind : Byte) (what : List Nat) : List Byte :=
  kind :: (List.range (payloadBytes - 1)).map fun i => Config.layout (kind.toNat :: what) i

def Cargo.bytes : Cargo → List Byte
  | .flits bs => padTo payloadBytes bs
  | .capability c => capabilityBytes c
  | .result c => controlBytes 0x02 [c.errored, c.corrected, c.uncorr]
  | .linkState x => controlBytes 0x03 [x.node.toNat, x.coord.toNat, x.port, b2n x.up, x.epoch.toNat]
  | .slots l => controlBytes 0x04 (l.flatMap fun e => [e.1, e.2.1.toNat, e.2.2.toNat])

/-- Type and flit count of a block. -/
def Cargo.kind : Cargo → Nat
  | .flits _ => 1
  | _ => 2
def Cargo.flitCount : Cargo → Nat
  | .flits bs => (bs.length + 127) / 128
  | _ => 0

/-- The bytes of a block (Table 12-2), with the acknowledgement and the credits that the port has to give: `ack` is the last
sequence received in order, in a re-send request the one expected. -/
def Port.blockBytes (x : Port) (kind flits : Nat) (vc : BitVec 6) (seq ack : BitVec 24) (payload : List Byte) : List Byte :=
  let h0 := pack [(60, kind), (54, vc.toNat), (24, seq.toNat), (0, ack.toNat)]
  let h1 := pack [(58, x.lastGiven), (32, (FMap.get 0 x.given x.lastGiven).toNat), (0, flits)]
  let body := bytesOf 8 h0.toNat ++ bytesOf 8 h1.toNat ++ padTo payloadBytes payload
  body ++ bytesOf 8 (crc64 body).toNat

/-- What the line takes leaves by the port. -/
def State.emitLine (s : State) (p : Nat) (bytes : List Byte) : State :=
  { s with outside := { s.outside with blocks := s.outside.blocks ++ [⟨p, s.lanes p, bytes⟩] } }

/-- A block leaves by the port: bare, or with the light FEC on in its place in a codeword of four (R315). -/
def State.emitBlock (s : State) (p : Nat) (bytes : List Byte) : State :=
  if ! s.fecIsOn p then s.emitLine p bytes
  else
    let f := (s.port p).frame ++ [bytes]
    if f.length < 4 then s.onPort p fun x => { x with frame := f }
    else (s.emitLine p (encodeCodeword f)).onPort p fun x => { x with frame := [] }

/-- Idle blocks take the line's time in a codeword that has begun, up to `n` of them; outside one they are not recorded. -/
def State.idleBlocks (s : State) (p : Nat) : Nat → State
  | 0 => s
  | n + 1 =>
    if (s.port p).frame.isEmpty then s
    else
      let x := s.port p
      (s.emitBlock p (x.blockBytes 0 0 0 0 (x.expect - 1) [])).idleBlocks p n

/-- A held block leaves, for the first time or again. -/
def State.emitHeld (s : State) (p : Nat) (h : Held) : State :=
  let x := s.port p
  let c := h.parcel.cargo
  s.emitBlock p (x.blockBytes c.kind c.flitCount h.parcel.vc h.seq (x.expect - 1) c.bytes)

/-! ### Sending and holding (R314) -/

/-- Blocks that a port holds for re-send at most. -/
def maxHeld : Nat := 4096

/-- A block takes the next sequence, leaves, and is held. -/
def State.sendParcel (s : State) (p : Nat) (c : Parcel) : State :=
  let h : Held := ⟨(s.port p).next, c, 1, s.chron⟩
  (s.emitHeld p h).onPort p fun x => { x with next := x.next + 1, held := x.held ++ [h] }

/-- The parcel holds a data block. -/
def Parcel.isData (c : Parcel) : Bool := c.cargo.kind = 1

/-- Control blocks that wait leave while the port may hold more. They go before data and take no line time (log 103). -/
def State.pumpControl (s : State) (p : Nat) : State :=
  let x := s.port p
  let now := (x.waiting.filter fun c => ! c.isData).take (maxHeld - x.held.length)
  now.foldl (fun acc c => acc.sendParcel p c)
    (s.onPort p fun x => { x with waiting := ((x.waiting.filter fun c => ! c.isData).drop now.length) ++ x.waiting.filter Parcel.isData })

/-- Send a control block. Its channel is that of commands, slot 0 (log 103). -/
def State.sendControl (s : State) (p : Nat) (c : Cargo) : State :=
  (s.onPort p fun x => { x with waiting := x.waiting ++ [⟨0, c, .nobody⟩] }).pumpControl p

/-- A receiver asks once for the sequence that it expects: a re-send request. -/
def State.askResend (s : State) (p : Nat) : State :=
  if (s.port p).resending then s
  else
    let x := s.port p
    (s.emitBlock p (x.blockBytes 3 0 0 0 x.expect [])).onPort p fun x => { x with resending := true }

/-! ### Job slots (R333, R334) -/

/-- Whose requests a block carries. -/
def Parcel.slot (c : Parcel) : Nat := c.vc.toNat % 8

/-- Blocks of a slot are not acknowledged yet, or wait to be sent. -/
def Port.slotBusy (x : Port) (n : Nat) : Bool := x.held.any (fun h => h.parcel.slot = n) || x.waiting.any (fun c => c.slot = n)

/-- The port's valid slots, as it advertises them. -/
def State.ownSlots (s : State) (p : Nat) : List (Nat × BitVec 20 × BitVec 16) :=
  if 6 ≤ p then []
  else ((List.range 7).filter fun i => tst (s.reg (jobvcReg p (i + 1))) 63).map fun i =>
    let v := s.reg (jobvcReg p (i + 1))
    (i + 1, BitVec.ofNat 20 (bits v 36 20), BitVec.ofNat 16 (bits v 0 16))

/-- Slot `n` is valid at both ends for a job tag. -/
def Port.sharesSlot (x : Port) (n : Nat) (job : BitVec 20) : Bool :=
  let v := FMap.get 0 x.active n
  tst v 63 && bits v 36 20 = job.toNat && (match FMap.find? x.slots n with | some a => a.1 = job && a.2 != 0 | none => false)

/-- A valid `SC_PART` entry names a context of the job (R400). -/
def State.jobFixed (s : State) (job : Nat) : Bool :=
  (List.range 8).any fun i =>
    let v := s.reg (scBase + 0x380 + 8 * i)
    tst v 63 && (match s.ctx? (bits v 0 12) with | some x => x.cr.job.toNat = job | none => false)

/-- Slot `n`, as its entry stands, is fixed-share: both ends hold the job in it. -/
def State.slotFixed (s : State) (x : Port) (n : Nat) : Bool :=
  let v := FMap.get 0 x.active n
  tst v 63 && s.jobFixed (bits v 36 20) && x.sharesSlot n (BitVec.ofNat 20 (bits v 36 20))

/-- What the partner has advertised takes effect for a slot. -/
def Port.takeOffer (x : Port) (n : Nat) : Port :=
  { x with slots := match FMap.find? x.offered n with | some a => FMap.insert x.slots n a | none => FMap.erase x.slots n }

/-- Entries of `LP_JOBVC` and of the partner's advertisement take effect, and fixed shares begin and end, in slots that hold no blocks
(R334, R403). -/
def State.settleSlots (s : State) (p : Nat) : State :=
  s.onPort p fun x => (List.range 7).foldl (fun y i =>
    if x.slotBusy (i + 1) then y
    else if 6 ≤ p then y.takeOffer (i + 1)
    else
      let z := { y.takeOffer (i + 1) with active := FMap.put 0 y.active (i + 1) (s.reg (jobvcReg p (i + 1))) }
      { z with fixed := FMap.put false z.fixed (i + 1) (s.slotFixed z (i + 1)) }) x

/-- The entries of all torus ports. -/
def State.settleAllSlots (s : State) : State := (List.range 6).foldl State.settleSlots s

/-- The slot in which a flit of a job travels. -/
def Port.slotFor (x : Port) (job : BitVec 20) : Nat := (((List.range 7).map (· + 1)).find? fun n => x.sharesSlot n job).getD 0

/-- A virtual channel's number: class, phase, slot. -/
def channel (cls : Nat) (phase : Bool) (slot : Nat) : BitVec 6 := BitVec.ofNat 6 (16 * cls + 8 * b2n phase + slot)

/-! ### Credits and the arbitration (R333, R335) -/

/-- Blocks of a port's receive buffer. -/
def bufferBlocks : Nat := 4096

/-- Blocks that the partner's receive buffer takes on one channel: an eighth of its slot's allotment; slot 0 has the rest. -/
def Port.room (x : Port) (vc : BitVec 6) : Nat :=
  let n := vc.toNat % 8
  (if n = 0 then bufferBlocks - (x.slots.map fun e => e.2.2.toNat).sum
   else match FMap.find? x.slots n with | some a => a.2.toNat | none => 0) / 8

/-- The channel has a credit: fewer blocks are at the partner than it takes. -/
def Port.hasCredit (x : Port) (vc : BitVec 6) : Bool :=
  (FMap.get 0 x.sentOn vc.toNat - FMap.get 0 x.freed vc.toNat).toNat < x.room vc

/-- The first block that waits on a channel. -/
def Port.firstOn (x : Port) (vc : BitVec 6) : Option Nat := x.waiting.findIdx? fun c => c.isData && c.vc = vc

/-- Classes in the order of their rotation: response, collective, request, command. -/
def classAt (i : Nat) : Nat := [2, 3, 1, 0].getD (i % 4) 0

/-- The block of a slot that is next: the classes in rotation from the one whose turn it is, phase 1 before phase 0 in each
(DEDUCED, log 103); its place in the rotation and its index. -/
def Port.nextIn (x : Port) (slot : Nat) : Option (Nat × Nat) :=
  ((List.range 4).flatMap fun i => [(i, true), (i, false)]).findSome? fun r =>
    let at_ := FMap.get 0 x.classes slot + r.1
    let vc := channel (classAt at_) r.2 slot
    if x.hasCredit vc then (x.firstOn vc).map fun k => (at_, k) else none

/-- The weight of a slot: that of slot 0 from `LP_CFG[19:16]`. -/
def State.slotWeight (s : State) (p n : Nat) : Nat :=
  if n = 0 then bits (s.reg (lpCfg p)) 16 4 else bits (FMap.get 0 (s.port p).active n) 32 4

/-- Send the next data block by the rounds of R335, or none: a slot with no sendable block, and one that has had its weight, is
passed over. A fixed-share slot has exactly its weight of block times, idle blocks in those that it has no block for (R400). -/
def State.sendNext (s : State) (p : Nat) : Nat → Option State
  | 0 => none
  | fuel + 1 =>
    let x := s.port p
    let mayUse := x.used < s.slotWeight p x.turn
    match if mayUse then x.nextIn x.turn else none with
    | some (cls, k) =>
      (match x.waiting[k]? with
       | some c => some (((s.sendParcel p c).count (lpReg 0x150 p) 1).onPort p fun x => { x with
           waiting := x.waiting.eraseIdx k
           sentOn := FMap.put 0 x.sentOn c.vc.toNat (FMap.get 0 x.sentOn c.vc.toNat + 1)
           used := x.used + 1
           classes := FMap.put 0 x.classes x.turn ((cls + 1) % 4) })
       | none => none)
    | none =>
      if mayUse && FMap.get false x.fixed x.turn then some (s.onPort p fun x => { x with used := x.used + 1 })
      else (s.onPort p fun x => { x with turn := (x.turn + 1) % 8, used := 0 }).sendNext p fuel

/-- Send up to `n` data blocks while the port may hold more; what is left of `n` when no block can be sent. -/
def State.sendSome (s : State) (p : Nat) : Nat → State × Nat
  | 0 => (s, 0)
  | n + 1 =>
    if maxHeld ≤ (s.port p).held.length then (s, 0)
    else match s.sendNext p 9 with
      | some s1 => s1.sendSome p n
      | none => (s, n + 1)

/-- Data of the port goes in the line's time of this nanosecond, and the time left with data that waits for a credit counts. What is left
of the time. -/
def State.sendData (s : State) (p : Nat) : State × Nat :=
  if s.portState p != portUp || ! (s.port p).waiting.any Parcel.isData then (s, s.blocksNow p)
  else
    let r := s.sendSome p (s.blocksNow p)
    (if (r.1.port p).waiting.any Parcel.isData then r.1.count (lpReg 0x160 p) r.2 else r.1, r.2)

/-- A nanosecond of the port: its data, then idle blocks. -/
def State.portTick (s : State) (p : Nat) : State :=
  if s.looping p then s
  else
    let r := s.sendData p
    r.1.idleBlocks p r.2

/-! ### Acknowledgement and re-send (R314) -/

/-- `a` is at or past `b`, modulo 2^24. -/
def seqReached (a b : BitVec 24) : Bool := (a - b).toNat < 2 ^ 23

/-- Cumulative acknowledgement: blocks up to a sequence are released, and what waited for room goes on. -/
def State.ackBlocks (s : State) (p : Nat) (a : BitVec 24) : State :=
  let x := s.port p
  let left := x.held.filter fun h => ! seqReached a h.seq
  if left.length = x.held.length then s
  else ((s.onPort p fun x => { x with
    acked := a
    held := match left with | h :: hs => { h with since := s.chron } :: hs | [] => [] }).pumpControl p).settleSlots p

/-- Blocks sent at most without an acknowledgement. -/
def maxSends : Nat := 8

/-- Send the blocks from a sequence on again. -/
def State.resend (s : State) (p : Nat) (again : List Held) : State :=
  let s1 := s.onPort p fun x => { x with
    held := x.held.map fun h => if again.any (fun g => g.seq = h.seq) then { h with sends := h.sends + 1, since := s.chron } else h }
  (again.foldl (fun acc h => acc.emitHeld p h) s1).count (lpReg 0x130 p) again.length

end Sys2Proof.Machine
end

