-- ==== Sys2Proof/Machine/Remote.lean ====
section
/-! DEFINITION. The end of a remote request at its source tile: what its response, or its failure, does to what waits for it
(R342, R345, R357, R358). -/

namespace Sys2Proof.Machine

open Sys2Proof

/-- Change the fabric side of a tile. -/
def State.onFab (s : State) (t : Nat) (f : FabricSide → FabricSide) : State := s.onTile t fun x => { x with fab := f x.fab }

/-- A load or atomic of a slot ends: the slot that waits on it goes on, or takes the exception. -/
def State.endStall (s : State) (t n ctx : Nat) (id : BitVec 32) (pc : BitVec 48) (res : Except Status (List Byte))
    (put : List Byte → Slot → Slot) : State :=
  let z := (s.tile t).slot n
  if z.stall != .remote id || z.ctx.toNat != ctx then s
  else match res with
    | .ok bs => s.onTile t fun x => x.onSlot n fun z => { put bs z with stall := .none }
    | .error st => s.raise t n (scalarStatus st) pc

/-- A store's failure is an exception of the code that made it, or a status of its step when that code has ended. -/
def State.endStore (s : State) (t n ctx : Nat) (pc : BitVec 48) (no : BitVec 32) (st : Status) : State :=
  let z := (s.tile t).slot n
  if z.ctx.toNat = ctx && z.stepno = no && z.code then s.raise t n (scalarStatus st) pc
  else match s.step? ctx no with
    | some p => if p.phase = .running then s.takeStatus ctx no (scalarStatus st) ⟨0xFFFFFFFF#32, 0, false⟩ else s
    | none => s

/-- A request of a tile ends, with data or a status; what no longer waits for it discards it (R358). A contribution that could not
be sent, or whose request failed, gives its own status to the collective (DESIGN CHOICE, log 36). -/
def State.remoteEnd (s : State) (t : Nat) (q : Remote) (res : Except Status (List Byte)) : State :=
  let s0 := (s.onFab t fun f => { f with remotes := f.remotes.filter fun x => x.id != q.id }).blame
    (match res with | .error _ => [⟨.node q.node q.off, q.len, none, 0, 0⟩] | .ok _ => [])
  match q.owner with
  | .piece eng ord unit =>
    (match ((s0.tile t).work.running.find? fun r => r.eng = eng && r.ord = ord) with
     | some r =>
       (match r.reqs.find? fun x => x.issued.isSome && x.seq = unit with
        | some x => s0.endReq t r x res
        | none => s0)
     | none => s0)
  | .load n f rd pc => s0.endStall t n q.ctx q.id pc res (f.put rd)
  | .amo n rd pc => s0.endStall t n q.ctx q.id pc res fun bs z => z.wg rd (BitVec.ofNat 64 (ofBytes bs))
  | .store n pc no => (match res with | .error st => s0.endStore t n q.ctx pc no st | .ok _ => s0)
  | .contribution ord =>
    (match res with
     | .error st => (s0.dropColl t ord).onRun t ord fun r => if r.formed then r else { r.fail st with spot := s0.marks.spot }
     | .ok _ => s0)
  | .nobody => s0

end Sys2Proof.Machine
end

