-- ==== Sys2Proof/Machine/Topology.lean ====
section
/-! DEFINITION. The torus: coordinates and directions (R322 to R324, R332), the link-state map and the routes (R325 to R330), and the
requests and responses that leave in flits (R343). -/

namespace Sys2Proof.Machine

open Sys2Proof

/-! ### Coordinates and directions (R322 to R324, R332) -/

/-- The torus direction that a port serves: 0 +Y, 1 −Y, 2 +X, 3 −X, 4 +Z, 5 −Z (Table 12-1); SP that of its stand-in target. -/
def State.torusOf (s : State) (p : Nat) : Option Nat :=
  if p < 6 then some p
  else if p = 7 && bits (s.reg (lpCfg 7)) 9 3 = 2 then some (bits (s.reg (lpCfg 7)) 12 3)
  else none

/-- The port that serves a torus direction. -/
def State.portFor (s : State) (d : Nat) : Nat := if s.torusOf 7 = some d then 7 else d

/-- The dimension of a direction, X, Y, Z as 0, 1, 2, and whether it is the positive one. -/
def dimOf (d : Nat) : Nat := if d / 2 = 0 then 1 else if d / 2 = 1 then 0 else 2
def positive (d : Nat) : Bool := d % 2 = 0

/-- The direction along a dimension. -/
def dirAlong (dim : Nat) (plus : Bool) : Nat := (if dim = 0 then 2 else if dim = 1 then 0 else 4) + (if plus then 0 else 1)
def opposite (d : Nat) : Nat := if d % 2 = 0 then d + 1 else d - 1

/-- A coordinate's place and width in `LP_COORD[6:0]`. -/
def coordLo (dim : Nat) : Nat := 2 * dim
def coordWidth (dim : Nat) : Nat := if dim = 2 then 3 else 2
def coordAt (c dim : Nat) : Nat := c / 2 ^ coordLo dim % 2 ^ coordWidth dim
def setCoord (c dim v : Nat) : Nat := c - coordAt c dim * 2 ^ coordLo dim + v * 2 ^ coordLo dim

def State.topo (s : State) : Word := s.reg (lpBase + 0x018)
def topoValid (v : Word) : Bool := tst v 63
/-- A ring's length under a value of `LP_TOPO`. -/
def ringLen (v : Word) (dim : Nat) : Nat := bits v (coordLo dim) (coordWidth dim) + 1

/-- Own coordinates. -/
def State.coord (s : State) : Nat := bits (s.reg (lpBase + 0x008)) 0 7
def State.coordValid (s : State) : Bool := tst (s.reg (lpBase + 0x008)) 7
def State.hold (s : State) : Bool := tst (s.reg (lpBase + 0x020)) 0

/-- Coordinates stepped once in a direction, modulo the ring length. -/
def State.stepCoord (s : State) (c d : Nat) : Nat :=
  let n := ringLen s.topo (dimOf d)
  let v := coordAt c (dimOf d)
  setCoord c (dimOf d) (if positive d then (v + 1) % n else (v + n - 1) % n)

/-- Whether coordinates lie within the rings. -/
def inRings (v : Word) (c : Nat) : Bool := (List.range 3).all fun dim => coordAt c dim < ringLen v dim

/-! ### The link-state map and routes (R326 to R329) -/

/-- The map's key of a link end. -/
def endKey (coord d : Nat) : Nat := coord * 8 + d

/-- A link is up as both its ends say; an end that nothing has announced counts as up (DEDUCED, log 50). -/
def State.endUp (s : State) (coord d : Nat) : Bool :=
  if coord = s.coord then s.portState (s.portFor d) = portUp
  else match FMap.find? s.light.links (endKey coord d) with
    | some x => x.up
    | none => true

def State.linkUpAt (s : State) (coord d : Nat) : Bool := s.endUp coord d && s.endUp (s.stepCoord coord d) (opposite d)

/-- Every link along a direction, for a number of hops. -/
def State.pathUp (s : State) : Nat → Nat → Nat → Bool
  | 0, _, _ => true
  | n + 1, coord, d => s.linkUpAt coord d && s.pathUp n (s.stepCoord coord d) d

/-- Where a block for coordinates `q` leaves this package (R327): a direction and whether it detours, or nowhere. -/
inductive Exit where
  | here
  | via (d : Nat) (detour : Bool)
  | fail
  deriving DecidableEq, Repr

/-- The procedure of R327, for a block that has detoured already or not. -/
def State.route (s : State) (q : Nat) (detoured : Bool) : Exit :=
  let p := s.coord
  match (List.range 3).find? fun dim => coordAt p dim != coordAt q dim with
  | none => .here
  | some dim =>
    if ! topoValid s.topo || ! inRings s.topo q then .fail
    else
      let n := ringLen s.topo dim
      let plus := (coordAt q dim + n - coordAt p dim) % n
      let minus := n - plus
      let d := dirAlong dim (plus ≤ minus)
      let near := if plus ≤ minus then plus else minus
      if s.pathUp near p d then .via d false
      else if s.pathUp (n - near) p (opposite d) then .via (opposite d) false
      else if detoured then .fail
      else match ((List.range 3).filter (· != dim)).flatMap (fun x => [dirAlong x true, dirAlong x false]) |>.find?
          (fun x => s.portState (s.portFor x) = portUp) with
        | some x => .via x true
        | none => .fail

/-- The node map's entry of a node (R325). -/
def State.nodeEntry (s : State) (node : Nat) : Word := s.reg (lpBase + 0x8000 + 8 * node)

/-- How a block for a node leaves the package: the port and whether it detours now, or a failure (R325, R326, R330). -/
def State.exitOf (s : State) (node : Nat) (detoured : Bool) : Except Status (Nat × Bool) :=
  let e := s.nodeEntry node
  if ! tst e 63 || s.light.dups.contains node then .error 0x6020
  else match s.route (bits e 0 7) detoured with
    | .fail => .error 0x6020
    | .via d det => if s.portState (s.portFor d) = portUp then .ok (s.portFor d, det) else .error 0x6050
    | .here =>
      let p := if bits e 61 2 = 1 then 6 else 7
      if bits e 61 2 = 0 then .error 0x6020
      else if s.portState p = portUp && (p = 6 || bits (s.reg (lpCfg 7)) 9 3 = 1) then .ok (p, false) else .error 0x6050

/-- Two states have the same route to a node, as far as this package decides it: the same exit of the node map, by the same port. -/
def sameRoute (old new : State) (node : Nat) : Bool :=
  old.nodeEntry node = new.nodeEntry node &&
  match old.exitOf node false, new.exitOf node false with
  | .ok x, .ok y => x.1 = y.1
  | .error _, .error _ => true
  | _, _ => false

/-- After a change, source tiles hold new requests to each node whose route changed while requests to it are out (R329). -/
def State.rerouted (old new : State) : State :=
  { new with tiles := new.tiles.map fun p =>
      let out := (p.2.fab.remotes.filter fun q => q.sent.isSome).map (·.node)
      let moved := out.filter fun n => ! sameRoute old new n
      (p.1, { p.2 with fab := { p.2.fab with holds := moved.foldl (fun l n => if l.contains n then l else l ++ [n]) p.2.fab.holds } }) }

/-- The links of the map that are known down: each link once, under its end in the positive direction. -/
def State.downLinks (s : State) : Nat :=
  let own := if s.coordValid then (List.range 6).map fun d => (s.coord, d, s.endUp s.coord d) else []
  let ends := s.light.links.map (fun p => (p.1 / 8, p.1 % 8, p.2.up)) ++
    own.filter fun e => (FMap.find? s.light.links (endKey e.1 e.2.1)).isSome
  let down := (ends.filter fun e => ! e.2.2).map fun e =>
    if positive e.2.1 then endKey e.1 e.2.1 else endKey (s.stepCoord e.1 e.2.1) (opposite e.2.1)
  down.eraseDups.length

/-- Nodes that two coordinates announce. -/
def State.duplicates (s : State) : List Nat :=
  let all := (s.light.links.map fun p => (p.2.node.toNat, p.1 / 8)) ++ (if s.coordValid then [(s.node, s.coord)] else [])
  ((all.filter fun x => all.any fun y => y.1 = x.1 && y.2 != x.2).map (·.1)).eraseDups

/-- The map has changed: count down links, and see whether a node number is announced twice (R326). -/
def State.mapChanged (s : State) : State :=
  let ds := s.duplicates
  let s1 := { s.setField (lpBase + 0x040) 0 16 s.downLinks with light := { s.light with dups := ds } }
  if ds.any fun n => ! s.light.dups.contains n then s1.lightStatus 0x6054 else s1

/-- Send a link-state block on every torus port that is Up, but one. -/
def State.flood (s : State) (but : Nat) (x : LinkState) : State :=
  (List.range 8).foldl (fun acc p =>
    if p != but && (acc.torusOf p).isSome && acc.portState p = portUp then acc.sendControl p (.linkState x) else acc) s

/-- A torus port has entered or left Up: its epoch counts, and the change is flooded (R326). -/
def State.announce (s : State) (p : Nat) (up : Bool) : State :=
  match s.torusOf p with
  | none => s
  | some d =>
    let e := (s.port p).epoch + 1
    let s1 := s.onPort p fun x => { x with epoch := e }
    let info : LinkInfo := ⟨BitVec.ofNat 12 s.node, up, e⟩
    ({ s1 with light := { s1.light with links := FMap.insert s1.light.links (endKey s1.coord d) info } }.mapChanged).flood 8
      ⟨BitVec.ofNat 12 s.node, BitVec.ofNat 7 s.coord, Fin.ofNat 6 d, up, e⟩

/-! ### Requests and responses in flits (R333, R334, R343) -/

/-- A header (Table 13-2): kind and operation, destination, source, source tile, job tag, offset, request ID, length, words 3 to 5. -/
def headerBytes (kind op dst src tile job off id len : Nat) (w3 w4 w5 : Word) : List Byte :=
  let w0 := pack [(60, kind), (56, op), (44, dst), (32, src), (22, tile), (0, job)]
  ([w0, BitVec.ofNat 64 off, pack [(32, id), (0, len)], w3, w4, w5, 0, 0].map fun w => bytesOf 8 w.toNat).flatten

/-- A message's bytes in blocks of two flits; the last flit is filled with zeros. -/
def blocksOf (bytes : List Byte) : List (List Byte) :=
  (cuts bytes.length payloadBytes).map fun x =>
    padTo (flitBytes * cdiv x.2 flitBytes) ((bytes.drop x.1).take x.2)

/-- The hop from this package in a direction crosses the ring's wrap link. -/
def State.wraps (s : State) (d : Nat) : Bool :=
  let v := coordAt s.coord (dimOf d)
  if positive d then v + 1 = ringLen s.topo (dimOf d) else v = 0

/-- The phase of a block that leaves by a port (R327): 1 once it has detoured, across a wrap link, and after one while it keeps to the
dimension; `came` is the port and the phase in which it arrived. -/
def State.phaseOut (s : State) (p : Nat) (detoured : Bool) (came : Option (Nat × Bool)) : Bool :=
  match s.torusOf p with
  | none => false
  | some d =>
    detoured || s.wraps d ||
    (match came with
     | some (q, ph) => ph && (match s.torusOf q with | some d0 => dimOf d0 = dimOf d | none => false)
     | none => false)

/-- Data blocks of a class wait at a port, in the slot of their job. -/
def State.enqueueBlocks (s : State) (p cls : Nat) (phase : Bool) (job : BitVec 20) (party : Party) (blocks : List (List Byte)) : State :=
  s.onPort p fun x =>
    { x with waiting := x.waiting ++ blocks.map fun b => ⟨channel cls phase (x.slotFor job), .flits b, party⟩ }

/-- A message of this package leaves by a port. -/
def State.sendMessage (s : State) (p cls : Nat) (detour : Bool) (job : BitVec 20) (party : Party) (bytes : List Byte) : State :=
  let bs := blocksOf bytes
  (s.enqueueBlocks p cls (s.phaseOut p detour none) job party bs).count (lpBase + 0x030) (if detour then bs.length else 0)

/-- The class of a request's channel: collective contributions have their own (DEDUCED, log 102). -/
def channelClass (kind : Nat) : Nat := if kind = 6 then 3 else 1
def responseClass : Nat := 2

/-- A response leaves for its request's source by the routes of R327; without a route it is dropped (R330). -/
def State.sendAnswer (s : State) (a : Answer) : State :=
  let s1 := { s with light := { s.light with answers := s.light.answers ++ [a] } }
  match s1.exitOf a.node.toNat false with
  | .error _ => s1
  | .ok (p, det) =>
    s1.sendMessage p responseClass det a.job .nobody
      (headerBytes 8 0 a.node.toNat s.node a.tile.toNat a.job.toNat a.off.toNat a.id.toNat a.len 0 0
        (pack [(48, a.status.toNat), (40, a.grant)]) ++ a.data)

/-- The failure of another node's request travels back to its source, once for the request (R330). -/
def State.failBack (s : State) (node : BitVec 12) (tile : BitVec 10) (id : BitVec 32) (job : BitVec 20) (st : Status) : State :=
  if s.light.answers.any fun a => a.node = node && a.tile = tile && a.id = id then s
  else
    (if st = 0x6020 then s.count (lpBase + 0x038) 1 else s).sendAnswer ⟨node, tile, id, job, 0, 0, st, bits (s.reg (fbBase + 0x000)) 0 6, []⟩

/-- Fail requests of tiles with a status. -/
def State.failRemotes (s : State) (refs : List (Nat × BitVec 32)) (st : Status) : State :=
  refs.foldl (fun acc r =>
    match (acc.tile r.1).fab.remotes.find? fun q => q.id = r.2 && q.sent.isSome with
    | some q => acc.remoteEnd r.1 q (.error st)
    | none => acc) s

/-- The requests of tiles of this package, and of other nodes, whose blocks a port holds to send or to re-send. -/
def Port.refs (x : Port) : List (Nat × BitVec 32) :=
  ((x.held.map (·.parcel) ++ x.waiting).filterMap fun c => match c.party with | .own t id => some (t, id) | _ => none).eraseDups
def Port.others (x : Port) : List (BitVec 12 × BitVec 10 × BitVec 32 × BitVec 20) :=
  ((x.held.map (·.parcel) ++ x.waiting).filterMap fun c => match c.party with | .other n t id job => some (n, t, id, job) | _ => none).eraseDups

/-- Requests of tiles fail with `LP_LINK_DOWN`; tiles that a fix has stopped learn it when it ends (R504, R506). -/
def State.failOwn (s : State) (refs : List (Nat × BitVec 32)) : State :=
  if s.fixed then { s with dbg := { s.dbg with deferred := s.dbg.deferred ++ refs.map fun r => .remote r.1 r.2 0x6050 } }
  else s.failRemotes refs 0x6050

/-- What a port held fails: requests of this package at their tiles, others' back towards their sources. -/
def State.failHeld (s : State) (x : Port) : State :=
  x.others.foldl (fun acc r => acc.failBack r.1 r.2.1 r.2.2.1 r.2.2.2 0x6050) (s.failOwn x.refs)

/-- Data that waits to be sent is gone. Blocks held for re-send stay, for the sequence goes on (log 103). -/
def Port.dropWaiting (x : Port) : Port := { x with waiting := x.waiting.filter fun c => ! c.isData }

end Sys2Proof.Machine
end

