-- ==== Sys2Proof/Machine/Light.lean ====
section
/-! DEFINITION. The light ports at work: the states of a port (Table 12-3), negotiation (R317 to R321), blocks that arrive (R312 to R315),
link states, gates and lasers (R336 to R338), register writes, the loopback test (R538, R539). -/

namespace Sys2Proof.Machine

open Sys2Proof

/-! ### Leaving and entering states -/

/-- What a port keeps when its link stops: its settings, its epoch, its probes, the slots in effect, its landing entries. -/
def Port.unlinked (x : Port) : Port :=
  { Port.empty with
    since := x.since
    mine := x.mine
    epoch := x.epoch
    probed := x.probed
    active := x.active
    entries := x.entries }

/-- A port stops its link: nothing is held any more, what it held fails, and the change is flooded when it was Up (R330). -/
def State.dropLink (s : State) (p k : Nat) : State :=
  let up := s.portState p = portUp
  let old := s.port p
  let s1 := ((s.enterPort p k).setField (lpStatus p) 4 4 0).setField (lpStatus p) 32 16 0
  let s2 := ((s1.onPort p Port.unlinked).setReg (lpPartner p) 0).settleSlots p
  if up then State.rerouted s (((s2.count (lpReg 0x148 p) 1).announce p false).failHeld old) else s2

/-- Dark: probing, with every gate closed. -/
def State.goDark (s : State) (p : Nat) : State := (s.dropLink p portDark).setGates p 0 true

/-- A negotiation fails: every gate closes, and the port starts again after 1 s (R317, R319). -/
def State.negotiationFailed (s : State) (p : Nat) (st : Status) : State :=
  ((s.dropLink p portDark).setGates p 0 false).portStatus p st

/-- Off: every gate closed, the laser-enable land low (R338). A loopback test ends without a result. -/
def State.goOff (s : State) (p : Nat) : State :=
  let s1 := if s.looping p then s.setField (lpLoopReg p) 63 1 0 else s
  if s1.portState p = portOff then s1.setGates p 0 false else (s1.dropLink p portOff).setGates p 0 false

/-- Back to training with the pairs that still have light (R321). -/
def State.retrain (s : State) (p : Nat) : State :=
  if s.gates p = 0 then s.goDark p
  else (s.dropLink p portRetrain).onPort p fun x => { x with mine := BitVec.ofNat 5 (bits (s.reg (lpCfg p)) 0 5) }

/-- The stages and states in which ports negotiate at all: from the light stage on, not Stowed or on its way there, not in a
warm reset's later half, not safe. -/
def State.lightOn (s : State) : Bool :=
  4 ≤ s.stage && s.stage ≤ 6 && ! s.safety.safe && ! s.safety.eoff && s.running && (s.normal || s.start.boot = .warmFlush)

/-- A port may leave Off (R322, R324, R332, R336). -/
def State.portWanted (s : State) (p : Nat) : Bool :=
  s.lightOn && tst (s.reg (lpCfg p)) 8 && (p != 7 || bits (s.reg (lpCfg 7)) 9 3 != 0) &&
  match s.torusOf p with
  | some d => s.coordValid && ! (topoValid s.topo && ringLen s.topo (dimOf d) = 1)
  | none => true

/-- Start or stop a port as its conditions say. A test goes on, but in Stowed and on the way there every port is Off (R421). -/
def State.refreshPort (s : State) (p : Nat) : State :=
  if s.looping p then (if s.running then s else s.goOff p)
  else if s.portWanted p then (if s.portState p = portOff then s.goDark p else s)
  else s.goOff p

def State.refreshPorts (s : State) : State := (List.range 8).foldl State.refreshPort s

/-! ### Negotiation -/

/-- Lanes of a pair that passed at a rate or above, as both ends found. -/
def Port.usable (x : Port) (i : Nat) (fast : Bool) : Nat :=
  let low := fun (r : BitVec 8) => if fast then r.toNat % 16 else r.toNat % 16 ||| r.toNat / 16
  match x.cap with
  | some c => low (FMap.get 0 x.passed i) &&& low (c.pairs.getD i 0)
  | none => 0

def Candidate.rate (c : Candidate) : Nat := c.pairs.length * c.w * (if c.fast then 200 else 100)

def candidate (x : Port) (fast : Bool) (w : Nat) : Candidate :=
  ⟨fast, w, (List.range 16).filter fun i => x.usable i fast % 2 ^ w = 2 ^ w - 1⟩

/-- A comes before B: the higher line rate, then the higher r; then the higher w (DEDUCED, log 51). -/
def Candidate.before (a b : Candidate) : Bool :=
  b.rate < a.rate || (a.rate = b.rate && ((a.fast && ! b.fast) || (a.fast = b.fast && b.w ≤ a.w)))

/-- The usable candidates in order, from the two capability blocks (R318). -/
def Port.candidates (x : Port) : List Candidate :=
  match x.cap with
  | none => []
  | some c =>
    let slow := x.mine.getLsbD 4 || c.only100
    let top := min (waves (x.mine.toNat / 4 % 4)) (waves c.maxW.toNat)
    let all := ((if slow then [false] else [true, false]).flatMap fun f => ([4, 2, 1].filter (· ≤ top)).map fun w => candidate x f w)
    (all.filter fun c => 8 ≤ c.pairs.length).mergeSort Candidate.before

/-- FEC settings of the two ends. -/
def Port.fecs (x : Port) : Nat × Nat := (x.mine.toNat % 4, match x.cap with | some c => c.fec.toNat | none => 0)
def Port.fecOn (x : Port) : Bool := x.fecs.1 = 1 || x.fecs.2 = 1
def Port.fecForbidden (x : Port) : Bool := x.fecs.1 = 2 || x.fecs.2 = 2

/-- Begin the test of a mode. -/
def State.testMode (s : State) (p : Nat) (c : Candidate) (fec : Bool) : State :=
  let code := if c.w = 4 then 0 else if c.w = 2 then 1 else 2
  let v := pack [(48, bits (s.reg (lpStatus p)) 48 16), (32, (c.pairs.map (2 ^ ·)).sum), (7, b2n fec), (6, b2n c.fast), (4, code), (0, portTest)]
  (s.setReg (lpStatus p) v).onPort p fun x => { x with since := s.chron, own := none, peer := none }

/-- Test candidate `k`, or fail when there is none. -/
def State.tryMode (s : State) (p k : Nat) : State :=
  match (s.port p).cands[k]? with
  | some c => (s.onPort p fun x => { x with tried := k }).testMode p c (s.port p).fecOn
  | none => s.negotiationFailed p 0x6051

/-- The partner's coordinates, port and kind are those of the neighbour that the port must face (R324). -/
def State.facing (s : State) (p : Nat) : Bool :=
  match s.torusOf p, (s.port p).cap with
  | some d, some c =>
    c.port.toNat = opposite d && c.coordValid && c.coord.toNat = s.stepCoord s.coord d
  | _, _ => false

/-- What this end tells its partner (Table 12-4); a stand-in gives the number of its torus port (R332). -/
def State.ownCapability (s : State) (p : Nat) : Capability :=
  let x := s.port p
  { port := BitVec.ofNat 8 ((s.torusOf p).getD p), node := BitVec.ofNat 12 s.node, coordValid := s.coordValid, coord := BitVec.ofNat 7 s.coord,
    only100 := x.mine.getLsbD 4, maxW := x.mine.extractLsb' 2 2, fec := x.mine.extractLsb' 0 2, kind := 0,
    pairs := (List.range 16).map fun i => FMap.get 0 x.passed i }

def State.sendCapability (s : State) (p : Nat) : State := s.sendControl p (.capability (s.ownCapability p))

/-- The partner is a package whose port or coordinates are not those that this port must face. -/
def State.mismatched (s : State) (p : Nat) : Bool :=
  match s.torusOf p, (s.port p).cap with
  | some d, some c => c.kind = 0 && (c.port.toNat != opposite d || (topoValid s.topo && ! s.facing p))
  | _, _ => false

/-- At link up, Up or Held, the port advertises its slots (R334); `was` is the state that it comes from. -/
def State.advertise (s : State) (p was : Nat) : State :=
  if was = portUp || was = portHeld then s else s.sendControl p (.slots (s.ownSlots p))

/-- The link of a port is up: Up, or Held where R324 does not allow Up. -/
def State.settlePort (s : State) (p : Nat) : State :=
  let was := s.portState p
  let torus := (s.torusOf p).isSome
  let pkg := match (s.port p).cap with | some c => c.kind = 0 | none => false
  if torus && (s.hold || ! topoValid s.topo || ! pkg || ! s.facing p) then
    let s1 := if was = portUp then
        let s2 := s.setField (lpStatus p) 0 4 portHeld
        State.rerouted s ((((s2.onPort p Port.dropWaiting).count (lpReg 0x148 p) 1).announce p false).failHeld (s.port p))
      else (s.setField (lpStatus p) 0 4 portHeld).advertise p was
    if s.mismatched p then s1.portStatus p 0x6053 else s1
  else if was = portUp then s
  else
    let s1 := (s.setField (lpStatus p) 0 4 portUp).advertise p was
    let s2 := if p = 6 then s1.setField (mtBase + 0x010) 1 1 1 else s1
    State.rerouted s (s2.announce p true)

/-- The test has both results: the worse of the two decides (R317, R319, R320). -/
def State.judge (s : State) (p : Nat) : State :=
  let x := s.port p
  match x.own, x.peer with
  | some a, some b =>
    let errs := max a.errored b.errored
    let unc := max a.uncorr b.uncorr
    let fec := tst (s.reg (lpStatus p)) 7
    if fec && unc != 0 then s.tryMode p (x.tried + 1)
    else if ! fec && errs != 0 then
      if x.fecForbidden then s.tryMode p (x.tried + 1)
      else match x.cands[x.tried]? with
        | some c => s.testMode p c true
        | none => s
    else s.settlePort p
  | _, _ => s

/-! ### Rows of the negotiation -/

/-- A gate opens (R336, R337); a port that had no light begins to train. -/
def execLpGateOpen (p : PortNo) (pair : Fin 16) (s : State) : Result :=
  .next (
    if ! s.laserOn p || s.gateOpen p pair then s
    else
      let s1 := s.setGates p (s.gates p + 2 ^ pair.val) true
      if s.looping p || s.portState p != portDark then s1
      else (s1.enterPort p portTraining).onPort p fun x => { x with mine := BitVec.ofNat 5 (bits (s.reg (lpCfg p)) 0 5), passed := [] })

/-- A gate closes; an Up port retrains, and a port without light is Dark. -/
def execLpGateClose (p : PortNo) (pair : Fin 16) (s : State) : Result :=
  .next (
    if ! s.gateOpen p pair then s
    else
      let s1 := s.setGates p (s.gates p - 2 ^ pair.val) true
      if s.looping p then s1.onPort p fun x => { x with shut := x.shut ++ [pair.val] }
      else if s1.gates p = 0 then s1.goDark p
      else if s1.portState p = portUp then s1.retrain p
      else s1)

/-- A closed gate sends a probe pulse every 100 ms. -/
def execLpGateProbe (p : PortNo) (pair : Fin 16) (s : State) : Result :=
  .next (
    let last := FMap.get 0 (s.port p).probed pair
    if ! s.laserOn p || s.gateOpen p pair || (last != 0 && (s.chron - last).toNat < 100000000) then s
    else s.onPort p fun x => { x with probed := FMap.put 0 x.probed pair s.chron })

/-- Every pair whose gate is open has been trained. -/
def State.allTrained (s : State) (p : Nat) : Bool := (List.range 16).all fun i => ! s.gateOpen p i || (FMap.find? (s.port p).passed i).isSome

def execLpTrainingDone (p : PortNo) (pair : Fin 16) (at200 : BitVec 4) (at100 : BitVec 4) (s : State) : Result :=
  .next (
    if s.looping p || ! s.gateOpen p pair || (s.portState p != portTraining && s.portState p != portRetrain) then s
    else
      let s1 := s.onPort p fun x => { x with passed := FMap.insert x.passed pair (at100 ++ at200) }
      if s1.allTrained p then (s1.enterPort p portExchange).sendCapability p
      else s1.setField (lpStatus p) 0 4 portTraining)

/-- `LP_PARTNER[p]` of a capability block. -/
def capWord (c : Capability) : Word :=
  pack [(63, 1), (26, c.kind.toNat), (23, c.port.toNat % 8), (12, c.coord.toNat), (0, c.node.toNat)]

/-- A capability block whose codes Table 12-4 does not list is ignored (DEDUCED, log 52). -/
def capListed (c : Capability) : Bool := c.fec != 3 && c.maxW != 3 && c.kind != 3 && c.port.toNat < 8

/-- In Exchange the mode and the FEC are chosen; on a running link the neighbour is checked again (R323, R324). -/
def execLpCapabilityBlock (p : PortNo) (cap : Capability) (s : State) : Result :=
  if ! Instr.wf (.lpCapabilityBlock p cap) then .refused .illFormed
  else .next (
    if s.looping p || ! capListed cap then s
    else
      let s1 := (s.onPort p fun x => { x with cap := some cap }).setReg (lpPartner p) (capWord cap)
      if s.portState p = portExchange then
        let f := (s1.port p).fecs
        if (f.1 = 1 && f.2 = 2) || (f.1 = 2 && f.2 = 1) then s1.negotiationFailed p 0x6052
        else (s1.onPort p fun x => { x with cands := x.candidates }).tryMode p 0
      else if s.portState p = portUp || s.portState p = portHeld then s1.settlePort p
      else s)

def execLpExchangeTimeout (p : PortNo) (s : State) : Result :=
  .next (
    if s.looping p || s.portState p != portExchange || (s.chron - (s.port p).since).toNat < 1000000 then s
    else s.negotiationFailed p 0x6051)

/-- This end has received test blocks for 1 ms, and reports what it counted. -/
def execLpTestDone (p : PortNo) (counts : TestCounts) (s : State) : Result :=
  .next (
    if s.looping p || s.portState p != portTest || (s.port p).own.isSome || (s.chron - (s.port p).since).toNat < 1000000 then s
    else
      let s1 := s.count (lpReg 0x128 p) counts.errored
      let s2 := if s1.fecIsOn p then (s1.count (lpReg 0x138 p) counts.corrected).count (lpReg 0x140 p) counts.uncorr else s1
      ((s2.onPort p fun x => { x with own := some counts }).sendControl p (.result counts)).judge p)

def execLpTestResult (p : PortNo) (counts : TestCounts) (s : State) : Result :=
  .next (
    if s.looping p || s.portState p != portTest then s
    else (s.onPort p fun x => { x with peer := some counts }).judge p)

/-- A Dark port whose gates were closed by a failed negotiation starts again. -/
def execLpRestart (p : PortNo) (s : State) : Result :=
  .next (
    if s.looping p || s.portState p != portDark || s.laserOn p || (s.chron - (s.port p).since).toNat < 1000000000 || ! s.portWanted p then s
    else (s.enterPort p portDark).setGates p 0 true)

def execLpRetrain (p : PortNo) (w : Wr) (s : State) : Result :=
  .next (s.trigger1 (lpReg 0x120 p) w fun s => if s.portState p = portUp || s.portState p = portHeld then s.retrain p else s)

def execLpLossOfLight (p : PortNo) (s : State) : Result :=
  .next (if s.looping p || s.portState p ≤ portDark then s else s.goDark p)

/-! ### Blocks that arrive (R312 to R315) -/

/-- A block's type is listed and its flit count fits (R313). -/
def blockLegal (h0 h1 : Word) : Bool :=
  bits h0 60 4 ≤ 3 && (if bits h0 60 4 = 1 then bits h1 0 2 = 1 || bits h1 0 2 = 2 else bits h1 0 2 = 0)

/-- Send again from a sequence on; a block that has been sent 8 times makes the port retrain (R314). -/
def State.rewind (s : State) (p : Nat) (q : BitVec 24) : State :=
  let again := (s.port p).held.filter fun h => seqReached h.seq q
  if again.any fun h => maxSends ≤ h.sends then s.retrain p else s.resend p again

/-- A data block that passes through (R327 to R330, R359): it waits at the port of its route, in its class and its job's slot, or its
request fails back towards its source. A response without a route is dropped. -/
def State.forwardBlock (s : State) (p : Nat) (vc : BitVec 6) (flits : List Byte) (x : Transit) : State :=
  let cls := vc.toNat / 16
  if x.node.toNat = s.node then s
  else match s.exitOf x.node.toNat x.detoured with
    | .error st => if cls = responseClass then s else s.failBack x.src x.tile x.id x.job st
    | .ok (q, det) =>
      let party : Party := if cls = responseClass then .nobody else .other x.src x.tile x.id x.job
      (s.enqueueBlocks q cls (s.phaseOut q (x.detoured || det) (some (p, vc.getLsbD 3))) x.job party [flits]).count (lpBase + 0x030) (b2n det)

/-- One more block of a channel has left the receive buffer. -/
def Port.giveCredit (x : Port) (vc : Nat) : Port :=
  { x with given := FMap.put 0 x.given vc (FMap.get 0 x.given vc + 1), lastGiven := vc }

/-- After a fix the ports give the credits that they withheld in it (R504). -/
def State.giveWithheld (s : State) : State :=
  (List.range 8).foldl (fun acc p => acc.onPort p fun x => { x.withheld.foldl Port.giveCredit x with withheld := [] }) s

/-- A block whose CRC holds and that is legal: its acknowledgement and credit, its sequence (R314). An accepted data block frees its
place in the receive buffer at once (log 103), in a fix when that ends, and goes on where it passes through; what arrives here takes effect by the row of that
event. -/
def State.takeBlock (s : State) (p : Nat) (block : List Byte) (h0 h1 : Word) (x : Option Transit) : State :=
  let kind := bits h0 60 4
  let vc := BitVec.ofNat 6 (bits h0 54 6)
  let a := BitVec.ofNat 24 (bits h0 0 24)
  let s1 := (s.onPort p fun x => { x with freed := FMap.put 0 x.freed (bits h1 58 6) (BitVec.ofNat 16 (bits h1 32 16)) }).ackBlocks p
    (if kind = 3 then a - 1 else a)
  if kind != 1 && kind != 2 then s1
  else
    let q := BitVec.ofNat 24 (bits h0 24 24)
    let e := (s1.port p).expect
    if q = e then
      let s2 := s1.onPort p fun x => { x with expect := e + 1, resending := false }
      if kind = 2 then s2
      else
        let s3 := (s2.onPort p fun x =>
          if s.fixed then { x with withheld := x.withheld ++ [vc.toNat] } else x.giveCredit vc.toNat).count (lpReg 0x158 p) 1
        match x with
        | some t => s3.forwardBlock p vc ((block.drop 16).take (flitBytes * bits h1 0 2)) t
        | none => s3
    else if (e - q).toNat ≤ maxHeld then s1
    else s1.askResend p

/-- One block arrives: its CRC and its form (R313). -/
def State.receiveBlock (s : State) (p : Nat) (block : List Byte) (x : Option Transit) : State :=
  let h0 := BitVec.ofNat 64 (ofBytes (block.take 8))
  let h1 := BitVec.ofNat 64 (ofBytes ((block.drop 8).take 8))
  if crc64 (block.take 272) != BitVec.ofNat 64 (ofBytes (block.drop 272)) || ! blockLegal h0 h1 then
    (s.count (lpReg 0x128 p) 1).askResend p
  else s.takeBlock p block h0 h1 x

/-- A block arrives or, with the light FEC on, a codeword of four: corrected and uncorrectable codewords count, and the blocks of an
uncorrectable one count as blocks that failed their CRC (R315). What is not of the line's form is no block. -/
def execLpBlockReceive (p : PortNo) (block : List Byte) (s : State) (transit : List (Option Transit) := []) : Result :=
  if ! Instr.wf (.lpBlockReceive p block transit) then .refused .illFormed
  else .next (
    if ! s.carrying p || s.fecIsOn p != (block.length = codewordBytes) then s
    else if ! s.fecIsOn p then s.receiveBlock p block ((transit[0]?).getD none)
    else match decodeCodeword block with
      | none => ((s.count (lpReg 0x140 p) 1).count (lpReg 0x128 p) 4).askResend p
      | some (bs, fixed) =>
        bs.zipIdx.foldl (fun acc b => acc.receiveBlock p b.1 ((transit[b.2]?).getD none)) (s.count (lpReg 0x138 p) (b2n fixed)))

def execLpResendRequest (p : PortNo) (seq : BitVec 24) (s : State) : Result :=
  .next (if s.carrying p then (s.ackBlocks p (seq - 1)).rewind p seq else s)

/-- The oldest held block has waited 2 µs. -/
def execLpResendTimeout (p : PortNo) (s : State) : Result :=
  .next (match (s.port p).held with
    | h :: _ => if s.carrying p && 2000 ≤ (s.chron - h.since).toNat then s.rewind p h.seq else s
    | [] => s)

/-! ### Link states and slots -/

/-- A newer epoch lies less than 2^31 ahead (R326). -/
def newer (a b : BitVec 32) : Bool := a != b && (a - b).toNat < 2 ^ 31

/-- The announced node number holds for every end of that package. -/
def renode (links : FMap LinkInfo) (coord : Nat) (node : BitVec 12) : FMap LinkInfo :=
  links.map fun p => if p.1 / 8 = coord then (p.1, { p.2 with node := node }) else p

def execLpLinkState (p : PortNo) (x : LinkState) (s : State) : Result :=
  .next (
    let k := endKey x.coord.toNat x.port
    let known := match FMap.find? s.light.links k with | some y => ! newer x.epoch y.epoch | none => false
    if ! s.carrying p || (s.torusOf p).isNone || (s.portState p != portUp && s.portState p != portHeld) || known || x.coord.toNat = s.coord then s
    else
      let links := FMap.insert (renode s.light.links x.coord.toNat x.node) k ⟨x.node, x.up, x.epoch⟩
      State.rerouted s ({ s with light := { s.light with links := links } }.mapChanged.flood p x))

/-- The partner's slots take effect as each slot empties (R334). -/
def execLpSlotAdvertisement (p : PortNo) (slots : List (Fin 8 × BitVec 20 × BitVec 16)) (s : State) : Result :=
  .next (
    if ! s.carrying p || p.val ≥ 6 && s.torusOf p = none then s
    else (s.onPort p fun x => { x with offered := slots.foldl (fun m e => FMap.insert m e.1 e.2) [] }).settleSlots p)

/-- A tile, not stopped by a fix, has no request left that it sent to a node before the route changed (R329). -/
def execRouteHoldRelease (t : Tile) (node : BitVec 12) (s : State) : Result :=
  .next (
    let f := (s.tile t).fab
    if s.fixed || ! f.holds.contains node.toNat || f.remotes.any fun q => q.node = node.toNat && q.sent.isSome then s
    else s.onFab t fun f => { f with holds := f.holds.filter (· != node.toNat) })

/-! ### Register writes -/

/-- Write a register's fields, recording a refused encoding (R5). -/
def State.putFields (s : State) (a : Nat) (v m : Word) (fs : List Field) : State :=
  let r := writeFields (s.reg a) v m fs
  if r.2 then (s.setReg a r.1).record a rejected else s.setReg a r.1

def execLpCoordWrite (w : Wr) (s : State) : Result :=
  .next (
    let a := lpBase + 0x008
    s.write a w fun s v m =>
      if ! s.hold then s.record a 0x2081
      else State.rerouted s ((s.setReg a (setBits 0 0 8 (128 + bits (merge (s.reg a) v m) 0 7))).mapChanged.refreshPorts))

def execLpNodeWrite (w : Wr) (s : State) : Result :=
  .next (
    let a := lpBase + 0x010
    s.write a w fun s v m =>
      if ! s.hold then s.record a 0x2081
      else (s.setReg a (setBits 0 0 12 (bits (merge (s.reg a) v m) 0 12))).mapChanged)

/-- Every port whose link is up, Up or Held. -/
def State.settlePorts (s : State) : State :=
  (List.range 8).foldl (fun acc p => if ! acc.looping p && (acc.portState p = portUp || acc.portState p = portHeld) then acc.settlePort p else acc) s

def execLpTopoWrite (w : Wr) (s : State) : Result :=
  .next (
    let a := lpBase + 0x018
    s.write a w fun s v m =>
      let new := merge (s.reg a) v m &&& 0x800000000000007F#64
      if topoValid new && ! inRings new s.coord then s.record a rejected
      else State.rerouted s ((s.setReg a new).mapChanged.refreshPorts.settlePorts))

/-- Clearing HOLD sends fresh capability blocks; setting it leaves torus ports with control blocks only. -/
def execLpCtrlWrite (w : Wr) (s : State) : Result :=
  .next (
    let a := lpBase + 0x020
    s.write a w fun s v m =>
      let h := tst (merge (s.reg a) v m) 0
      let s1 := s.setReg a (BitVec.ofNat 64 (b2n h))
      if h = s.hold then s1
      else if h then s1.settlePorts
      else ((List.range 8).foldl (fun acc p => if acc.portState p = portUp || acc.portState p = portHeld then acc.sendCapability p else acc) s1).settlePorts)

/-- Blocks that the valid slots of a port take. -/
def State.allotted (s : State) (p : Nat) : Nat :=
  ((List.range 7).map fun i => let v := s.reg (jobvcReg p (i + 1)); if tst v 63 then bits v 0 16 else 0).sum

def jobvcFields : List Field := [whole 63 1, whole 36 20, ⟨32, 4, fun n => n != 0⟩, ⟨0, 16, fun n => 16 ≤ n && n ≤ 3072 && n % 16 = 0⟩]

/-- Slot 0 keeps at least 1,024 of the 4,096 blocks (R333). A port beyond 5 and slot 0 have no entry. -/
def execLpJobvcWrite (p : PortNo) (n : Fin 8) (w : Wr) (s : State) : Result :=
  .next (
    let a := jobvcReg p n
    s.write a w fun s v m =>
      if 6 ≤ p.val || n = 0 then s
      else
        let s1 := s.putFields a v m jobvcFields
        if 3072 < s1.allotted p then s.record a 0x2082
        else
          let s2 := s1.settleSlots p
          if s2.carrying p then s2.sendControl p (.slots (s2.ownSlots p)) else s2)

def lpCfgFields (p : Nat) : List Field :=
  [⟨16, 4, fun n => n != 0⟩, ⟨12, 3, fun n => n ≤ 5⟩, ⟨9, 3, fun n => n ≤ 2 && (p = 7 || n = 0)⟩, whole 8 1, whole 4 1,
    ⟨2, 2, fun n => n ≤ 2⟩, ⟨0, 2, fun n => n ≤ 2⟩]

/-- SP takes no role of a torus port that is enabled itself (R332). A new role or target of a running SP first ends its link in the old
role, whose direction is announced down (R326), then makes it negotiate again (DESIGN CHOICE, log 104). -/
def execLpCfgWrite (p : PortNo) (w : Wr) (s : State) : Result :=
  .next (
    let a := lpCfg p
    s.write a w fun s v m =>
      let new := (writeFields (s.reg a) v m (lpCfgFields p)).1
      if p = 7 && bits new 9 3 = 2 && tst (s.reg (lpCfg (bits new 12 3))) 8 then s.record a 0x2083
      else
        let again := p = 7 && bits new 9 6 != bits (s.reg a) 9 6 && s.carrying p
        let s1 := ((if again then s.retrain p else s).putFields a v m (lpCfgFields p)).refreshPort p
        State.rerouted s (if again then s1.onPort p fun x => { x with mine := BitVec.ofNat 5 (bits new 0 5) } else s1))

/-- `LP_CNT_` counters (Table 12-6). -/
def lightCounters : List Nat := [lpBase + 0x030, lpBase + 0x038] ++ (List.range 8).flatMap fun p => span (lpReg 0x128 p) 8

def execLpCntClear (w : Wr) (s : State) : Result := .next (s.trigger1 (lpBase + 0x048) w fun s => s.clearRegs lightCounters)

/-! ### Optical loopback (R538 to R540) -/

def loopFields : List Field := [⟨61, 2, fun n => n = 1 || n = 2⟩, whole 60 1, ⟨32, 16, fun n => 10 ≤ n && n ≤ 60000⟩, whole 0 24]

/-- From the light stage on a laser-enable land may be asserted (R456). -/
def State.lightStage (s : State) : Bool := 4 ≤ s.stage % 0x80

/-- A test starts: in EXT mode with the lasers, as far as the stage allows them. -/
def execLpLoop (p : PortNo) (w : Wr) (s : State) : Result :=
  .next (
    let a := lpLoopReg p
    s.write a w fun s v m =>
      let cfg := s.reg (lpCfg p)
      let r := writeFields (s.reg a) v m loopFields
      if ! tst (v &&& m) 63 then s.putFields a v m loopFields
      else if s.portState p != portOff || tst cfg 8 || (p = 7 && bits cfg 9 3 != 0) then s.portStatus p 0x2084
      else if r.2 || bits r.1 61 2 = 0 || bits r.1 32 16 = 0 then s.putFields a v m loopFields
      else (((s.setReg a (setBits r.1 63 1 1)).enterPort p portTest).setGates p 0 (bits r.1 61 2 = 1 && s.lightStage)).onPort p fun x =>
        { x with shut := [] })

/-- The end of a test: the results are written, and what was written meanwhile takes effect. In EXT mode a lane passes only if its pair's
gate is open and has not closed in the test; `stayed` names the pairs whose gates opened in time (R539). -/
def execLpLoopDone (p : PortNo) (stayed : BitVec 16) (errs : List Nat) (s : State) : Result :=
  if ! Instr.wf (.lpLoopDone p stayed errs) then .refused .illFormed
  else .next (
    let v := s.reg (lpLoopReg p)
    if ! s.looping p || (s.chron - (s.port p).since).toNat < bits v 32 16 * 1000000 then s
    else
      let lit := fun (i : Nat) => stayed.getLsbD i && s.gateOpen p i && ! (s.port p).shut.contains i
      let pass := fun (i j : Nat) => (bits v 61 2 = 2 || lit i) && errs.getD (4 * i + j) 0 ≤ bits v 0 24
      let map := ((List.range 64).map fun k => if pass (k / 4) (k % 4) then 2 ^ k else 0).sum
      let total := errs.sum
      let s1 := (s.setReg (lpReg 0x170 p) (BitVec.ofNat 64 map)).setReg (lpReg 0x178 p)
        (pack [(63, 1), (62, b2n (2 ^ 48 ≤ total)), (0, min total (2 ^ 48 - 1))])
      (((s1.setField (lpLoopReg p) 63 1 0).enterPort p portOff).setGates p 0 false).refreshPort p)

/-- Emergency-off and the safe state end every test without a result, and every port goes Off. -/
def State.lightsOut (s : State) : State :=
  (List.range 8).foldl State.goOff s

end Sys2Proof.Machine
end

