-- ==== Sys2Proof/Machine/Fabric.lean ====
section
/-! DEFINITION. Remote accesses (chapter 13): sending within the grant, the landing unit's checks, requests at their targets,
responses, timeouts, landing tables and reach maps. -/

namespace Sys2Proof.Machine

open Sys2Proof

/-! ### The source (R344, R345, R357) -/

/-- The grant that a node last gave; 4 until a response arrives from it. -/
def FabricSide.grant (f : FabricSide) (node : Nat) : Nat := (FMap.get 4 f.grants node).toNat

/-- The request may leave now: no earlier one to its node waits, no route hold, and both limits allow it. -/
def FabricSide.mayLeave (f : FabricSide) (q : Remote) : Bool :=
  let out := f.remotes.filter fun x => x.sent.isSome
  q.sent.isNone && ! f.holds.contains q.node && out.length < 64 && (out.filter fun x => x.node = q.node).length < f.grant q.node &&
    (match f.remotes.find? fun x => x.sent.isNone && x.node = q.node with
     | some x => x.id = q.id
     | none => false)

/-- The job tag of a request is that of its context's command record (R59, R343). -/
def State.jobOf (s : State) (c : Nat) : BitVec 20 := match s.ctx? c with | some x => x.cr.job | none => 0

/-- A request as it travels: its header and its data (R343). -/
def State.requestBytes (s : State) (t : Nat) (q : Remote) : List Byte :=
  headerBytes q.kind.toNat q.op.toNat q.node s.node t (s.jobOf q.ctx).toNat q.off q.id.toNat q.len q.w3 q.w4 0 ++ q.data

/-- A request leaves its tile: its blocks wait at a port. -/
def State.leave (s : State) (t : Nat) (q : Remote) (p : Nat) (detour : Bool) : State :=
  let s1 := s.onFab t fun f => { f with remotes := f.remotes.map fun x => if x.id = q.id then { x with sent := some s.chron } else x }
  (s1.sendMessage p (channelClass q.kind.toNat) detour (s.jobOf q.ctx) (.own t q.id) (s.requestBytes t q)).count (fbBase + 0x040) 1

/-- The first request of a tile that may leave does so, or fails its check or its route. -/
def execRemoteRequestSend (t : Tile) (s : State) : Result :=
  .next (
    let f := (s.tile t).fab
    match if s.moving then f.remotes.find? f.mayLeave else none with
    | none => s
    | some q =>
      match s.senderCheck q.ctx q.node with
      | some st => (s.senderRefused st).remoteEnd t q (.error st)
      | none =>
        match s.exitOf q.node false with
        | .error st => (if st = 0x6020 then s.count (lpBase + 0x038) 1 else s).remoteEnd t q (.error st)
        | .ok (p, detour) => s.leave t q p detour)

/-- 10 ms: a request without a response has timed out (R357). -/
def remoteLimit : Nat := 10000000

/-- A request left its tile so long ago that it has timed out. -/
def State.expired (s : State) (q : Remote) : Bool := match q.sent with | some a => remoteLimit ≤ (s.chron - a).toNat | none => false

/-- A response arrives. One whose request is no longer out, or has timed out, is discarded and counted (R357). -/
def execRemoteResponse (t : Tile) (id : BitVec 32) (st : Status) (grant : BitVec 8) (data : List Byte) (s : State) : Result :=
  if ! Instr.wf (.remoteResponse t id st grant data) then .refused .illFormed
  else .next (
    if ! s.moving then s
    else match (s.tile t).fab.remotes.find? fun q => q.id = id && q.sent.isSome && ! s.expired q with
      | none => s.count (fbBase + 0x0A0) 1
      | some q =>
        let s1 := s.onFab t fun f => { f with grants := FMap.insert f.grants q.node grant }
        s1.remoteEnd t q (if st = 0 then .ok data else .error st))

def execRemoteTimeout (t : Tile) (id : BitVec 32) (s : State) : Result :=
  .next (match (s.tile t).fab.remotes.find? fun q => q.id = id with
    | some q => if s.moving && s.expired q then (s.count (fbBase + 0x0A0) 1).remoteEnd t q (.error 0x6022) else s
    | none => s)

/-! ### Landing tables (R348, R349) -/

/-- Fields of a landing entry (Table 13-5). -/
def landBase (e : List Word) : Nat := bits (e.getD 0 0) 16 28 * 65536
def landSize (e : List Word) : Nat := bits (e.getD 1 0) 0 29 * 65536
def landTarget (e : List Word) : Nat := bits (e.getD 2 0) 0 48

/-- An entry is legal by itself. -/
def landLegal (e : List Word) : Bool :=
  let w := e.getD 0 0
  let f := e.getD 3 0
  tst w 63 && bits w 58 2 ≤ 1 && bits w 44 14 = 0 && bits w 0 16 = 0 &&
  bits (e.getD 1 0) 29 35 = 0 && 1 ≤ bits (e.getD 1 0) 0 29 && bits (e.getD 1 0) 0 29 ≤ 2 ^ 28 &&
  bits (e.getD 2 0) 48 16 = 0 && landTarget e % 65536 = 0 && landBase e + landSize e ≤ 2 ^ 44 &&
  (if bits w 58 2 = 0 then landTarget e < 2 ^ 36 && landTarget e / 2 ^ 26 < 640 else landTarget e < 2 ^ 47) &&
  bits f 28 35 = 0 && bits f 12 4 = 0 && (tst f 63 || bits f 16 12 ≤ bits f 0 12)

/-- Entries ascend by window base and do not overlap. -/
def landOrdered : List (List Word) → Bool
  | a :: b :: es => landBase a + landSize a ≤ landBase b && landOrdered (b :: es)
  | _ => true

/-- The `n` entries of a landing table in the Near tier, when they can be read. -/
def State.landBytes (s : State) (a n : Nat) : State × Option (List (List Word)) :=
  if tierOf a != .near || s.absent a || tierOf (a + 32 * n - 1) != .near then (s, none)
  else match s.readPart 0xFFF true ⟨.pa a, 32 * n, none, 0, 0⟩ with
    | (s1, .error _) => (s1, none)
    | (s1, .ok bs) => (s1, some ((List.range n).map fun i => wordsOf 4 ((bs.drop (32 * i)).take 32)))

/-- Read and check a landing table; `none` when it cannot be read or fails a check. -/
def State.readLanding (s : State) (a n : Nat) : State × Option (List (List Word)) :=
  match s.landBytes a n with
  | (s1, some es) => (s1, if es.all landLegal && landOrdered es then some es else none)
  | (s1, none) => (s1, none)

def fbLandReg (c : Nat) : Nat := fbBase + 0x8000 + 8 * c

/-- The fabric block's busy bit and command. -/
def State.fabricJob (s : State) (j : Option Bool) : State :=
  { s.setField (fbBase + 0x008) 0 1 (b2n j.isSome) with light := { s.light with job := j } }

/-- The requests of a context that have been checked under its old table are marked. -/
def State.markOld (s : State) (c : Nat) : State :=
  { s with light := { s.light with forwards := s.light.forwards.map fun f => if f.ctx = c then { f with old := true } else f } }

/-- The drain of a context's table begins (R349); while a reach map is being invalidated it goes on after that. -/
def State.drainOld (s : State) (c : Nat) : State :=
  let s1 := s.markOld c
  if s1.light.job.isNone then s1.fabricJob (some true) else s1

/-- Every landing unit forgets the entries of a context. -/
def State.forgetEntries (s : State) (c : Nat) : State :=
  (List.range 8).foldl (fun acc p =>
    if (acc.port p).entries.any fun e => e.1 = c then acc.onPort p fun x => { x with entries := x.entries.filter fun e => e.1 != c } else acc) s

/-- Replace a context's table, and start the drain (R349). -/
def State.replaceLanding (s : State) (c : Nat) (v : Word) : State :=
  (((s.setReg (fbLandReg c) v).markOld c).forgetEntries c).fabricJob (some true)

/-- Address and entry count of a context's landing table. -/
def State.landTable (s : State) (c : Nat) : Nat × Nat :=
  let v := s.reg (fbLandReg c)
  (bits v 13 31 * 8192, bits v 52 9)

/-- Fields of `FB_LAND` (Table 13-8). -/
def landFields : List Field := [whole 63 1, whole 62 1, whole 61 1, ⟨52, 9, fun n => n ≤ 256⟩, whole 13 31]

/-- A write of `FB_LAND` loads a table or removes one. A count above 256 leaves its field as it is (R5). -/
def execFbLandWrite (c : CtxId) (w : Wr) (s : State) : Result :=
  .next (
    let a := fbLandReg c
    s.write a w fun s v m =>
      let r := writeFields (s.reg a) v m landFields
      let st : Status := if r.2 then rejected else 0
      if s.light.job.isSome then s.record a 0x4090
      else if ! tst r.1 63 then (s.replaceLanding c r.1).record a st
      else match s.readLanding (bits r.1 13 31 * 8192) (bits r.1 52 9) with
        | (s1, none) => s1.record a 0x2090
        | (s1, some _) => (s1.replaceLanding c r.1).record a st)

/-- Every request checked under an old table has been applied or has failed. -/
def execLandingDrainDone (s : State) : Result :=
  .next (if s.light.job = some true && s.light.forwards.all fun f => ! f.old then s.fabricJob none else s)

def execFbReachInv (w : Wr) (s : State) : Result :=
  .next (s.write (fbBase + 0x018) w fun s _ _ =>
    if s.light.job.isSome then s.record fbBase 0x4090 else (s.fabricJob (some false)).record fbBase 0)

/-- Reach maps are not cached, so the new bits apply at once; the command ends here. -/
def execReachInvDone (s : State) : Result :=
  .next (if s.light.job = some false then s.fabricJob (if s.light.forwards.any (·.old) then some true else none) else s)

def execFbDenyClear (w : Wr) (s : State) : Result :=
  .next (s.trigger1 (fbBase + 0x030) w fun s => s.clearRegs [fbBase + 0x020, fbBase + 0x028])

/-- `FB_CNT_` counters (Table 13-8). -/
def fabricCounters : List Nat := (span 0x040 2 ++ span 0x058 7 ++ span 0x090 5).map (fbBase + ·)

def execFbCntClear (w : Wr) (s : State) : Result := .next (s.trigger1 (fbBase + 0x0F8) w fun s => s.clearRegs fabricCounters)

/-! ### The landing unit (R347, R350) -/

/-- The live context that holds a job tag (R347). -/
def State.jobCtx (s : State) (job : BitVec 20) : Option Nat :=
  (s.ctxs.find? fun p => p.2.cr.job = job && ! p.2.destroying).map (·.1)

/-- Kinds and operations that Table 13-2 lists; others are never sent. -/
def FabricRequestListed (q : FabricRequest) : Bool :=
  match q.kind.toNat with
  | 1 | 2 | 5 | 6 => true
  | 3 => q.op.toNat ≤ 5 && q.len = 4
  | 4 => q.op.toNat ≤ 9 && q.len = 8
  | _ => false

/-- The window of an entry holds every byte of a request. -/
def landHolds (q : FabricRequest) (e : List Word) : Bool :=
  landBase e ≤ q.offset.toNat && q.offset.toNat + q.len ≤ landBase e + landSize e

/-- The entry, of those that a landing unit caches, whose window holds every byte of a request. -/
def State.landingEntry (s : State) (p c : Nat) (q : FabricRequest) : Option (List Word) :=
  ((s.port p).entries.find? fun e => e.1 = c && landHolds q e.2).map (·.2)

/-- The entry of a request as the table in the Near tier has it now; none when the table cannot be read (DESIGN CHOICE, log 105). -/
def State.tableEntry (s : State) (c : Nat) (q : FabricRequest) : State × Option (List Word) :=
  let r := s.landTable c
  match s.landBytes r.1 r.2 with
  | (s1, some es) => (s1, es.find? fun e => tst (e.getD 0 0) 63 && landHolds q e)
  | (s1, none) => (s1, none)

/-- Entries that a landing unit caches. -/
def cachedEntries : Nat := 64

/-- An entry joins those that a landing unit caches; the one that has been there longest makes room (DESIGN CHOICE, log 105). -/
def Port.cacheEntry (x : Port) (c : Nat) (e : List Word) : Port :=
  { x with entries := (if x.entries.length < cachedEntries then x.entries else x.entries.drop 1) ++ [(c, e)] }

/-- The landing unit of a port looks up the entry of a request: one that it does not hold is a miss, read from the table. Signals and
contributions use no entry. -/
def State.lookUp (s : State) (p : Nat) (q : FabricRequest) : State :=
  match if q.kind = 5 || q.kind = 6 || q.dst.toNat != s.node then none else s.jobCtx q.job with
  | none => s
  | some c =>
    if ! tst (s.reg (fbLandReg c)) 63 || (s.landingEntry p c q).isSome then s
    else match s.tableEntry c q with
      | (s1, some e) => (s1.onPort p fun x => x.cacheEntry c e).count (fbBase + 0x098) 1
      | (s1, none) => s1

/-- The operand that a request's offset names in its entry. -/
def landOperand (e : List Word) (q : FabricRequest) : Operand :=
  ⟨if bits (e.getD 0 0) 58 2 = 0 then 0 else 1, BitVec.ofNat 56 (landTarget e + (q.offset.toNat - landBase e))⟩

/-- The checks of Table 13-6 at a port: the context and target, or the cause and the status. -/
def State.landingCheck (s : State) (p : Nat) (q : FabricRequest) : Except (Nat × Status) (Nat × Operand) :=
  if q.dst.toNat != s.node then .error (7, 0x6020)
  else match s.jobCtx q.job with
    | none => .error (1, 0x3021)
    | some c =>
      let v := s.reg (fbLandReg c)
      if ! tst v 63 || (q.kind = 5 && ! tst v 62) || (q.kind = 6 && ! tst v 61) then .error (2, 0x3020)
      else if q.kind = 5 || q.kind = 6 then .ok (c, ⟨3, 0⟩)
      else match s.landingEntry p c q with
        | none => .error (3, 0x3020)
        | some e =>
          let bit := if q.kind = 1 then 62 else if q.kind = 2 then 61 else 60
          let f := e.getD 3 0
          if ! tst (e.getD 0 0) bit then .error (4, 0x3020)
          else if ! tst f 63 && ! (bits f 16 12 ≤ q.src.toNat && q.src.toNat ≤ bits f 0 12) then .error (5, 0x3020)
          else .ok (c, landOperand e q)

/-- Send a response with the grant of `FB_CFG`. -/
def State.respond (s : State) (q : FabricRequest) (st : Status) (data : List Byte) : State :=
  s.sendAnswer ⟨q.src, q.srcTile, q.id, q.job, q.offset, q.len, st, bits (s.reg (fbBase + 0x000)) 0 6, data⟩

/-- Record and count a denial (R350). -/
def State.deny (s : State) (q : FabricRequest) (cause : Nat) : State :=
  let s1 := s.count (fbBase + 0x050 + 8 * cause) 1
  if tst (s1.reg (fbBase + 0x020)) 63 then s1
  else (s1.setReg (fbBase + 0x020)
      (pack [(63, 1), (60, cause), (48, q.src.toNat), (38, q.srcTile.toNat), (34, q.kind.toNat), (12, q.job.toNat)])).setReg
    (fbBase + 0x028) (q.offset.setWidth 64)

/-- A port whose landing unit carries data: each has one (R347), and SP is not Up without a role. -/
def State.landsOn (s : State) (p : Nat) : Bool := ! s.looping p && s.portState p = portUp

def execLandingCheck (p : PortNo) (q : FabricRequest) (s : State) : Result :=
  if ! Instr.wf (.landingCheck p q) then .refused .illFormed
  else .next (
    if ! s.moving || ! s.landsOn p || ! FabricRequestListed q then s
    else
      let s1 := (s.count (fbBase + 0x048) 1).lookUp p q
      match s1.landingCheck p q with
      | .error (cause, st) => (s1.deny q cause).respond q st []
      | .ok (c, o) => { s1 with light := { s1.light with forwards := s1.light.forwards ++ [⟨p, q, c, o, false⟩] } })

/-! ### Requests at their targets (R351 to R355) -/

/-- Requests whose order of a source tile is kept: writes, atomics and signals. -/
def FabricRequestOrdered (q : FabricRequest) : Bool := q.kind = 2 || q.kind = 3 || q.kind = 4 || q.kind = 5

/-- Two parts share a byte of the package. -/
def Part.overlaps (a b : Part) : Bool :=
  let cross := fun (x y : Nat) => x < y + b.len && y < x + a.len
  match a.place, b.place with
  | .sp t x, .sp u y => t = u && cross x y
  | .pa x, .pa y => cross x y
  | .far n x, .far m y => n = m && cross x y
  | .host n x, .host m y => n = m && cross x y
  | _, _ => false

/-- Bytes of the package that a forward touches; none when its target refuses it. -/
def State.touched (s : State) (f : Forward) : List Part :=
  if f.target.cls = 3 then []
  else match (s.checkedParts f.ctx f.target f.req.len (if f.req.kind = 1 then .read else .write)).2 with
    | .ok ps => ps
    | .error _ => []

/-- The targets of a forward: tiles by number, tiers from 1,000 on. Where a contribution goes its request does not say, and an operand that
its target refuses has none: such a forward has the target of no other (DESIGN CHOICE, log 105). -/
def State.targets (s : State) (f : Forward) : List Nat :=
  if f.req.kind = 5 then [bits f.req.w3 0 10]
  else ((s.touched f).map fun p => match p.place with
    | .sp t _ => t
    | .pa a => if tierOf a = .near then 1000 else if tierOf a = .mid then 1001 else 1002
    | .far .. => 1002
    | .host .. | .node .. => 1003).eraseDups

/-- Two forwards are bound for one target. -/
def State.sameTarget (s : State) (f x : Forward) : Bool :=
  let ts := s.targets f
  ts.length = 1 && ts = s.targets x

/-- Forward `f` comes after `x` in one queue of the landing unit: of one source tile, and of the same job where the job of `f` is
fixed-share: such a job has a queue of its own, and no request of another job delays it (R401). -/
def State.queuedAfter (s : State) (f x : Forward) : Bool :=
  x.req.src = f.req.src && x.req.srcTile = f.req.srcTile && (x.req.job = f.req.job || ! s.jobFixed f.req.job.toNat)

/-- The landing unit holds forward `f` for an earlier one `x` that is bound for a different target and has not been acknowledged there
(R354). It holds no read. -/
def State.heldFor (s : State) (f x : Forward) : Bool := s.queuedAfter f x && f.req.kind != 1 && ! s.sameTarget f x

/-- Forward `f` takes effect after `x`: it is held for it, or mesh order keeps the two in sequence on the way to one target, a read behind
the writes of what it reads (R354). -/
def State.behind (s : State) (f x : Forward) : Bool :=
  s.heldFor f x || (s.queuedAfter f x && (if f.req.kind = 1 then
      FabricRequestOrdered x.req && (s.touched x).any fun a => (s.touched f).any a.overlaps
    else s.sameTarget f x))

/-- The `i`-th forward may be applied. -/
def State.inOrder (s : State) (i : Nat) (f : Forward) : Bool := ! (s.light.forwards.take i).any (s.behind f)

/-- A failure of the target's own check has cause 6. -/
def targetCause (st : Status) : Bool := st = 0x3011 || st = 0x3012 || st = 0x3013 || st = 0x3014 || st = 0x2012

/-- What the target checks, and the parts that the request touches. -/
def State.targetParts (s : State) (f : Forward) (k : Touch) : State × Except Status (List Part) :=
  if f.target.cls = 0 && s.faultedTile f.target.spTile then (s, .error 0x6011)
  else match s.checkedParts f.ctx f.target f.req.len k with
    | (s1, .error st) => (s1, .error (if st = 0x2012 then 0x3011 else st))
    | r => r

/-- The parts of a request at its target, and what it meets there. -/
def State.targetMeets (s : State) (f : Forward) (h : Hazard) (k : Touch) : State × Except Status (List Part) :=
  thenDo (s.targetParts f k) fun s1 ps =>
    match s1.meet 0 f.ctx false h k ps with
    | (s2, some st) => (s2, .error st)
    | (s2, none) => (s2, .ok ps)

/-- Apply a request with its data or the old value. -/
def State.applyForward (s : State) (f : Forward) (h : Hazard) : State × Except Status (List Byte) :=
  let q := f.req
  match q.kind.toNat with
  | 1 => thenDo (s.targetMeets f h .read) fun s1 ps => s1.readParts f.ctx false ps
  | 2 => thenDo (s.targetMeets f h .write) fun s1 ps => thenDo (s1.writeParts f.ctx .write ps q.data) fun s2 _ => (s2, .ok [])
  | 3 =>
    thenDo (s.targetMeets f h .atomic) fun s1 ps =>
      s1.atomicAt f.ctx ps 4 fun old => atomValue q.op.toNat old (q.w3.setWidth 32) (q.w4.setWidth 32)
  | 4 =>
    thenDo (s.targetMeets f h .atomic) fun s1 ps =>
      s1.atomicAt f.ctx ps 8 fun (old : Word) => if q.op = 9 then amoValue 9 old q.w4 q.w3 else amoValue q.op.toNat old q.w3 0
  | 5 =>
    let t := bits q.w3 0 10
    if 640 ≤ t then (s, .error 0x2004)
    else if s.faultedTile t then (s, .error 0x6011)
    else if ! s.setRoom t f.ctx then (s, .error 0x4010)
    else ((s.allocSet t f.ctx).addCounter t f.ctx (bits q.w3 36 8) (bits q.w3 20 16), .ok [])
  | _ => (s, .ok [])

/-- The `i`-th forwarded request is applied, or refused by its target, and its response leaves. A contribution lands by
COLLECTIVE_CONTRIBUTION. -/
def execRequestLand (i : Nat) (s : State) (h : Hazard := .none) : Result :=
  .next (match s.light.forwards[i]? with
    | none => s
    | some f =>
      if ! s.moving || f.req.kind = 6 || ! s.inOrder i f then s
      else
        let r := s.applyForward f h
        let s1 := { r.1 with light := { r.1.light with forwards := r.1.light.forwards.eraseIdx i } }
        match r.2 with
        | .ok bs => s1.respond f.req 0 bs
        | .error st => (if targetCause st || st = 0x2004 then s1.deny f.req 6 else s1).respond f.req st [])

/-! ### Contributions (R130, R342, R355) -/

/-- The forwards, each in its turn, that bring a contribution from one source tile, part by part; what they leave. -/
def State.contribForwards (s : State) (src : BitVec 12) (tile : BitVec 10) (job : BitVec 20) :
    Nat → List Byte → List Forward → Option (State × List Forward)
  | 0, _, _ => none
  | fuel + 1, data, got =>
    match s.light.forwards.zipIdx.find? fun p =>
        p.1.req.kind = 6 && p.1.req.src = src && p.1.req.srcTile = tile && p.1.req.job = job && s.inOrder p.2 p.1 with
    | none => none
    | some (f, i) =>
      let n := f.req.data.length
      if n = 0 || f.req.data != data.take n then none
      else
        let s1 := { s with light := { s.light with forwards := s.light.forwards.eraseIdx i } }
        if data.length = n then some (s1, got ++ [f]) else s1.contribForwards src tile job fuel (data.drop n) (got ++ [f])

/-- A contribution of another node that the landing units have passed. -/
def State.landedContribution (s : State) (x : Contribution) : Option (State × List Forward) :=
  s.light.forwards.findSome? fun f => s.contribForwards f.req.src f.req.srcTile x.job (x.data.length + 1) x.data []

/-- A contribution reaches a member: one of this node by the command channel, over links that are open; one of another node by the
requests that carried it, which are answered with it. A Faulted tile takes none, and answers so (R480, R493). -/
def execCollectiveContribution (t : Tile) (x : Contribution) (s : State) : Result :=
  .next (
    let give := fun (s : State) => if s.faultedTile t then s else s.deliver t x
    if ! s.moving then s
    else match s.mail.contribs.findIdx? fun p => p.2.1 = t.val && p.2.2 = x && s.pathClear p.1 t with
      | some i => give { s with mail := { s.mail with contribs := s.mail.contribs.eraseIdx i } }
      | none => match s.landedContribution x with
        | some (s1, fs) => fs.foldl (fun acc f => acc.respond f.req (if s.faultedTile t then 0x6011 else 0) []) (give s1)
        | none => s)

end Sys2Proof.Machine
end

