-- ==== Sys2Proof/Machine/Tables.lean ====
section
/-! DEFINITION. Loading and unloading function tables: the checks of Table 7-2 and the exhaustive pass (R185 to R188), the
tiles' confirmations, and the rewriting of a damaged copy (R189). -/

namespace Sys2Proof.Machine

open Sys2Proof

/-! ### The checks of Table 7-2 -/

def imageInc (ws : List Word) : Bool := tst (ws.getD 0 0) 32
def imageDec (ws : List Word) : Bool := tst (ws.getD 0 0) 33

def finite32 (x : BitVec 32) : Bool :=
  match f32 x with
  | .fin .. => true
  | _ => false

/-- The header's part of check 4: version, S, D, w, the flags and the reserved fields (Table 7-1). -/
def headerLegal (ws : List Word) : Bool :=
  let h := ws.getD 0 0
  let v := imageVersion ws
  (v = 1 || v = 2) && 1 ≤ imageS ws && imageS ws ≤ 256 && 1 ≤ imageD ws && imageD ws ≤ 7 &&
  (if v = 1 then bits h 24 8 = 0 else -126 ≤ imageW ws) && ! (imageInc ws && imageDec ws) &&
  bits h 48 16 = 0 && bits h 34 6 = 0 && bits (ws.getD 1 0) 32 32 = 0 && bits (ws.getD 2 0) 32 32 = 0 &&
  (List.range 4).all fun i => ws.getD (4 + i) 0 = 0

/-- The values' part of check 4. -/
def valuesLegal (ws : List Word) : Bool :=
  finite32 (imageBelow ws) && finite32 (imageAbove ws) &&
  (List.range (imageS ws)).all fun i => (List.range 8).all fun j =>
    if j ≤ imageD ws then finite32 (imageC ws i j) else imageC ws i j = 0

/-- Breakpoint `i` as a number, by version. -/
def breakAt (ws : List Word) (i : Nat) : Num :=
  if imageVersion ws = 2 then Num.add .rne (f32 (imageBp ws 0)) (segStep ws i) else f32 (imageBp ws i)

/-- Check 5. -/
def breaksLegal (ws : List Word) : Bool :=
  if imageVersion ws = 2 then finite32 (imageBp ws 0) && finite32 (toF32 (breakAt ws (imageS ws)))
  else (List.range (imageS ws + 1)).all (fun i => finite32 (imageBp ws i)) &&
    (List.range (imageS ws)).all fun i => Num.lt (f32 (imageBp ws i)) (f32 (imageBp ws (i + 1)))

/-- A later value is out of the declared order. -/
def disordered (ws : List Word) (before after : BitVec 32) : Bool :=
  (imageInc ws && Num.lt (f32 after) (f32 before)) || (imageDec ws && Num.lt (f32 before) (f32 after))

/-- A seam is ordered: R ≥ L for INC, R ≤ L for DEC, which fails where either is no number (R186). -/
def seamOrdered (ws : List Word) (L R : BitVec 32) : Bool :=
  let nan := (f32 L).isNan || (f32 R).isNan
  ! ((imageInc ws || imageDec ws) && nan) && ! disordered ws L R

/-- The value left of seam `i` (R186). -/
def leftOf (ws : List Word) (i : Nat) : BitVec 32 :=
  if imageVersion ws = 2 then segmentV2 ws (i - 1) (segStep ws 1) else segmentV1 ws (i - 1) (vSub (imageBp ws i) (imageBp ws (i - 1)))

/-- A failing input: its segment and FP32 code. -/
abbrev FailAt := Nat × BitVec 32

/-- The first disordered seam. Segment S does not exist, so seam S is left to the end of the pass (DEDUCED, log 40). -/
def badSeam (ws : List Word) : Option FailAt :=
  (List.range (imageS ws - 1)).findSome? fun k =>
    if ! seamOrdered ws (leftOf ws (k + 1)) (imageC ws (k + 1) 0) then some (k + 1, toF32 (breakAt ws (k + 1))) else none

/-! ### The exhaustive pass (R186) -/

/-- FP32 codes in ascending order of value: key `2^31` is +0, the key below it −0. -/
def orderKey (x : BitVec 32) : Nat := if x.toNat < 2 ^ 31 then 2 ^ 31 + x.toNat else 2 ^ 32 - 1 - x.toNat
def ofKey (k : Nat) : BitVec 32 := if 2 ^ 31 ≤ k then BitVec.ofNat 32 (k - 2 ^ 31) else BitVec.ofNat 32 (2 ^ 32 - 1 - k)

/-- The segment of an input of the domain. -/
def segmentAt (ws : List Word) (x : BitVec 32) : Nat :=
  if imageVersion ws = 2 then
    min (floorAt (f32 (rtzF32 (Num.add .rtz (f32 x) (f32 (imageBp ws 0)).neg))) (imageW ws)) (imageS ws - 1)
  else segmentOf ws (f32 x) (imageS ws)

/-- The pass from a key on: the first failure, if any. A failure at bp[S] has segment S, which does not exist (DESIGN CHOICE, log 121). A version 2 table evaluates by R200, as a lane does (R199): the comment of
R186's listing names R201 there (DEDUCED, log 98). -/
def passFrom (ws : List Word) : Nat → Nat → BitVec 32 → Option (Status × FailAt)
  | 0, _, _ => none
  | fuel + 1, k, prev =>
    let x := ofKey k
    if ! Num.lt (f32 x) (breakAt ws (imageS ws)) then
      if disordered ws prev (imageAbove ws) then some (0x2033, imageS ws, toF32 (breakAt ws (imageS ws))) else none
    else if x = 0x80000000#32 then passFrom ws fuel (k + 1) prev
    else
      let y := evalTable ws x
      if ! finite32 y then some (0x2032, segmentAt ws x, x)
      else if disordered ws prev y then some (0x2033, segmentAt ws x, x)
      else passFrom ws fuel (k + 1) y

/-- The whole pass: every FP32 input from bp[0] up; −0 counts as +0. -/
def tablePass (ws : List Word) : Option (Status × FailAt) :=
  let b := imageBp ws 0
  passFrom ws (2 ^ 32) (orderKey (if b = 0x80000000#32 then 0 else b)) (imageBelow ws)

/-! ### Commands -/

def ftStatusReg : Nat := bnBase + 0xC10
def ftSlotReg (n : Nat) : Nat := bnBase + 0xC20 + 8 * n

/-- A load or unload begins: busy; the status of the last one stands until this one ends. -/
def State.ftBusy (s : State) : State := s.setField ftStatusReg 0 1 1

/-- The status of a load or unload, and whether one is busy. -/
def State.ftStatus (s : State) (st : Status) (busy : Bool) : State :=
  s.setReg ftStatusReg (pack [(16, st.toNat), (0, b2n busy)])

/-- A load ends with a failed check. -/
def State.ftFail (s : State) (st : Status) (at_ : Option FailAt) : State :=
  let d := match at_ with
    | some p => pack [(63, 1), (32, p.1), (0, p.2.toNat)]
    | none => 0
  { (s.ftStatus st false).setReg (bnBase + 0xC18) d with tables := { s.tables with cmd := none } }

/-- Read the image from host memory through PF0: the header, then the coefficients it names (R185). -/
def State.ftFetch (s : State) : State × Option (List Word) :=
  let a := (s.reg (bnBase + 0xC00)).toNat
  match s.readPart 0xFFF false ⟨.host pf0Space a, 0x480, none, 0, 0⟩ with
  | (s1, .error _) => (s1, none)
  | (s1, .ok hs) =>
    let ws := wordsOf 0x90 hs
    if imageS ws = 0 || 256 < imageS ws then (s1, some ws)
    else match s1.readPart 0xFFF false ⟨.host pf0Space (a + 0x480), 32 * imageS ws, none, 0, 0⟩ with
      | (s2, .error _) => (s2, none)
      | (s2, .ok cs) => (s2, some (ws ++ wordsOf (4 * imageS ws) cs))

/-- Check 2 of a load; what passes waits for its image. A slot that holds a table keeps it, and `BN_FT_SLOT` shows it: nothing was loaded
that could be left out (DESIGN CHOICE, log 120). -/
def State.ftLoad (s : State) (n : Nat) : State :=
  if (FMap.find? s.tables.images n).isSome then s.ftFail 0x2034 none
  else { s.ftBusy with tables := { s.tables with cmd := some ⟨n, true, [], [], false, s.chron⟩ } }

/-- The image of a load is still to come. -/
def FtCmd.fetching (c : FtCmd) : Bool := c.load && c.image.isEmpty && c.awaiting.isEmpty

/-- The image cannot be read (check 3). -/
def State.tableFailed (s : State) (c : FtCmd) : State :=
  (s.ftFail 0x6030 none).log (packageFault 0x6030 10 c.slot (s.reg (bnBase + 0xC00)).toNat)

/-- The read of a load's image is outstanding: with more than the bound it waits for one of the others to end (R362). -/
def State.ftReads (s : State) (c : FtCmd) : Bool := c.fetching && s.hostReads ≤ maxHostReads

/-- The image of a load arrives, and meets checks 3 to 6; what passes waits for the pass. -/
def State.ftArrive (s : State) : State :=
  match s.tables.cmd with
  | none => s
  | some c =>
    if ! s.ftReads c || s.safety.safe then s
    else match s.ftFetch with
      | (s1, none) => s1.tableFailed c
      | (s1, some ws) =>
        if ! headerLegal ws || ! valuesLegal ws then s1.ftFail 0x2030 none
        else if ! breaksLegal ws then s1.ftFail 0x2031 none
        else match badSeam ws with
          | some p => s1.ftFail 0x2033 (some p)
          | none => { s1 with tables := { s1.tables with cmd := some { c with image := ws } } }

/-- 5 µs: the image of a load has arrived by then (R187). -/
def ftFetchTime : Nat := 5000

/-- A load's image arrives at its time limit, when nothing has taken it before. -/
def State.ftTick (s : State) : State :=
  match s.tables.cmd with
  | some c => if c.fetching && ftFetchTime ≤ (s.chron - c.since).toNat then s.ftArrive else s
  | none => s

/-- A write of `BN_FT_CMD` with LOAD, or with an illegal encoding. -/
def execFtLoad (w : Wr) (s : State) : Result :=
  .next (
    let a := bnBase + 0xC08
    s.write a w fun s v _ =>
      if bits v 0 2 = 2 then s
      else if bits v 0 2 != 1 then s.record a rejected
      else if s.tables.cmd.isSome then s.record a 0x4030
      else s.ftLoad (bits v 4 4))

/-- A write of `BN_FT_CMD` with UNLOAD. -/
def execFtUnload (w : Wr) (s : State) : Result :=
  .next (
    let a := bnBase + 0xC08
    s.write a w fun s v _ =>
      if bits v 0 2 != 2 then s
      else if s.tables.cmd.isSome then s.record a 0x4030
      else { s.ftBusy with tables := { s.tables with cmd := some ⟨bits v 4 4, false, [], allTiles, false, s.chron⟩ } })

/-- `BN_FT_SLOT[n]` of an image (Table 7-4). -/
def slotWord (ws : List Word) : Word :=
  pack [(63, 1), (48, imageVersion ws), (32, bits (ws.getD 1 0) 0 16), (16, bits (ws.getD 1 0) 16 16), (15, b2n (imageDec ws)),
    (14, b2n (imageInc ws)), (9, imageD ws), (0, imageS ws)]

/-- The exhaustive pass of an image that has arrived ends: the table is refused, or written to every tile's table memory (R188). -/
def State.ftPass (s : State) : State :=
  match s.tables.cmd with
  | some c =>
    if ! c.load || c.image.isEmpty || ! c.awaiting.isEmpty then s
    else match tablePass c.image with
      | some f => s.ftFail f.1 (some f.2)
      | none => { s with tables := ⟨FMap.insert s.tables.images c.slot c.image, some { c with awaiting := allTiles }⟩ }
  | none => s

/-- The pass ends; the image has arrived before. -/
def execFtLoadDone (s : State) : Result := .next (if s.moving then s.ftArrive.ftPass else s)

/-- The last tile has confirmed: the registers show the slot. -/
def State.ftEnd (s : State) (c : FtCmd) : State :=
  let abs := bnBase + 0xCA0 + 8 * (c.slot / 2)
  let s1 := { (s.ftStatus (if c.abandoned then 0xB030 else 0) false).setReg (ftSlotReg c.slot) (if c.load then slotWord c.image else 0) with
    tables := ⟨if c.load then s.tables.images else FMap.erase s.tables.images c.slot, none⟩ }
  s1.setField abs (32 * (c.slot % 2)) 32 (if c.load then bits (c.image.getD 2 0) 0 32 else 0)

/-- Tile `t` is at a vector-unit command boundary: no selected command has still to run. -/
def State.vectorBoundary (s : State) (t : Nat) : Bool := ((s.tile t).work.runs 1).all (·.formed)

/-- At its boundary a tile makes the slot of the command valid or empty, and confirms (R188). -/
def execFtSlotActivate (t : Tile) (n : Fin 16) (s : State) : Result :=
  .next (match s.tables.cmd with
    | some c =>
      if ! s.moving || c.slot != n || ! c.awaiting.contains t || ! s.vectorBoundary t then s
      else
        let s1 := s.onUpkeep t fun u =>
          let rest := u.ftValid.filter (· != n.val)
          { u with ftValid := if c.load then rest ++ [n.val] else rest
                   ftDamaged := u.ftDamaged.filter (· != n.val) }
        let left := c.awaiting.filter (· != t.val)
        if left.isEmpty then s1.ftEnd c
        else { s1 with tables := { s1.tables with cmd := some { c with awaiting := left } } }
    | none => s)

/-- The Binnacle has rewritten a tile's damaged copy of a table (R189). -/
def execFtRewriteDone (t : Tile) (n : Fin 16) (s : State) : Result :=
  .next (if s.moving then s.onUpkeep t fun u => { u with ftDamaged := u.ftDamaged.filter (· != n.val) } else s)

/-- The Binnacle that ran a load or unload has failed: the other one empties the slot on every tile, each at its boundary (R188). -/
def State.ftAbandon (s : State) : State :=
  match s.tables.cmd with
  | none => s
  | some c =>
    let c1 : FtCmd := { c with load := false, awaiting := allTiles, abandoned := true }
    ({ s.ftStatus 0xB030 true with tables := ⟨s.tables.images, some c1⟩ }).log (packageFault 0xB030 10 c.slot 0)

end Sys2Proof.Machine
end

