-- ==== Sys2Proof/Machine/Manage.lean ====
section
/-! DEFINITION. The management ring and its context operations: records (R370, R371), CREATE with the checks of the spill
reserve and the KV pool (R213, R262, R263, R372), DESTROY (R374), BIND (R253, R254), RESUME. -/

namespace Sys2Proof.Machine

open Sys2Proof

/-! ### Records (Table 14-5) -/

def mgOp (ws : List Word) : Nat := bits (ws.getD 0 0) 56 8
def mgCtx (ws : List Word) : Nat := bits (ws.getD 1 0) 0 12
def mgTile (ws : List Word) : Nat := bits (ws.getD 1 0) 18 10
def mgChart (ws : List Word) : Nat := bits (ws.getD 1 0) 28 6
def mgGen (ws : List Word) : Nat := bits (ws.getD 1 0) 34 16
def mgAddr (ws : List Word) : Nat := (ws.getD 2 0).toNat
def mgBase (ws : List Word) : Nat := bits (ws.getD 3 0) 0 48

/-- Fields that an operation uses: context, tile, chart, generation, address, base (Table 14-6). -/
def mgUses (op : Nat) : Option (Bool × Bool × Bool × Bool × Bool × Bool) :=
  match op with
  | 0x10 => some (false, false, false, false, true, false)
  | 0x11 => some (true, false, false, false, false, false)
  | 0x12 => some (true, true, false, false, false, false)
  | 0x13 => some (true, false, false, false, false, false)
  | 0x20 => some (true, false, true, false, true, true)
  | 0x21 => some (true, false, true, true, false, false)
  | 0x22 => some (true, false, true, true, false, false)
  | _ => none

/-- The record is valid: its operation, its zero fields, its alignment (R371). A tile of 640 to 1,022 is none (DEDUCED, log 60). -/
def mgLegal (ws : List Word) : Bool :=
  match mgUses (mgOp ws) with
  | none => false
  | some (c, t, k, g, a, b) =>
    bits (ws.getD 0 0) 0 56 = 0 && bits (ws.getD 1 0) 50 14 = 0 && bits (ws.getD 1 0) 12 6 = 0 && bits (ws.getD 3 0) 48 16 = 0 &&
    (c || mgCtx ws = 0) && (t || mgTile ws = 0) && (k || mgChart ws = 0) && (g || mgGen ws = 0) && (a || mgAddr ws = 0) && (b || mgBase ws = 0) &&
    mgAddr ws % 64 = 0 && mgBase ws % 2 ^ 21 = 0 && (mgTile ws < 640 || mgTile ws = 0x3FF) &&
    (List.range 4).all fun i => ws.getD (4 + i) 0 = 0

/-- Write a log entry, or let it wait where the log has no room. -/
def State.logWrite (s : State) (e : List Word) : State :=
  if s.mgmt.events.isEmpty && s.logRoom then s.putLog e
  else { s with mgmt := { s.mgmt with events := s.mgmt.events ++ [e] } }

/-- The management engine works: at FULL, with the link up and ENABLE set (R370, R468). -/
def State.mgmtRuns (s : State) : Bool :=
  s.stage = 6 && s.linkUp && tst (s.reg (hiBase + 0x040)) 16 && ! s.safety.safe && ! s.fixed && s.normal

/-- A function-level reset of PF0 that waited for the record in progress acts (R460). -/
def State.stopMgmt (s : State) : State :=
  if s.mgmt.stopping then { s.setField (hiBase + 0x040) 16 1 0 with mgmt := { s.mgmt with stopping := false } } else s

/-- A record ends with its log entry: status, context, tile, chart, generation. -/
def State.endRecord (s : State) (ws : List Word) (i : Nat) (st : Status) (c t k g : Nat) : State :=
  let s1 := { s.setField (hiBase + 0x008) 0 1 0 with mgmt := { s.mgmt with current := none } }
  ((s1.logWrite (logEntry (mgOp ws) st i c t k g)).logIf (packageFault st 8 0 0)).stopMgmt

/-- A record ends with a failure, reported beside the fields that it names. -/
def State.refuseRecord (s : State) (ws : List Word) (i : Nat) (st : Status) : State :=
  s.endRecord ws i st (mgCtx ws) 0 (mgChart ws) (mgGen ws)

/-- Take the next record, when there is one. An invalid record ends at once (R371). -/
def State.takeRecord (s : State) (tail : BitVec 32) : State :=
  let n := bits (s.reg (hiBase + 0x040)) 0 5
  let a := (s.reg (hiBase + 0x020)).toNat + 64 * (s.mgmt.taken.toNat % 2 ^ n)
  if s.mgmt.current.isSome || tail = s.mgmt.taken || ! s.logRoom then s
  else match s.readPart 0xFFF false ⟨.host pf0Space a, 64, none, 0, 0⟩ with
    | (s1, .error _) => s1
    | (s1, .ok bs) =>
      let ws := wordsOf 8 bs
      let i := s.mgmt.taken.toNat
      let s2 := { s1.setField (hiBase + 0x008) 0 1 1 with mgmt := { s1.mgmt with taken := s.mgmt.taken + 1, current := some (ws, i) } }
      if mgLegal ws then s2 else s2.refuseRecord ws i 0x2100

/-- Every 2 µs the management tail word is read, as the host interface may read (R362); waiting log entries are written as the log has room. -/
def execMgmtSweep (s : State) : Result :=
  .next (
    let due := match FMap.find? s.mgmt.swept 512 with | some a => s.intervalPast a 2 | none => true
    if ! s.mgmtRuns || ! due || ! s.hostReadFree then s
    else
      let s1 := ({ s with mgmt := { s.mgmt with swept := FMap.insert s.mgmt.swept 512 s.chron } }.drainEvents (eventDepth + 8)).count (hiBase + 0x100) 1
      match s1.readPart 0xFFF false ⟨.host pf0Space (s.reg (hiBase + 0x030)).toNat, 8, none, 0, 0⟩ with
      | (s2, .error _) => s2.count (hiBase + 0x108) 1
      | (s2, .ok bs) => s2.takeRecord (BitVec.ofNat 32 (ofBytes bs)))

/-- The record in progress, when it names an operation. -/
def State.record? (s : State) (op : Nat) : Option (List Word × Nat) :=
  if ! s.mgmtRuns then none
  else match s.mgmt.current with
    | some r => if mgOp r.1 = op then some r else none
    | none => none

/-- A live context, not being destroyed. -/
def State.live? (s : State) (c : Nat) : Option Ctx :=
  match s.ctx? c with
  | some x => if x.destroying then none else some x
  | none => none

/-! ### CREATE (R372) -/

/-- The creation record's fields (Table 14-7), without the pool. -/
def creationOf (ws : List Word) : Creation :=
  let w := fun (i : Nat) => ws.getD i 0
  { prio := BitVec.ofNat 2 (bits (w 0) 40 2), ff5020 := tst (w 0) 39, job := BitVec.ofNat 20 (bits (w 0) 16 20), fn := BitVec.ofNat 8 (bits (w 0) 8 8),
    vector := BitVec.ofNat 11 (bits (w 1) 32 11), pasid := BitVec.ofNat 20 (bits (w 1) 0 20), root := bits (w 2) 20 24 * 2 ^ 20,
    ringLog := bits (w 3) 48 5, ring := bits (w 3) 0 48, cring := bits (w 4) 0 48, sline := bits (w 5) 0 48, pool := none,
    spill := bits (w 7) 0 48, spillSize := (w 8).toNat }

/-- Check 3: fields, RSV fields, the owning function, host addresses. -/
def State.creationLegal (s : State) (ws : List Word) : Bool :=
  let w := fun (i : Nat) => ws.getD i 0
  let x := creationOf ws
  let host := fun (a : Nat) => a % 64 = 0 && a / 2 ^ 47 % 2 = 1
  bits (w 0) 42 22 = 0 && bits (w 0) 36 3 = 0 && bits (w 0) 0 8 = 0 && bits (w 1) 43 21 = 0 && bits (w 1) 20 12 = 0 &&
  bits (w 2) 44 20 = 0 && bits (w 2) 0 20 = 0 && bits (w 3) 53 11 = 0 && bits (w 4) 48 16 = 0 && bits (w 5) 48 16 = 0 &&
  bits (w 6) 48 16 = 0 && bits (w 7) 48 16 = 0 && ((List.range 7).all fun i => w (9 + i) = 0) &&
  x.vector.toNat < (if x.fn = 0 then 2048 else 64) && x.fn.toNat ≤ bits (s.reg (hiBase + 0x010)) 0 8 &&
  tierOf x.root = .near && 4 ≤ x.ringLog && x.ringLog ≤ 16 && host x.ring && host x.cring && host x.sline

/-- What a page of an area must be for its context: readable, writable, or read-only. -/
def pageOk (e : Word) (writable : Bool) : Bool := if writable then tst e 61 else tst e 62 && ! tst e 61

/-- Check that every 2 MiB page from a CVA is of tier Near and writable, or read-only. -/
def State.checkArea (s : State) (root : Nat) (writable : Bool) : List (Nat × Nat) → State × Except Status Bool
  | [] => (s, .ok true)
  | (a, n) :: rest =>
    match s.nearPart root a n with
    | .flawed f pa => ((if f = .bad then s.noteFlaw pa 0x5061 else s).blamePa pa, .error (match f with | .lost => 0x5062 | .bad => 0x5061))
    | .fail _ _ => (s, .ok false)
    | .ok p => if pageOk (s.pa64 (p.leaf.getD 0)) writable then s.checkArea root writable rest else (s, .ok false)

/-- Check an area as a whole; one that leaves the device half of the address space fails. -/
def State.areaOk (s : State) (root a n : Nat) (writable : Bool) : State × Except Status Bool :=
  if 2 ^ 47 < a + n then (s, .ok false) else s.checkArea root writable (pagesOf a n)

/-- Check 5: the spill reserve (R262). -/
def State.reserveCheck (s : State) (x : Creation) : State × Except Status Unit :=
  if x.spillSize = 0 || x.spillSize % 2 ^ 21 != 0 || x.spill % 2 ^ 21 != 0 then (s, .error 0x2061)
  else match s.areaOk x.root x.spill x.spillSize false with
    | (s1, .ok true) => (s1, .ok ())
    | (s1, .ok false) => (s1, .error 0x2061)
    | (s1, .error st) => (s1, .error st)

/-- The pool that a descriptor gives, when its fields are legal (Table 8-3). -/
def poolOf (ws : List Word) : Option Pool :=
  let w := fun (i : Nat) => ws.getD i 0
  let p : Pool := ⟨bits (w 0) 56 8, bits (w 0) 0 48, bits (w 1) 0 24, bits (w 2) 0 48, bits (w 3) 0 17, bits (w 4) 0 14⟩
  if bits (w 0) 48 8 = 0 && bits (w 1) 24 40 = 0 && bits (w 2) 48 16 = 0 && bits (w 3) 17 47 = 0 && bits (w 4) 14 50 = 0 &&
      ((List.range 3).all fun i => w (5 + i) = 0) && 1 ≤ p.lp && p.area % 2 ^ 21 = 0 && 1 ≤ p.pages && p.info % 2 ^ 21 = 0 &&
      1 ≤ p.slots && p.slots ≤ 65536 && 1 ≤ p.maxPages && p.maxPages ≤ 8192 then some p else none

/-- Parts of a readable range of the new context; a check that records nothing. -/
def State.quietParts (s : State) (root : Nat) : List (Nat × Nat) → State × Except Status (List Part)
  | [] => (s, .ok [])
  | (a, n) :: rest =>
    match s.walk root a n .read with
    | .flawed f pa => ((if f = .bad then s.noteFlaw pa 0x5061 else s).blamePa pa, .error (match f with | .lost => 0x5062 | .bad => 0x5061))
    | .fail _ _ => (s, .error 0x2041)
    | .ok p => thenDo (s.quietParts root rest) fun s1 ps => (s1, .ok (p :: ps))

/-- Check 6: the KV pool (R213). -/
def State.poolCheck (s : State) (root cva : Nat) : State × Except Status (Option Pool) :=
  if cva = 0 then (s, .ok none)
  else if 2 ^ 47 < cva + 64 then (s, .error 0x2041)
  else
    thenDo (s.quietParts root (pagesOf cva 64)) fun s1 ps =>
      thenDo (s1.readParts 0xFFF true ps) fun s2 bs =>
        match poolOf (wordsOf 8 bs) with
        | none => (s2, .error 0x2041)
        | some p =>
          let area := p.pages * p.pageBytes
          thenDo (s2.areaOk root p.area area true) fun s3 a =>
            thenDo (s3.areaOk root p.info p.size false) fun s4 b =>
              if a && b && (p.area + area ≤ p.info || p.info + p.size ≤ p.area) then (s4, .ok (some p)) else (s4, .error 0x2041)

/-- Write whole 64-byte blocks of the Near tier through the new context's translation (R544). -/
def State.initBlock (s : State) (root cva : Nat) (bs : List Byte) : State × Except Status Unit :=
  thenDo (s.nearPages 0xFFF root true (pagesOf cva 64)) fun s1 ps => s1.writeParts 0xFFF .write ps bs

/-- Bytes padded with zeros to whole blocks. -/
def padBlocks (bs : List Byte) : List Byte := bs ++ List.replicate (up64 bs.length - bs.length) 0

/-- Write a table block by block. -/
def State.initTable (s : State) (root cva : Nat) (bs : List Byte) : State × Except Status Unit :=
  eachDo s (List.range (up64 bs.length / 64)) fun s1 i => s1.initBlock root (cva + 64 * i) (((padBlocks bs).drop (64 * i)).take 64)

/-- Initialise the pool's metadata (R213); page lists read zero beyond their words (R215). -/
def State.initPool (s : State) (root : Nat) (p : Pool) : State × Except Status Unit :=
  let at_ := p.info
  let lens := (List.range p.slots).flatMap fun i => bytesOf 8 0 ++ bytesOf 8 (p.listAt i) ++ List.replicate 16 (0 : Byte)
  let stack := (List.range p.pages).flatMap fun i => bytesOf 4 (p.pages - 1 - i)
  thenDo (s.initTable root at_ (bytesOf 8 p.pages)) fun s1 _ =>
    thenDo (s1.initTable root (at_ + 64) lens) fun s2 _ =>
      thenDo (eachDo s2 (List.range p.slots) fun a i => a.initTable root (p.listAt i) (List.replicate (8 * (p.maxPages + 1)) 0)) fun s3 _ =>
        thenDo (s3.initTable root (at_ + p.counts) (List.replicate (4 * p.pages) 0)) fun s4 _ =>
          s4.initTable root (at_ + p.stack) stack

/-- The reserve's header: its first 64 KiB (Table 10-3). -/
def State.initReserve (s : State) (x : Creation) : State × Except Status Unit :=
  s.initTable x.root x.spill (List.replicate 65536 0)

/-- The lowest free context ID. -/
def State.freeCtx (s : State) : Option Nat := (List.range 4096).find? fun c => (s.ctx? c).isNone

/-- A new context (R249, R372). -/
def newCtx (x : Creation) : Ctx :=
  { cr := x, st := .unbound, faultStatus := 0, home := none,
    ring := ⟨2, 0, 0, 0, 0, [], [], none, 0, false⟩, nextStep := 1, steps := [], charts := [], destroying := false }

/-- Checks 4 to 6 on the creation record `x` for the free context `c`, with the pool descriptor at `pa`, and the zeroing that
follows them. -/
def State.createWith (s : State) (c : Nat) (x : Creation) (pa : Nat) : State × Except Status (Nat × Creation) :=
  thenDo (s.reserveCheck x) fun s2 _ =>
    thenDo (s2.poolCheck x.root pa) fun s3 p =>
      thenDo (match p with | some p => s3.initPool x.root p | none => (s3, .ok ())) fun s4 _ =>
        thenDo (s4.initReserve x) fun s5 _ => (s5, .ok (c, { x with pool := p }))

/-- The checks on the words of a creation record, in their order. -/
def State.createFrom (s : State) (ws : List Word) : State × Except Status (Nat × Creation) :=
  match s.freeCtx with
  | none => (s, .error 0x4001)
  | some c =>
    if ! s.creationLegal ws then (s, .error 0x2103)
    else if s.ctxs.any fun p => p.2.cr.job = (creationOf ws).job then (s, .error 0x3010)
    else s.createWith c (creationOf ws) (bits (ws.getD 6 0) 0 48)

/-- Checks 1 to 6 and the initialisation: the context's ID and creation fields. -/
def State.creation (s : State) (a : Nat) : State × Except Status (Nat × Creation) :=
  match s.readPart 0xFFF false ⟨.host pf0Space a, 128, none, 0, 0⟩ with
  | (s1, .error _) => (s1, .error 0x6100)
  | (s1, .ok bs) => s1.createFrom (wordsOf 16 bs)

/-- The status line is written before the log entry. -/
def execCreate (s : State) : Result :=
  .next (match s.record? 0x10 with
    | none => s
    | some (ws, i) =>
      match s.creation (mgAddr ws) with
      | (s1, .error st) => s1.endRecord ws i st 0 0 0 0
      | (s1, .ok (c, x)) => ((s1.setCtx c (newCtx x)).statusLine c).endRecord ws i 0 c 0 0 0)

/-! ### Home slots (R253, R254, R393) -/

/-- Registers of a home slot that its context takes along: `HC_WPT`, `HC_LS_CFG`, u and f. -/
def slotRegs (n : Nat) : List Nat := [0x900 + 8 * n, lsCfg n, lsU n, lsF n]

/-- A context leaves a home slot. -/
def State.leaveSlot (s : State) (t n : Nat) : State :=
  let s1 := (s.clearRegs ((slotRegs n).map (tileBase t + ·))).setTreg t (0x810 + 8 * n) 0
  s1.onTile t fun x => { x.onSlot n fun _ => Slot.empty with
    active := if x.active = some n then none else x.active
    last := if x.last = some n then none else x.last }

/-- A context enters a home slot with its slot state and registers. -/
def State.enterSlot (s : State) (t n c : Nat) (z : Slot) (vs : List Word) : State :=
  let s1 := ((slotRegs n).zip vs).foldl (fun acc p => acc.setTreg t p.1 p.2) (s.setTreg t (0x810 + 8 * n) (pack [(12, 1), (0, c)]))
  (s1.onTile t fun x => x.onSlot n fun _ => z).onCtx c fun x => { x with home := some (t, n) }

/-- The lowest free home slot of a tile. -/
def State.freeSlot (s : State) (t : Nat) : Option Nat := (List.range 16).find? fun n => (s.slotCtx t n).isNone

/-- A tile is partitioned to another context than `c`. -/
def State.partitionedFrom (s : State) (t c : Nat) : Bool := tst (s.treg t 0x008) 1 && bits (s.treg t 0x008) 2 12 != c

/-- Granules of a context's valid entries on a tile. -/
def State.granulesOf (s : State) (t c : Nat) : Nat :=
  ((List.range 16).map fun n => let v := s.spEntry t n; if tst v 28 && bits v 0 12 = c then bits v 20 8 else 0).sum

/-- A is a better home than B for AUTO. -/
def State.betterHome (s : State) (c a b : Nat) : Bool :=
  s.granulesOf b c < s.granulesOf a c ||
    (s.granulesOf a c = s.granulesOf b c && (s.occupied a < s.occupied b || (s.occupied a = s.occupied b && a < b)))

/-- AUTO's choice (R253). -/
def State.autoHome (s : State) (c : Nat) : Option Nat :=
  (allTiles.filter fun t => (s.freeSlot t).isSome && ! s.partitionedFrom t c).foldl
    (fun best t => match best with | none => some t | some b => if s.betterHome c t b then some t else some b) none

/-- Place a context on a tile; a context that is there already stays (DEDUCED, log 61). -/
def State.place (s : State) (c t : Nat) (x : Ctx) : Option State :=
  match x.home with
  | some (t0, n0) =>
    if t0 = t then some s
    else (s.freeSlot t).map fun n =>
      let z := (s.tile t0).slot n0
      let vs := (slotRegs n0).map (s.treg t0)
      (s.leaveSlot t0 n0).enterSlot t n c z vs
  | none => (s.freeSlot t).map fun n => s.enterSlot t n c { Slot.empty with ctx := BitVec.ofNat 12 c, job := x.cr.job } [0, 0, 0, 0]

/-- An Unbound context becomes Running and is swept at 2 µs (R373). -/
def State.startSweeping (s : State) (c : Nat) : State :=
  (s.onCtx c fun x => { x with st := .running, faultStatus := 0, ring := { x.ring with interval := 2, unchanged := 0 } }).statusLine c

def execBind (s : State) : Result :=
  .next (match s.record? 0x12 with
    | none => s
    | some (ws, i) =>
      let c := mgCtx ws
      match s.live? c with
      | none => s.refuseRecord ws i 0x2104
      | some x =>
        if x.home.isSome && x.flights != 0 then s.refuseRecord ws i 0x4062
        else match if mgTile ws = 0x3FF then s.autoHome c else some (mgTile ws) with
          | none => s.refuseRecord ws i 0x4011
          | some t =>
            if s.partitionedFrom t c then s.refuseRecord ws i 0x3061
            else match s.place c t x with
              | none => s.refuseRecord ws i 0x4011
              | some s1 => (if x.st = .unbound then s1.startSweeping c else s1).endRecord ws i 0 c t 0 0)

/-- A Faulted context reads its next record (R371, R249); one without a home tile is Unbound again. -/
def execResume (s : State) : Result :=
  .next (match s.record? 0x13 with
    | none => s
    | some (ws, i) =>
      let c := mgCtx ws
      match s.live? c with
      | none => s.refuseRecord ws i 0x2104
      | some x =>
        if x.st != .faulted then s.refuseRecord ws i 0x2105
        else
          let s1 := s.onCtx c fun x => { x with ring := { x.ring with fails := 0, hold := false } }
          let s2 := if x.home.isSome then s1.startSweeping c else (s1.onCtx c fun x => { x with st := .unbound, faultStatus := 0 }).statusLine c
          s2.endRecord ws i 0 c 0 0 0)

/-! ### DESTROY (R374) -/

/-- `HI_LOADS`. -/
def State.showLoads (s : State) : State := s.setField (hiBase + 0x058) 0 3 s.mgmt.loads.length

/-- A load ends: its generation becomes Ready or Failed, and LOAD_DONE is raised (R381). -/
def State.endLoad (s : State) (l : Load) (st : Status) (slot : Nat) (digest : List Byte) : State :=
  let s1 := { s with mgmt := { s.mgmt with loads := s.mgmt.loads.filter fun y => ! (y.ctx = l.ctx && y.chart = l.chart && y.num = l.num) } }.showLoads
  let s2 := s1.onGen l.ctx l.chart l.num fun y => { y with st := if st = 0 then .ready else .failed, slot := slot, digest := digest }
  (s2.event (logEntry 0x30 st 0xFFFFFFFF l.ctx 0 l.chart l.num)).logIf (packageFault st 8 0 0)

/-- Every chart load of a context is abandoned. -/
def State.abandonLoads (s : State) (c : Nat) : State :=
  (s.mgmt.loads.filter fun l => l.ctx = c).foldl (fun acc l => acc.endLoad l 0x2114 0 []) s

/-- Region entries that name the context become invalid, and their granules begin to be zeroed, which leaves them without a
previous owner (R41). -/
def State.dropRegions (s : State) (c : Nat) : State :=
  allTiles.foldl (fun acc t => (List.range 16).foldl (fun a n =>
    let v := a.spEntry t n
    if tst v 28 && bits v 0 12 = c then
      let gs := (List.range (bits v 20 8)).map (bits v 12 8 + ·)
      (a.setTreg t (0x100 + 8 * n) (setBits (setBits v 28 1 0) 29 1 1)).onTile t fun x =>
        { x with sp := { x.sp with
          owners := gs.foldl (fun m g => FMap.put none m g none) x.sp.owners
          zeroing := x.sp.zeroing ++ gs.filter fun g => ! x.sp.zeroing.contains g } }
    else a) acc) s

/-- Every live step of a context is flushed and ends without a completion record. -/
def State.flushCtx (s : State) (c : Nat) : State :=
  match s.ctx? c with
  | none => s
  | some x => x.steps.foldl (fun acc p => match p.phase with
      | .saving | .running => acc.flushStep c p.stepno false
      | .flushing true => acc.onStep c p.stepno fun q => { q with phase := .flushing false }
      | .restoring => acc.onStep c p.stepno fun q => { q with phase := .complete }
      | _ => acc) (s.onCtx c fun x => { x with destroying := true })

/-- Steps 1 to 4 of DESTROY begin. -/
def State.beginDestroy (s : State) (c : Nat) : State :=
  match s.live? c with
  | none => s
  | some _ => (((s.flushCtx c).abandonLoads c).dropRegions c).drainOld c

def execDestroy (s : State) : Result :=
  .next (match s.record? 0x11 with
    | none => s
    | some (ws, i) =>
      match s.ctx? (mgCtx ws) with
      | none => s.refuseRecord ws i 0x2104
      | some x => if x.destroying then s else s.beginDestroy (mgCtx ws))

/-- What a context still has in progress. -/
def State.destroyBusy (s : State) (c : Nat) (x : Ctx) : Bool :=
  x.steps.any (fun p => p.phase.live) || s.light.forwards.any (fun f => f.ctx = c) ||
  s.tiles.any (fun p => p.2.work.running.any fun r => r.cmd.ctx.toNat = c) ||
  allTiles.any fun t => (List.range 16).any fun n => let v := s.spEntry t n; tst v 29 && ! tst v 28 && bits v 0 12 = c

/-- The previous owner of granules that a context held before it was destroyed: no live context, also none that gets its ID
later (R41, R374). -/
def gone : Nat := 4096

/-- A tile without anything of a context. -/
def TileState.without (x : TileState) (c : Nat) (job : BitVec 20) : TileState :=
  let w := x.work
  { x with
    sp := { x.sp with owners := x.sp.owners.map fun p => (p.1, if p.2 = some c then some gone else p.2) }
    work := { w with
      inbox := w.inbox.filter fun r => r.ctx.toNat != c
      queues := (w.queues.map fun q => (q.1, q.2.filter fun e => e.cmd.ctx.toNat != c)).filter fun q => ! q.2.isEmpty
      sets := w.sets.filter fun k => k.ctx != c
      kept := match w.kept with | some k => if k.ctx = c then none else some k | none => none
      parked := w.parked.filter fun p => p.ent.cmd.ctx.toNat != c
      accSave := w.accSave.filter fun p => p.2.ctx != c }
    colls := x.colls.filter fun y => y.cmd.ctx.toNat != c
    early := x.early.filter fun y => y.job != job
    fab := { x.fab with remotes := x.fab.remotes.map fun q => if q.ctx = c then { q with owner := .nobody } else q } }

/-- Discard a context's spill state on a tile (R269). -/
def State.dropSpill (s : State) (t c : Nat) : State :=
  let s1 := match (s.tile t).work.order with
    | some o => if o.victim = c then (s.onWork t fun w => { w with order := none }).preemptStatus t 0 false
                else if o.bene = c && ! o.restore then s.undoSpill t o 0x2060 else s
    | none => s
  (List.range 16).foldl (fun acc n =>
    if tst (acc.spSave t n) 63 && bits (acc.spSave t n) 51 12 = c then acc.setTreg t (0x740 + 8 * n) 0 else acc) s1

/-- Messages without anything of a context. -/
def Mail.without (m : Mail) (c : Nat) (job : BitVec 20) : Mail :=
  { channel := m.channel.filter fun p => p.2.ctx.toNat != c, signals := m.signals.filter fun g => g.ctx != c,
    notices := m.notices.filter fun r => r.ctx != c, reports := m.reports.filter fun r => r.ctx != c,
    flushes := m.flushes.filter fun f => f.ctx != c, confirms := m.confirms.filter fun f => f.ctx != c,
    commits := m.commits.filter fun k => k.ctx != c, contribs := m.contribs.filter fun p => p.2.2.job != job }

/-- Pending norm-watch banks of a context's entries are dropped. -/
def State.dropBanks (s : State) (t c : Nat) : State :=
  s.onWork t fun w => { w with banks := w.banks.filter fun b => bits (s.nwCfg t b.entry) 16 12 != c }

/-- A context leaves its home slot. -/
def State.leaveHome (s : State) (x : Ctx) : State :=
  match x.home with
  | some (t, n) => s.leaveSlot t n
  | none => s

/-- What every tile holds of a context goes. -/
def State.leaveTiles (s : State) (c : Nat) (x : Ctx) : State :=
  (s.tiles.map (·.1)).foldl (fun acc t => ((acc.dropBanks t c).dropSpill t c).onTile t fun y => y.without c x.cr.job) s

/-- Its tile partitions are cleared. -/
def State.dropPartitions (s : State) (c : Nat) : State :=
  (List.range 8).foldl (fun acc i =>
    let a := scBase + 0x380 + 8 * i
    if tst (acc.reg a) 63 && bits (acc.reg a) 0 12 = c then (acc.setReg a 0).settleAllSlots else acc) s

/-- Steps 5 and 6: everything that is the context's is released, and the ID is free. -/
def State.release (s : State) (c : Nat) (x : Ctx) : State :=
  let s1 := (((s.leaveHome x).leaveTiles c x).dropPartitions c).setReg (fbLandReg c) 0
  let s2 := { s1 with mail := s1.mail.without c x.cr.job }
  let s3 := s2.forgetEntries c
  { s3 with ctxs := FMap.erase s3.ctxs c }

/-- Every step of a destroy has ended; a record's log entry is written. -/
def execDestroyDone (c : CtxId) (s : State) : Result :=
  .next (match s.ctx? c with
    | none => s
    | some x =>
      if ! x.destroying || s.destroyBusy c x || s.safety.safe || s.fixed then s
      else
        let s1 := s.release c x
        match s1.mgmt.current with
        | some (ws, i) => if mgOp ws = 0x11 && mgCtx ws = c.val then s1.endRecord ws i 0 c 0 0 0 else s1
        | none => s1)

end Sys2Proof.Machine
end

