-- ==== Sys2Proof/Machine/Charts.lean ====
section
/-! DEFINITION. Weight charts: loads and their checks (R379 to R383), activation and discard (R384, R385). -/

namespace Sys2Proof.Machine

open Sys2Proof

/-! ### The chart image (Tables 14-11 and 14-12) -/

def chartSegs (h : List Byte) : Nat := ofBytes ((h.drop 8).take 4)
def chartSpan (h : List Byte) : Nat := ofBytes ((h.drop 0x10).take 8)
def chartKey (h : List Byte) : Nat := ofBytes ((h.drop 6).take 1)
def zeros (bs : List Byte) : Bool := bs.all (· = 0)

/-- A segment entry: destination offset, length, tier code, source offset, digest. -/
structure Seg where
  dst : Nat
  len : Nat
  tier : Nat
  src : Nat
  digest : List Byte

def segOf (e : List Byte) : Seg :=
  let w := ofBytes ((e.drop 8).take 8)
  ⟨ofBytes (e.take 8), w % 2 ^ 48, w / 2 ^ 56 % 4, ofBytes ((e.drop 0x10).take 8), (e.drop 0x20).take 64⟩

/-- An entry's form: alignment, tier code, RSV bits (with check 2, DEDUCED, log 62). -/
def segLegal (e : List Byte) : Bool :=
  let w := ofBytes ((e.drop 8).take 8)
  let x := segOf e
  x.dst % 64 = 0 && x.len % 64 = 0 && x.src % 64 = 0 && x.tier ≤ 2 && w / 2 ^ 48 % 256 = 0 && w / 2 ^ 58 = 0 &&
  zeros ((e.drop 0x18).take 8) && zeros ((e.drop 0x60).take 32)

/-- Check 2: magic, version, S and RSV fields. -/
def chartFormat (h : List Byte) : Bool :=
  ofBytes (h.take 4) = 0x54524843 && ofBytes ((h.drop 4).take 2) = 1 && 1 ≤ chartSegs h && chartSegs h ≤ 16384 &&
  zeros ((h.drop 7).take 1) && zeros ((h.drop 0xC).take 4) && zeros ((h.drop 0x20).take 480)

/-- Segments lie within the span and do not overlap. -/
def segsPlaced (span : Nat) : List Seg → Bool
  | [] => true
  | x :: xs => x.dst + x.len ≤ span && (xs.all fun y => x.dst + x.len ≤ y.dst || y.dst + y.len ≤ x.dst || x.len = 0 || y.len = 0) && segsPlaced span xs

/-! ### Destination pages -/

/-- The part of a destination page: mapped with R set and W clear, in Near or Mid and in the tier required. -/
def State.chartPart (s : State) (root a n tier : Nat) : Trans :=
  match s.leafOf root a with
  | .inr t => t
  | .inl leaf =>
    match s.flaw leaf 64 with
    | some (f, pa) => .flawed f pa
    | none =>
      let e := s.pa64 leaf
      let k := bits e 59 2
      if 1 < k || tst e 61 || (tier = 1 && k != 0) || (tier = 2 && k != 1) then .fail unmapped 1 else s.leafPart leaf a n .read

/-- The parts of a segment's pages, or the status of check 5. -/
def State.chartParts (s : State) (root tier : Nat) : List (Nat × Nat) → State × Except Status (List Part)
  | [] => (s, .ok [])
  | (a, n) :: rest =>
    match s.chartPart root a n tier with
    | .flawed f pa => ((if f = .bad then s.noteFlaw pa 0x5061 else s).blamePa pa, .error (match f with | .lost => 0x5062 | .bad => 0x5061))
    | .fail _ _ => (s, .error 0x2113)
    | .ok p => thenDo (s.chartParts root tier rest) fun s1 ps => (s1, .ok (p :: ps))

/-- Resolve every segment before anything is copied. -/
def State.placeSegs (s : State) (root base : Nat) : List Seg → State × Except Status (List (List Part))
  | [] => (s, .ok [])
  | x :: xs =>
    if 2 ^ 47 < base + x.dst + x.len then (s, .error 0x2113)
    else thenDo (s.chartParts root x.tier (pagesOf (base + x.dst) x.len)) fun s1 ps =>
      thenDo (s1.placeSegs root base xs) fun s2 pss => (s2, .ok (ps :: pss))

/-- Copy and hash the segments in table order (R382). -/
def State.copySegs (s : State) (c src : Nat) : List (Seg × List Part) → State × Except Status Unit
  | [] => (s, .ok ())
  | (x, ps) :: rest =>
    match s.readPart 0xFFF false ⟨.host pf0Space (src + x.src), x.len, none, 0, 0⟩ with
    | (s1, .error _) => (s1, .error 0x6100)
    | (s1, .ok bs) =>
      thenDo (s1.writeParts c .write ps bs) fun s2 _ =>
        let s3 := s2.count (hiBase + 0x128) x.len
        if sha512 bs = x.digest then s3.copySegs c src rest else (s3, .error 0xA101)

/-- The checks of Table 14-13 and the copy: the key slot and the digest of the signed message. A load that made check 3 before its slot
changed uses what it found there (R416). -/
def State.runLoad (s : State) (l : Load) (root : Nat) : State × Except Status (Nat × List Byte) :=
  match s.readPart 0xFFF false ⟨.host pf0Space l.src, 0x400, none, 0, 0⟩ with
  | (s1, .error _) => (s1, .error 0x6100)
  | (s1, .ok h) =>
    let n := if chartSegs h ≤ 16384 then chartSegs h else 0
    match s1.readPart 0xFFF false ⟨.host pf0Space (l.src + 0x400), 128 * n, none, 0, 0⟩ with
    | (s2, .error _) => (s2, .error 0x6100)
    | (s2, .ok tb) =>
      let es := (List.range n).map fun i => (tb.drop (128 * i)).take 128
      let msg := h.take 0x200 ++ tb
      if ! chartFormat h || ! es.all segLegal then (s2, .error 0x2112)
      else match (FMap.find? l.keys (chartKey h)).getD (FMap.find? s2.sec.keys (chartKey h)) with
        | none => (s2, .error 0xA102)
        | some key =>
          if ! rsaVerify key msg ((h.drop 0x200).take 512) then (s2, .error 0xA100)
          else if ! segsPlaced (chartSpan h) (es.map segOf) then (s2, .error 0x2113)
          else
            thenDo (s2.placeSegs root l.base (es.map segOf)) fun s3 pss =>
              thenDo (s3.copySegs l.ctx l.src ((es.map segOf).zip pss)) fun s4 _ => (s4, .ok (chartKey h, sha512 msg))

/-! ### Rows -/

/-- Generations of a chart ID that are neither Retired nor Failed. -/
def Ctx.liveGens (x : Ctx) (k : Nat) : List Gen := (x.gens k).filter fun y => y.st != .retired && y.st != .failed

/-- The next generation number: one more, from 65,535 to 1, past the numbers still live (R381). -/
def nextGen : Nat → Nat → List Nat → Nat
  | 0, n, _ => n
  | fuel + 1, n, used =>
    let m := if 65535 ≤ n then 1 else n + 1
    if used.contains m then nextGen fuel m used else m

/-- A generation begins to load. -/
def State.addGen (s : State) (c k n : Nat) : State :=
  s.onCtx c fun x =>
    let ch := FMap.get Chart.empty x.charts k
    { x with charts := FMap.put Chart.empty x.charts k ⟨(ch.gens.filter fun y => y.num != n) ++ [⟨n, .loading, 0, 0, 0, 0, []⟩], n⟩ }

/-- CHART_LOAD starts a load, once the host interface may read (R362, R381). -/
def execChartLoad (s : State) : Result :=
  .next (match s.record? 0x20 with
    | none => s
    | some (ws, i) =>
      let c := mgCtx ws
      let k := mgChart ws
      if 4 ≤ s.mgmt.loads.length then s.refuseRecord ws i 0x4110
      else match s.live? c with
        | none => s.refuseRecord ws i 0x2104
        | some x =>
          if 3 ≤ (x.liveGens k).length then s.refuseRecord ws i 0x4112
          else if ! s.hostReadFree then s
          else
            let n := nextGen 65536 (FMap.get Chart.empty x.charts k).last ((x.liveGens k).map (·.num))
            let s1 := s.addGen c k n
            ({ s1 with mgmt := { s1.mgmt with loads := s1.mgmt.loads ++ [Load.mk c k n (mgAddr ws) (mgBase ws) []] } }.showLoads).endRecord ws i 0 c 0 k n)

/-- The oldest load of a chart ID ends. -/
def execLoadDone (c : CtxId) (chart : Fin 64) (s : State) : Result :=
  .next (match s.mgmt.loads.find? fun l => l.ctx = c.val && l.chart = chart.val, s.ctx? c with
    | some l, some x =>
      if s.safety.safe || s.fixed then s
      else match s.runLoad l x.cr.root with
        | (s1, .ok (slot, digest)) => s1.endLoad l 0 slot digest
        | (s1, .error st) => s1.endLoad l st 0 []
    | _, _ => s)

/-- A management record on a generation that must be Ready. -/
def State.onReady (s : State) (op : Nat) (k : State → Nat → Nat → Nat → List Word → Nat → State) : State :=
  match s.record? op with
  | none => s
  | some (ws, i) =>
    match s.live? (mgCtx ws) with
    | none => s.refuseRecord ws i 0x2104
    | some x =>
      match x.gen? (mgChart ws) (mgGen ws) with
      | some y => if y.st = .ready then k s (mgCtx ws) (mgChart ws) (mgGen ws) ws i else s.refuseRecord ws i 0x2115
      | none => s.refuseRecord ws i 0x2115

/-- The Current generation of a chart ID. -/
def Ctx.current? (x : Ctx) (k : Nat) : Option Nat := ((x.gens k).find? fun y => y.st = .current).map (·.num)

/-- A Ready generation becomes Current and the previous one Retiring (R384). -/
def execChartActivate (s : State) : Result :=
  .next (s.onReady 0x21 fun s c k n ws i =>
    let old := match s.ctx? c with | some x => x.current? k | none => none
    let s1 := s.onGen c k n fun y => { y with st := .current }
    match old with
    | some m => ((s1.onGen c k m fun y => { y with st := .retiring }).endRecord ws i 0 c 0 k n).settleGen c k m
    | none => s1.endRecord ws i 0 c 0 k n)

/-- A Ready generation becomes Retiring (Table 14-6). -/
def execChartDiscard (s : State) : Result :=
  .next (s.onReady 0x22 fun s c k n ws i => ((s.onGen c k n fun y => { y with st := .retiring }).endRecord ws i 0 c 0 k n).settleGen c k n)

end Sys2Proof.Machine
end

