-- ==== Sys2Proof/Machine/Secure.lean ====
section
/-! DEFINITION. Security (chapter 15): firmware verification and the fused minimum (R404 to R408), the certificate and
attestation (R409 to R413), publisher keys (R414 to R417), partition entries (R403). -/

namespace Sys2Proof.Machine

open Sys2Proof

def scStatusReg : Nat := scBase + 0x000

/-- A security command begins: busy, with the host address that its register holds now; the last status stands until it ends
(DESIGN CHOICE, log 112). -/
def State.secBegin (s : State) (addr : Nat) (c : SecCmd) : State :=
  { s.setField scStatusReg 0 1 1 with sec := { s.sec with cmd := some c, addr := addr } }

/-- A security command ends with a status. -/
def State.secEnd (s : State) (st : Status) : State :=
  State.logIf { s.setReg scStatusReg (pack [(16, st.toNat)]) with sec := { s.sec with cmd := none } } (packageFault st 10 0 0)

/-- The host address that a security command's register holds. -/
def State.secAddr (s : State) (o : Nat) : Nat := (s.reg (scBase + o)).toNat

/-- A write that starts a command; while one runs it is `SC_BUSY` and ignored. -/
def State.secCommand (s : State) (a : Nat) (w : Wr) (k : State → Word → State) : State :=
  s.write a w fun s v _ => if s.sec.cmd.isSome then s.record a 0x4120 else k s v

/-- The minimum in the fuses of a Binnacle (R404, R407). -/
def State.fusedOf (s : State) (b : Bool) : Nat := if b then s.sec.fusedB else s.sec.fused

/-- The Binnacles that have not failed, the active one first. -/
def State.liveBinnacles (s : State) : List Bool := [s.activeB, ! s.activeB].filter s.runsB

/-- `SC_SVN`: the fused minimum of the active Binnacle (DESIGN CHOICE, log 119) and the running version. -/
def State.showSvn (s : State) : State := s.setReg (scBase + 0x020) (pack [(8, s.fusedOf s.activeB), (0, s.sec.running)])

/-- The fuses of the Binnacles that run hold at least a minimum (R408). -/
def State.blowFuses (s : State) (v : Nat) : State :=
  { s with sec := { s.sec with
      fused := if s.runsB false then max s.sec.fused v else s.sec.fused
      fusedB := if s.runsB true then max s.sec.fusedB v else s.sec.fusedB } }

/-- A fuse write that is cut short leaves each Binnacle's minimum between its old and the new value (R408). -/
def State.cutFuses (s : State) (v : Nat) : State :=
  let a := s.draw
  let b := a.2.draw
  { b.2 with sec := { b.2.sec with
      fused := s.sec.fused + a.1.toNat % (v - s.sec.fused + 1)
      fusedB := s.sec.fusedB + b.1.toNat % (v - s.sec.fusedB + 1) } }

/-- Write 64 bytes of a digest to eight registers. -/
def State.showDigest (s : State) (a : Nat) (d : List Byte) : State :=
  ((List.range 8).zip (wordsOf 8 d)).foldl (fun acc p => acc.setReg (a + 8 * p.1) p.2) s

/-- `n` bytes from an offset. -/
def field (bs : List Byte) (off n : Nat) : List Byte := (bs.drop off).take n

/-! ### Firmware (R405 to R407) -/

def execFwVerify (w : Wr) (s : State) : Result :=
  .next (s.secCommand (scBase + 0x018) w fun s v =>
    if tst v 0 then s.secBegin (s.secAddr 0x010) (.verify s.chron) else s)

/-- Check 2: magic, version, security version, length, exponent, RSV fields (Table 15-5). -/
def fwFormat (h : List Byte) : Bool :=
  ofBytes (field h 0 4) = 0x57524D46 && ofBytes (field h 4 2) = 1 && zeros (field h 6 2) && ofBytes (field h 8 4) ≤ 64 &&
  zeros (field h 0xC 4) && ofBytes (field h 0x10 8) % 64 = 0 && 64 ≤ ofBytes (field h 0x10 8) && ofBytes (field h 0x10 8) ≤ 2 ^ 26 &&
  zeros (field h 0x18 40) && ofBytes (field h 0x80 4) = 65537 && zeros (field h 0x84 380) && zeros (field h 0x600 512)

/-- Checks 2 to 5 of Table 15-6, by a Binnacle whose fuses hold a minimum: the first failure. -/
def fwHead (h : List Byte) (minimum : Nat) : Option Status :=
  if ! fwFormat h then some 0x2120
  else if sha512 (field h 0x200 512 ++ field h 0x80 4) != Config.rootDigest then some 0xA010
  else if ! rsaVerify (field h 0x200 512) (field h 0 0x400) (field h 0x400 512) then some 0xA011
  else if ofBytes (field h 8 4) < minimum then some 0xA013
  else none

/-- Check 6. -/
def fwBody (h : List Byte) (body : Except Status (List Byte)) : Option Status :=
  match body with
  | .error _ => some 0x6100
  | .ok bs => if sha512 bs != field h 0x40 64 then some 0xA012 else none

/-- Every Binnacle that has not failed makes the checks of Table 15-6, each against its own fuses; the status is that of one that refuses,
the active one first (R407). The image is read once. The answer is the security version and the body's digest. -/
def State.fwChecks (s : State) : State × Except Status (Nat × List Byte) :=
  let a := s.sec.addr
  match s.readPart 0xFFF false ⟨.host pf0Space a, 0x800, none, 0, 0⟩ with
  | (s1, .error _) => (s1, .error 0x6100)
  | (s1, .ok h) =>
    let heads := s1.liveBinnacles.map fun b => fwHead h (s1.fusedOf b)
    if heads.all (·.isSome) then (s1, .error ((heads.headD none).getD 0x2120))
    else
      let r := s1.readPart 0xFFF false ⟨.host pf0Space (a + 0x800), ofBytes (field h 0x10 8), none, 0, 0⟩
      match (heads.map fun x => x.or (fwBody h r.2)).findSome? id with
      | some st => (r.1, .error st)
      | none => (r.1, .ok (ofBytes (field h 8 4), field h 0x40 64))

/-- The next stage of staged start begins (R462). -/
def State.enterStage (s : State) (n : Nat) : State :=
  { (s.setField (bnBase + 0x008) 0 8 n).setReg (bnBase + 0x080 + 8 * n) s.chron with start := { s.start with since := s.chron } }

/-- The Binnacles end verification. Accepted at SAFE_MIN, the firmware runs, its digest and version are held until package reset, and
MEMORY begins (R406, R407, R463). An image that is accepted later leaves them as they are. -/
def execFirmwareAccept (s : State) : Result :=
  .next (match s.sec.cmd with
    | some (.verify _) =>
      (match s.fwChecks with
       | (s1, .error st) => (s1.secEnd st).count (scBase + 0x3C0) 1
       | (s1, .ok (svn, d)) =>
         let s2 := s1.secEnd 0
         if s2.stage != 1 then s2
         else ({ s2 with sec := { s2.sec with running := svn } }.showSvn.showDigest (scBase + 0x040) d).enterStage 2)
    | _ => s)

/-! ### The fused minimum (R408) -/

def execScSvnAdvance (w : Wr) (s : State) : Result :=
  .next (s.secCommand (scBase + 0x028) w fun s v =>
    let n := bits v 0 7
    if n ≤ s.fusedOf s.activeB || s.sec.running < n then s.record scBase 0x2123 else s.secBegin 0 (.svn n))

/-- Step 1 and 2 of a warm reset: sweeping and management stop, every step is flushed without a completion record, chart and
function-table loads are abandoned without events (R457). -/
def State.beginFlush (s : State) : State :=
  let s1 := { s with start := { s.start with boot := .warmFlush }, mgmt := { s.mgmt with loads := [], current := none }, tables := { s.tables with cmd := none } }
  (s1.ctxs.map (·.1)).foldl State.flushCtx s1

/-- A warm reset that waited for the fuse write goes on (R459). -/
def execSvnAdvanceDone (s : State) : Result :=
  .next (match s.sec.cmd with
    | some (.svn n) =>
      let s1 := ((s.secEnd 0).blowFuses n).showSvn
      if s1.start.boot = .warmWait then s1.beginFlush else s1
    | _ => s)

/-! ### Certificate (R410) -/

def execScCertCmd (w : Wr) (s : State) : Result :=
  .next (s.secCommand (scBase + 0x108) w fun s v => if tst v 0 then s.secBegin (s.secAddr 0x100) .cert else s)

def execCertCopyDone (s : State) : Result :=
  .next (match s.sec.cmd with
    | some .cert =>
      (if s.linkUp then s.hostWrite pf0Space s.sec.addr (Config.certificate.take 4096) else s).secEnd 0
    | _ => s)

/-! ### Attestation (R411 to R413) -/

/-- Every tile that holds a region, a counter set or the home slot of a context is partitioned to it (Table 15-4). -/
def State.ownsTiles (s : State) (c : Nat) (x : Ctx) : Bool :=
  allTiles.all fun t =>
    let held := (List.range 16).any (fun n => let v := s.spEntry t n; tst v 28 && bits v 0 12 = c) ||
      ((s.tile t).work.set? c).isSome || (match x.home with | some h => h.1 = t | none => false)
    let ctl := s.treg t 0x008
    ! held || (tst ctl 1 && bits ctl 2 12 = c)

/-- An `SC_PART` entry names the context. -/
def State.inPart (s : State) (c : Nat) : Bool :=
  (List.range 8).any fun i => let v := s.reg (scBase + 0x380 + 8 * i); tst v 63 && bits v 0 12 = c

/-- Code of a generation that a report lists. -/
def GenState.reported : GenState → Option Nat
  | .ready => some 1 | .current => some 2 | .retiring => some 3
  | .loading | .retired | .failed => none

/-- Chart entries of a context from a chart ID on, in ascending ID and generation (R412). -/
def Ctx.chartEntries (x : Ctx) (first : Nat) : List (List Byte) :=
  (List.range 64).flatMap fun k =>
    if k < first then []
    else
      let gs := (x.gens k).filter fun y => y.st.reported.isSome
      (List.range 65536).flatMap fun n => (gs.filter fun y => y.num = n).map fun y =>
        bytesOf 1 k ++ bytesOf 1 (y.st.reported.getD 0) ++ bytesOf 2 y.num ++ bytesOf 1 y.slot ++ List.replicate 11 (0 : Byte) ++
          (y.digest ++ List.replicate 64 (0 : Byte)).take 64

/-- Digests of the sixteen function-table slots. -/
def State.tableDigests (s : State) : List Byte :=
  (List.range 16).flatMap fun n => match FMap.find? s.tables.images n with
    | some ws => sha512 (wordBytes ws)
    | none => List.replicate 64 (0 : Byte)

/-- Bytes of `n` registers from an address. -/
def State.regBytes (s : State) (a n : Nat) : List Byte := (span a n).flatMap fun r => bytesOf 8 (s.reg r).toNat

/-- Bytes `0x000` to `0x3FF` of a report (Table 15-7). -/
def State.report (s : State) (ofCtx : Bool) (c first : Nat) (nonce : List Byte) : List Byte :=
  let cfg := s.reg (dbBase + 0x000)
  let es := match s.ctx? c with | some x => if ofCtx then x.chartEntries first else [] | none => []
  let fixedMode := tst (s.reg (pwBase + 0x028)) 0
  let own := match s.ctx? c with
    | some x => if ofCtx then
        [(8, b2n (s.inPart c && s.ownsTiles c x && fixedMode)), (9, b2n x.cr.ff5020), (10, b2n (8 < es.length))] else []
    | none => []
  let flags := pack ([(0, b2n (tst (s.reg (scBase + 0x008)) 0)), (1, b2n (tst cfg 0)), (2, b2n (tst cfg 1)), (3, b2n fixedMode)] ++ own)
  let mine := match s.ctx? c with
    | some x => if ofCtx then
        bytesOf 2 c ++ bytesOf 1 x.cr.fn.toNat ++ bytesOf 1 x.cr.prio.toNat ++ bytesOf 4 x.cr.job.toNat ++ bytesOf 1 (min 8 es.length) ++
          List.replicate 7 (0 : Byte) ++ (es.take 8).flatten else []
    | none => []
  let head := bytesOf 4 0x52545441 ++ bytesOf 2 1 ++ bytesOf 2 (b2n ofCtx) ++ bytesOf 8 (bits (s.reg (bnBase + 0x000)) 0 16) ++
    bytesOf 16 Config.serial.toNat ++ nonce ++ s.regBytes (scBase + 0x040) 8 ++ bytesOf 1 s.sec.running ++ bytesOf 1 (s.fusedOf s.activeB) ++
    bytesOf 6 0 ++ bytesOf 8 flags.toNat ++ bytesOf 8 s.chron.toNat ++ bytesOf 8 0 ++ sha512 (s.regBytes (scBase + 0x400) 128) ++
    sha512 s.tableDigests ++ mine
  head ++ List.replicate (0x400 - head.length) (0 : Byte)

/-- The 64-byte nonce is read and the snapshot taken when the request is accepted. -/
def execScAttCmd (w : Wr) (s : State) : Result :=
  .next (s.secCommand (scBase + 0x208) w fun s v =>
    let c := bits v 0 12
    if tst v 12 && (s.live? c).isNone then s.record scBase 0x2104
    else match s.readPart 0xFFF false ⟨.host pf0Space (s.secAddr 0x200 + 0x20), 64, none, 0, 0⟩ with
      | (s1, .error _) => s1.secEnd 0x6100
      | (s1, .ok nonce) => s1.secBegin (s1.secAddr 0x200) (.attest (s1.report (tst v 12) c (bits v 15 6) nonce)))

/-- The salt of a signature: 64 bytes that nothing states (log 3). -/
def State.drawSalt (s : State) : List Byte × State :=
  (List.range 8).foldl (fun acc _ => let d := acc.2.draw; (acc.1 ++ bytesOf 8 d.1.toNat, d.2)) ([], s)

/-- The report and its signature are written, 1,536 bytes (R413). -/
def execAttestationDone (s : State) : Result :=
  .next (match s.sec.cmd with
    | some (.attest r) =>
      let d := s.drawSalt
      let s1 := if s.linkUp then d.2.hostWrite pf0Space s.sec.addr (r ++ rsaSign r d.1) else d.2
      (s1.secEnd 0).count (scBase + 0x3C8) 1
    | _ => s)

/-! ### Publisher keys (R414 to R417) -/

/-- The checks that precede the reading of a record, for a write with one operation. -/
def State.keyCommand (s : State) (v : Word) (op : Nat) (k : State → Nat → State) : State :=
  let a := scBase + 0x308
  if bits v 0 2 != op then s
  else if s.sec.cmd.isSome then s.record a 0x4120
  else if tst (s.reg (scBase + 0x008)) 0 then s.record a 0x3120
  else k s (bits v 4 4)

/-- A write of `SC_KEY_CMD` with INSTALL, or with an encoding that is none. -/
def execInstall (w : Wr) (s : State) : Result :=
  .next (
    let a := scBase + 0x308
    s.write a w fun s v _ =>
      if bits v 0 2 = 0 || bits v 0 2 = 3 then s.record a rejected
      else s.keyCommand v 1 fun s n =>
        if (FMap.find? s.sec.keys n).isSome then s.record a 0x2122 else s.secBegin (s.secAddr 0x300) (.key n true))

def execRemove (w : Wr) (s : State) : Result :=
  .next (s.write (scBase + 0x308) w fun s v _ => s.keyCommand v 2 fun s n => s.secBegin 0 (.key n false))

/-- A key record meets R414. -/
def keyFormat (bs : List Byte) : Bool :=
  ofBytes (field bs 0 4) = 65537 && zeros (field bs 4 508) && (bs.getD 0x200 0).getLsbD 7 && (bs.getD 0x3FF 0).getLsbD 0

def keyDigestReg (n : Nat) : Nat := scBase + 0x400 + 0x40 * n

/-- A slot's key changes. Of the chart loads in flight, those that have made check 3 keep what they found in the slot: a free choice each
(R416, log 3). -/
def State.setKey (s : State) (n : Nat) (key : Option (List Byte)) : State :=
  let old := FMap.find? s.sec.keys n
  let r := s.mgmt.loads.foldl (fun (acc : List Load × State) l =>
    let d := acc.2.draw
    let l1 := if d.1.getLsbD 0 && (FMap.find? l.keys n).isNone then { l with keys := FMap.insert l.keys n old } else l
    (acc.1 ++ [l1], d.2)) ([], s)
  { r.2 with
    mgmt := { r.2.mgmt with loads := r.1 }
    sec := { r.2.sec with keys := match key with | some m => FMap.insert r.2.sec.keys n m | none => FMap.erase r.2.sec.keys n } }

/-- The record is read and checked, or the slot is emptied; the digest and `SC_KEY_VALID` follow (R415). -/
def execKeyCommandDone (s : State) : Result :=
  .next (match s.sec.cmd with
    | some (.key n true) =>
      (match s.readPart 0xFFF false ⟨.host pf0Space s.sec.addr, 1024, none, 0, 0⟩ with
       | (s1, .error _) => s1.secEnd 0x6100
       | (s1, .ok bs) =>
         if ! keyFormat bs then s1.secEnd 0x2121
         else
           let m := field bs 0x200 512
           let s2 := (s1.secEnd 0).setKey n (some m)
           (s2.showDigest (keyDigestReg n) (sha512 (m ++ field bs 0 4))).setField (scBase + 0x310) n 1 1)
    | some (.key n false) =>
      let s1 := (s.secEnd 0).setKey n none
      (s1.clearRegs (span (keyDigestReg n) 8)).setField (scBase + 0x310) n 1 0
    | _ => s)

def execKeylock (w : Wr) (s : State) : Result :=
  .next (s.write (scBase + 0x008) w fun s v _ => if tst v 0 then s.setReg (scBase + 0x008) 1 else s)

/-! ### Partition entries (R403) -/

/-- Another valid entry names the context. -/
def State.partTwin (s : State) (n c : Nat) : Bool :=
  (List.range 8).any fun i => i != n && (let v := s.reg (scBase + 0x380 + 8 * i); tst v 63 && bits v 0 12 = c)

def execScPartWrite (n : Fin 8) (w : Wr) (s : State) : Result :=
  .next (
    let a := scBase + 0x380 + 8 * n
    s.write a w fun s v m =>
      let new := merge (s.reg a) v m
      let c := bits new 0 12
      if ! tst new 63 then (s.setReg a (pack [(0, c)])).settleAllSlots
      else match s.live? c with
        | none => s.record a 0x2104
        | some _ => if s.partTwin n c then s.record a 0x2124 else (s.setReg a (pack [(63, 1), (0, c)])).settleAllSlots)

end Sys2Proof.Machine
end

