-- ==== Sys2Proof/Machine/HostLink.lean ====
section
/-! DEFINITION. The PCI Express link and its functions: completion errors and link loss (R363, R364), training (R362, R463),
function-level and hot resets (R388, R460). -/

namespace Sys2Proof.Machine

open Sys2Proof

/-! ### Failed host accesses (R363) -/

/-- Some byte of a request lies in host memory. -/
def Req.onHost (q : Req) : Bool := q.parts.any fun p => match p.place with | .host .. => true | _ => false

def State.hostFailed (s : State) : State := s.count (hiBase + 0x118) 1

/-- A security command that reads or writes host memory. -/
def SecCmd.onHost : SecCmd → Bool
  | .svn _ => false
  | .key _ put => put
  | .verify _ | .cert | .attest _ => true

/-- A host read of a piece ends with a failure. -/
def State.refuseReq (s : State) (t ord seq : Nat) (st : Status) : State :=
  match s.req? t ord seq with
  | some (r, q) => s.endReq t r q (.error st)
  | none => s

/-- The zero-length read that a fence waits for fails. -/
def State.refuseFence (s : State) (t n : Nat) : State := if ((s.tile t).slot n).fencing then s.except t n 0x6100 else s

/-- A tile learns something now, or, stopped by a fix, when the fix ends (R504, R506). -/
def State.learn (s : State) (d : Deferred) (now : State → State) : State :=
  if s.fixed then { s with dbg := { s.dbg with deferred := s.dbg.deferred ++ [d] } } else now s

/-- The request that a completion with EP, UR or CA answers ends with HOST_READ_FAILED. -/
def execHostCompletionError (x : HostAccess) (s : State) : Result :=
  .next (
    if ! s.linkUp || s.safety.safe then s
    else match x with
      | .tailLine line =>
        if ! s.sweeps || ! s.lineDue line || ! s.lineFirst line then s
        else
          let s1 := { s with mgmt := { s.mgmt with swept := FMap.insert s.mgmt.swept line s.chron } }
          ((s1.count (hiBase + 0x100) 1).count (hiBase + 0x108) 1).hostFailed
      | .mgmtRead =>
        if ! s.mgmtRuns then s
        else
          let s1 := { s with mgmt := { s.mgmt with swept := FMap.insert s.mgmt.swept 512 s.chron } }
          ((s1.count (hiBase + 0x100) 1).count (hiBase + 0x108) 1).hostFailed
      | .fetch c =>
        (match s.ctx? c.toNat with
         | some y => if y.ring.fetching.isSome then s.hostFailed.fetchFailed c.toNat y else s
         | none => s)
      | .load c k num =>
        (match s.mgmt.loads.find? fun l => l.ctx = c.val && l.chart = k.val && l.num = num with
         | some l => s.hostFailed.endLoad l 0x6100 0 []
         | none => s)
      | .piece t e i =>
        (match (((s.tile t).work.issuedReqs e).filter fun p => p.2.host)[i]? with
         | some (r, q) => s.hostFailed.learn (.request t r.ord q.seq) fun s => s.refuseReq t r.ord q.seq 0x6100
         | none => s)
      | .scalar t n => if ((s.tile t).slot n).fencing then s.hostFailed.learn (.fence t n) fun s => s.refuseFence t n else s
      | .firmware => (match s.sec.cmd with | some (.verify _) => (s.hostFailed.secEnd 0x6100).count (scBase + 0x3C0) 1 | _ => s)
      | .key => (match s.sec.cmd with | some (.key _ true) => s.hostFailed.secEnd 0x6100 | _ => s)
      | .table =>
        (match s.tables.cmd with
         | some c => if s.ftReads c then s.hostFailed.tableFailed c else s
         | none => s))

/-- A poisoned write is discarded; AER reports it. -/
def execHostPoisonedWrite (s : State) : Result :=
  .next (if s.linkUp && ! s.safety.safe then { s with outside := { s.outside with aer := s.outside.aer + 1 } } else s)

/-! ### Link down (R364) -/

/-- Every request of a tile's pieces with host bytes ends. -/
def State.loseHost (s : State) (t : Nat) : State :=
  ((List.range 9).flatMap fun e => ((s.tile t).work.issuedReqs e).filter fun p => p.2.onHost).foldl
    (fun acc p => acc.endReq t p.1 p.2 (.error 0x6101)) s

/-- Slots of a tile whose fence waits for a zero-length read. -/
def State.loseFences (s : State) (t : Nat) : State :=
  (List.range 16).foldl (fun acc n => if ((acc.tile t).slot n).fencing then acc.except t n 0x6101 else acc) s

/-- Every tile's host accesses in flight end. -/
def State.tilesLoseHost (s : State) : State := (s.tiles.map (·.1)).foldl (fun acc t => (acc.loseHost t).loseFences t) s

/-- What a tile learns as a fix ends. -/
def State.learnOne (s : State) : Deferred → State
  | .hostLost => s.tilesLoseHost
  | .remote t id st => s.failRemotes [(t, id)] st
  | .request t ord seq => s.refuseReq t ord seq 0x6100
  | .fence t n => s.refuseFence t n

/-- The tiles learn what they missed in a fix, in order. -/
def State.catchUp (s : State) : State := s.dbg.deferred.foldl State.learnOne { s with dbg := { s.dbg with deferred := [] } }

/-- The link goes down: every host access in flight completes with HOST_LINK_DOWN, and sweeping stops. -/
def State.dropHost (s : State) : State :=
  if ! s.linkUp then s
  else
    let s1 := s.setField hiBase 11 1 0
    let s2 := s1.learn .hostLost State.tilesLoseHost
    let s3 := (s2.ctxs.map (·.1)).foldl (fun acc c => match acc.ctx? c with
      | some y => if y.ring.fetching.isSome then acc.fetchFailed c y else acc
      | none => acc) s2
    let s4 := s3.mgmt.loads.foldl (fun acc l => acc.endLoad l 0x6101 0 []) s3
    let s5 := match s4.tables.cmd with
      | some c => if c.fetching then s4.tableFailed c else s4
      | none => s4
    match s5.sec.cmd with
    | some k => if k.onHost then s5.secEnd 0x6101 else s5
    | none => s5

def execHostLinkDown (s : State) : Result := .next s.dropHost

/-! ### Link up (R362, R463) -/

/-- SAFE_MIN is reached: the power request rises, and the active Binnacle records what the latch holds (R463, R485, R526). -/
def State.reachSafeMin (s : State) : State :=
  let s1 := s.enterStage 1
  let s2 := { s1 with safety := { s1.safety with preq := true } }
  if s2.safety.latch then
    let s3 := s2.log (packageFault 0xF002 9 0 0)
    { s3.setField (bnBase + 0x208) 16 16 0xF002 with safety := { s3.safety with latch := false, entry := 0xF002 } }
  else s2

/-- The link trains at a rate and width; flit mode is always on at 64 and 128 GT/s. -/
def execPcieLinkUp (rate : BitVec 4) (width : BitVec 6) (flit : Bool) (s : State) : Result :=
  if ! linkMode rate width then .refused .illFormed
  else .next (
    if s.linkUp || s.safety.safe || ! s.normal then s
    else
      let s1 := s.setReg hiBase (pack [(11, 1), (10, b2n (flit || 6 ≤ rate.toNat)), (4, width.toNat), (0, rate.toNat)])
      if s1.stage = 0 || s1.stage = 0x81 then s1.reachSafeMin else s1)

/-- A hundred milliseconds. -/
def ms100 : Nat := 100000000

/-- After LINK_FAILED a new attempt begins every 100 ms. -/
def execLinkRetrainTimer (s : State) : Result :=
  .next (
    if s.stage = 0x81 && ! s.safety.safe && s.normal && ms100 ≤ (s.chron - s.start.since).toNat then
      { s with start := { s.start with since := s.chron } }
    else s)

def execHiCntClear (w : Wr) (s : State) : Result :=
  .next (s.trigger1 (hiBase + 0x1F8) w fun s => s.clearRegs (span (hiBase + 0x100) 7))

/-! ### Function-level resets (R460) -/

/-- FLR of PF1 (0) or a virtual function: every context that it owns is destroyed. -/
def State.flr (s : State) (fn : Nat) : State :=
  let cs := (s.ctxs.filter fun p => p.2.cr.fn.toNat = fn).map (·.1)
  let s1 := cs.foldl State.beginDestroy s
  { s1 with outside := { s1.outside with ats := s1.outside.ats.filter (· != fn), enabled := s1.outside.enabled.filter (· != fn) } }

/-- FLR of PF0: its configuration space returns to its reset state (log 111), and ENABLE clears once no management record is in progress. -/
def State.flrPf0 (s : State) : State :=
  let s1 := { s with outside := { s.outside with enabled := s.outside.enabled.filter (· != pf0) } }
  if s1.mgmt.current.isSome then { s1 with mgmt := { s1.mgmt with stopping := true } } else s1.setField (hiBase + 0x040) 16 1 0

/-- The management record in progress ends with the link that carried it: without effect, and without the entry that nothing can take any
more (DESIGN CHOICE, log 111). -/
def State.dropRecord (s : State) : State :=
  if s.mgmt.current.isSome then { s.setField (hiBase + 0x008) 0 1 0 with mgmt := { s.mgmt with current := none } } else s

def execFlrFunction (fn : BitVec 8) (s : State) : Result := .next (if s.safety.safe || ! s.normal then s else s.flr fn.toNat)

def execFlrPf0 (s : State) : Result := .next (if s.safety.safe || ! s.normal then s else s.flrPf0)

/-- Hot reset or link disable: the link goes down, then every function takes an FLR. -/
def execHotReset (s : State) : Result :=
  .next (
    if s.safety.safe || ! s.normal then s
    else ((List.range 256).foldl (fun acc i => acc.flr (255 - i)) s.dropHost.dropRecord).flrPf0)

end Sys2Proof.Machine
end

