-- ==== Sys2Proof/Machine/Quiet.lean ====
section
/-! DEFINITION. The safe state (R486 to R489). -/

namespace Sys2Proof.Machine

open Sys2Proof

/-- A fix ends, and a scan with it (R507). -/
def State.endFix (s : State) (st : Status) : State :=
  let a := dbBase + 0x008
  let s1 := s.setReg a (s.reg a &&& ~~~ 0xE#64)
  if s1.dbg.scan.isSome then { s1.record dbBase st with dbg := { s1.dbg with scan := none } } else s1

/-- Islands that a fix stopped go on: with the credits that they withheld, and with what they missed (R506). -/
def State.resumeFix (s : State) (st : Status) : State := ((s.endFix st).giveWithheld).catchUp

/-- Enter the safe state (R486): lasers off and gates closed, link down, tiles held, fault land asserted; `BN_SAFE_CAUSE` takes
the cause, the lower code of two in one Binnacle cycle (R488). `PW_PREQ` falls for emergency-off alone (R489). -/
def State.enterSafe (s : State) (st : Status) : State :=
  let first := ! s.safety.safe
  let s1 := if first then (s.lightsOut.dropHost).endFix 0x6101 else s
  let x := s1.safety
  let code := if first then st else if x.since = s1.chron then (if st.toNat < x.entry.toNat then st else x.entry) else x.entry
  { s1.setField (bnBase + 0x208) 16 16 code.toNat with
    dbg := { s1.dbg with deferred := [] }
    safety := { x with
      safe := true
      causes := x.causes ++ [st]
      since := if first then s1.chron else x.since
      faultN := false
      entry := code
      preq := x.preq && st != 0xF004 } }

/-- Enter the safe state with its error record. -/
def State.quiet (s : State) (st : Status) (source unit : Nat) : State := (s.enterSafe st).log (packageFault st source unit 0)

end Sys2Proof.Machine
end

