-- ==== Sys2Proof/Machine/Power.lean ====
section
/-! DEFINITION. Operating points, the effective cap, the clamp, the thermal ladder and the limits between islands (R423 to
R427, R429, R433 to R441, R450 to R452). Powers are in units of 10 mW; the scale factor k is FP32, between 1/2 and 2, and
exact in units of `2^-24`. -/

namespace Sys2Proof.Machine

open Sys2Proof

/-! ### Operating points (Table 16-2) -/

def pick8 (xs : List Nat) (p : Nat) : Nat := xs.getD p 0

def pointMv (p : Nat) : Nat := pick8 [620, 650, 680, 710, 740, 770, 810, 850] p
def pointTypical (p : Nat) : Nat := pick8 [90, 135, 195, 265, 350, 450, 540, 650] p
def pointIdle (p : Nat) : Nat := pick8 [70, 80, 95, 110, 130, 155, 185, 220] p
def pointArith (p : Nat) : Nat := pick8 [550, 660, 770, 880, 990, 1100, 1210, 1320] p
def pointHelm (p : Nat) : Nat := pick8 [550, 1100, 1320, 1540, 1870, 2200, 2200, 2200] p
def pointRouter (p : Nat) : Nat := pick8 [550, 1000, 1200, 1400, 1700, 2000, 2000, 2000] p

/-- Two points may stand on the two sides of a crossing between tiles: 120 mV (R449). -/
def near120 (p q : Nat) : Bool := pointMv p ≤ pointMv q + 120 && pointMv q ≤ pointMv p + 120

/-- The highest point within 120 mV above a point. -/
def highestBeside (p : Nat) : Nat := ((List.range 8).filter fun q => pointMv q ≤ pointMv p + 120).foldl max 0

/-! ### Registers of the Sextant -/

def pwPoint : Nat := pwBase + 0x030
def pwFlags : Nat := pwBase + 0x038
def sxTemp (i : Nat) : Nat := sxBase + 0x500 + 8 * i

/-- The point of a watch, and the gate duty. -/
def State.watchPoint (s : State) (prefill : Bool) : Nat := bits (s.reg pwPoint) (if prefill then 8 else 0) 4
def State.watchDuty (s : State) (prefill : Bool) : Nat := bits (s.reg pwPoint) (if prefill then 24 else 16) 8

/-- Set a watch's point and duty; a change emits a packet (Table 19-8). -/
def State.setWatch (s : State) (prefill : Bool) (p d : Nat) : State :=
  if s.watchPoint prefill = p && s.watchDuty prefill = d then s
  else
    let s1 := s.setReg pwPoint (setBits (setBits (s.reg pwPoint) (if prefill then 8 else 0) 4 p) (if prefill then 24 else 16) 8 d)
    s1.emit ⟨0x07, none, none, none, none, 0, 0, b2n prefill * 65536 + p * 256 + d, 0⟩

/-- `PW_STATE`: commanded and current state. -/
def State.showPower (s : State) (commanded : Nat) : State :=
  s.setReg pwBase (pack [(4, commanded), (0, if s.power.trimmed then 3 else s.power.phase)])

def State.commanded (s : State) : Nat := bits (s.reg pwBase) 4 4

def State.isFixedFreq (s : State) : Bool := tst (s.reg (pwBase + 0x028)) 0

/-! ### Watches (R277, R424) -/

/-- Tiles of a watch. -/
def State.watchTiles (s : State) (prefill : Bool) : Nat :=
  let d := (List.range 6).foldl (fun n b => n + 2 * bits (s.reg (sxBase + 0x420)) (4 * b) 4 * [5, 5, 6, 6, 5, 5].getD b 0) 0
  if prefill then 640 - d else d

/-- k in units of `2^-24`. -/
def State.kScale (s : State) : Nat :=
  let c := (s.reg (sxBase + 0x030)).toNat % 2 ^ 32
  (2 ^ 23 + c % 2 ^ 23) * 2 ^ (c / 2 ^ 23 - 126)

def unitK : Nat := 2 ^ 24

/-- `64 * E` of R424 for the points of the two watches and a duty. -/
def State.estimate (s : State) (pd pp d : Nat) : Nat :=
  let nd := s.watchTiles false
  let np := s.watchTiles true
  let k := s.kScale
  64 * (70000 * unitK + k * (nd * pointIdle pd + np * pointIdle pp)) +
    d * (74000 * unitK + k * (nd * (pointTypical pd - pointIdle pd) + np * (pointTypical pp - pointIdle pp)))

/-- A power in W in the units of `64 * E`. -/
def wattE (w : Nat) : Nat := 64 * (w * 100 * unitK)

/-- The largest duty whose estimate fits a cap; the least is 1 (R433, R435). -/
def State.bestDuty (s : State) (pd pp cap : Nat) : Nat :=
  (((List.range 64).map fun i => 64 - i).find? fun d => s.estimate pd pp d ≤ wattE cap).getD 1

/-- The highest point whose full-activity estimate fits a cap; the least is 0 (R434). -/
def State.targetPoint (s : State) (cap : Nat) : Nat :=
  (((List.range 8).map fun i => 7 - i).find? fun p => s.estimate p p 64 ≤ wattE cap).getD 0

/-! ### Caps (R426, R427) -/

def floorCap : Nat := 1200
def topCap : Nat := 5600
def safeCap : Nat := 3360
def fixedCap : Nat := 4400

def State.hostCap (s : State) : Nat := bits (s.reg (pwBase + 0x018)) 0 16

/-- The effective cap: the lower of host and rack cap, at least 1,200 W. -/
def State.effCap (s : State) : Nat := max floorCap (min s.hostCap s.power.rackCap)

/-- Record a status of power control. -/
def State.pwRecord (s : State) (st : Status) : State := s.record pwBase st

/-- `PW_FLAGS[0]` and the statuses of a cap below 1,200 W. -/
def State.capUnmet (s : State) : State := (s.pwRecord 0x9001).orReg pwFlags 1

/-- The flag of a low cap clears once none stands. -/
def State.capMet (s : State) : State :=
  if s.power.lowHost || s.power.lowRack then s else s.setField pwFlags 0 1 0

def execPwCapWrite (w : Wr) (s : State) : Result :=
  .next (s.write (pwBase + 0x018) w fun s v m =>
    if m &&& 0xFFFF#64 = 0 then s
    else
      let cap := bits (merge (s.reg (pwBase + 0x018)) v m) 0 16
      if topCap < cap then s.record pwBase rejected
      else if s.isFixedFreq && cap < fixedCap then s.pwRecord 0x2131
      else
        let s1 := { s.setReg (pwBase + 0x018) (BitVec.ofNat 64 (max floorCap cap)) with power := { s.power with lowHost := decide (cap < floorCap) } }
        if cap < floorCap then s1.capUnmet else s1.capMet)

/-- Fixed-frequency mode ends (R437). -/
def State.endFixed (s : State) : State :=
  if s.isFixedFreq then ((s.setField (pwBase + 0x028) 0 1 0).pwRecord 0x9002).orReg pwFlags 2 else s

/-- A new rack cap. -/
def State.setRack (s : State) (cap : Nat) : State :=
  let s1 := { s.setField (sxBase + 0x018) 16 16 cap with power := { s.power with rackCap := cap } }
  if cap < fixedCap then s1.endFixed else s1

/-- FIXED holds every tile at point 5; it is refused while the effective cap is below 4,400 W (R436). NOBOOST is plain. -/
def execPwCtrlWrite (w : Wr) (s : State) : Result :=
  .next (s.write (pwBase + 0x028) w fun s v m =>
    let a := pwBase + 0x028
    let new := merge (s.reg a) v m
    if m &&& 3#64 = 0 then s
    else if tst new 0 && ! s.isFixedFreq && s.effCap < fixedCap then (s.setField a 1 1 (bits new 1 1)).pwRecord 0x2131
    else
      let s1 := s.setReg a (new &&& 3#64)
      if tst new 0 then (s1.setWatch false 5 (s1.watchDuty false)).setWatch true 5 (s1.watchDuty true) else s1)

/-! ### The thermal state of dies (R440) -/

/-- Last temperature and ceiling of a die. -/
def State.tempOf (s : State) (i : Nat) : Int := ((s.reg (sxTemp i)).extractLsb' 0 16).toInt
def State.ceiling (s : State) (i : Nat) : Nat := bits (s.reg (sxTemp i)) 16 4
def State.setCeiling (s : State) (i p : Nat) : State := s.setField (sxTemp i) 16 4 p

/-- Degrees in units of 1/16. -/
def deg (n : Int) : Int := 16 * n

/-- The tiles that a die's ceiling bounds: its own; the attachment tiles of a stack's band (dies 80 to 91) or of a port (92 to
99), numbered in the order of Table 1-1 (DEDUCED, log 70). -/
def onDie (i t : Nat) : Bool :=
  let col := t % 20
  let row := t / 20
  if i < 80 then dieOf t = i
  else if i < 92 then (col = if i < 86 then 0 else 19) && bandOfRow row = (i - 80) % 6
  else (row = if (i - 92) % 2 = 0 then 31 else 0) && col / 5 = (i - 92) / 2

/-- The lowest ceiling that bounds a tile. -/
def State.tileCeiling (s : State) (t : Nat) : Nat :=
  ((List.range 20).filter fun i => onDie (80 + i) t).foldl (fun n i => min n (s.ceiling (80 + i))) (s.ceiling (dieOf t))

/-- Two dies that a seam bridge or an attachment joins (R449). -/
def joined (i j : Nat) : Bool :=
  if i < 80 then
    if j < 80 then (i / 10 = j / 10 && (i + 1 = j || j + 1 = i)) || (i + 10 = j || j + 10 = i)
    else (List.range 640).any fun t => dieOf t = i && onDie j t
  else j < 80 && (List.range 640).any fun t => dieOf t = j && onDie i t

/-- A die is hotter than one that it is joined to by more than a number of degrees. -/
def State.hotterBy (s : State) (i : Nat) (n : Int) : Bool :=
  (List.range 100).any fun j => joined i j && s.tempOf j + deg n < s.tempOf i

/-- A die is held one step lower: its ceiling, and at point 0 its gate duty (Table 16-4). -/
def State.lowerDie (s : State) (i : Nat) : State :=
  if s.ceiling i = 0 then
    let d := FMap.get 64 s.power.duty i
    { s with power := { s.power with duty := FMap.put 64 s.power.duty i (max 1 (d - 8)) } }
  else s.setCeiling i (s.ceiling i - 1)

/-- A die is released one step: its gate opens, and its ceiling rises (DEDUCED, log 71). -/
def State.raiseDie (s : State) (i : Nat) : State :=
  { s.setCeiling i (min 7 (s.ceiling i + 1)) with power := { s.power with duty := FMap.put 64 s.power.duty i 64 } }

/-- The package enters Trimmed. -/
def State.enterTrimmed (s : State) : State :=
  if s.power.trimmed then s
  else
    let s1 := { s with power := { s.power with trimmed := true, cool := none } }
    (((s1.showPower s1.commanded).pwRecord 0x9004).orReg pwFlags 16).count (sxBase + 0x310) 1

/-- Every 10 µs: the sensors, the hottest, the throttle interval, Trimmed. -/
def execThermalSample (temps : List (BitVec 16)) (s : State) : Result :=
  if temps.length != 100 then .refused .illFormed
  else .next (
    if ! s.sextant || ! s.due 6 10000 then s
    else
      let s1 := (temps.zipIdx).foldl (fun acc p => acc.setField (sxTemp p.2) 0 16 p.1.toNat) (s.acted 6)
      let top := (temps.zipIdx).foldl (fun (best : BitVec 16 × Nat) p => if best.1.slt p.1 then p else best) (temps.getD 0 0, 0)
      let s2 := s1.setReg (sxBase + 0x008) (pack [(16, top.2), (0, top.1.toNat)])
      let hot := temps.any fun x => decide (deg 95 ≤ x.toInt)
      let s3 := if hot && ! s2.power.throttled then s2.count (sxBase + 0x300) 1 else s2
      let cool := temps.all fun x => decide (x.toInt ≤ deg 95)
      let s4 := { s3 with power := { s3.power with
        throttled := hot
        cool := if s3.power.trimmed && cool then (match s3.power.cool with | some a => some a | none => some s3.chron) else none } }
      if temps.any fun x => decide (deg 105 ≤ x.toInt) then s4.enterTrimmed else s4)

/-- Every 100 µs: dies at or above 95 °C. -/
def execThrottleStep (s : State) : Result :=
  .next (
    if ! s.sextant || ! s.due 7 100000 then s
    else (List.range 100).foldl (fun acc i => if decide (deg 95 ≤ s.tempOf i) then acc.lowerDie i else acc) (s.acted 7))

/-- Every 10 ms: dies at or below 92 °C, and those that R451 held once the difference is 36 °C or less. -/
def execThrottleRelease (s : State) : Result :=
  .next (
    if ! s.sextant || ! s.due 8 10000000 then s
    else
      let s1 := s.acted 8
      let s2 := { s1 with power := { s1.power with clamped := s1.power.clamped.filter fun i => s1.hotterBy i 36 } }
      (List.range 100).foldl (fun acc i =>
        if s2.power.trimmed || s2.power.clamped.contains i || decide (deg 92 < s2.tempOf i) then acc else acc.raiseDie i) s2)

/-- Every 100 µs: the hotter of two joined dies that differ by more than 40 °C (R451). -/
def execIslandTempClamp (s : State) : Result :=
  .next (
    if ! s.sextant || ! s.due 9 100000 then s
    else (List.range 100).foldl (fun acc i =>
      if s.hotterBy i 40 then
        let s1 := acc.lowerDie i
        if s1.power.clamped.contains i then s1 else { s1 with power := { s1.power with clamped := s1.power.clamped ++ [i] } }
      else acc) (s.acted 9))

/-- The hard trip: the trip land asserts until power is removed (R441). -/
def execThermalTrip (s : State) : Result :=
  .next (if s.powered then { s with safety := { s.safety with tripN := false } }.quiet 0xF003 12 0 else s)

/-- The package is in reset: one of its reset lands is low (R523). -/
def State.inReset (s : State) : Bool := s.start.resetLow || s.start.perstLow

/-- A power-good land falls: after reset release a supply fault (R442), in reset a level that keeps the islands held (R522). -/
def execSupplyFault (rail : Fin 16) (s : State) : Result :=
  .next (
    if ! s.powered then s
    else
      let s1 := { s with safety := { s.safety with pg := s.safety.pg &&& ~~~ BitVec.ofNat 16 (2 ^ rail.val) } }
      if s.inReset then s1 else s1.quiet 0xF001 11 rail)

/-! ### The Sextant's cycle (R424 to R426, R430, R433, R450) -/

/-- A power of 16 bits; a value beyond them is not stated (log 3). -/
def State.field16 (s : State) (x : Nat) : Nat × State :=
  if x < 65536 then (x, s) else let d := s.draw; (d.1.toNat % 65536, d.2)

/-- The tile estimate: between every tile idle and every tile fully active, at the tiles' points; the activity is a free value
(log 3). -/
def State.tileEstimate (s : State) : Nat × State :=
  let lo := (allTiles.map fun t => pointIdle (s.tile t).upkeep.point).sum
  let hi := (allTiles.map fun t => pointTypical (s.tile t).upkeep.point).sum
  let d := s.draw
  (lo + d.1.toNat % (hi - lo + 1), d.2)

/-- A rail is lost. -/
def State.railLost (s : State) : Bool := (List.range 16).any fun j => tst (s.reg (sxBase + 0x180 + 8 * j)) 63

/-- The fast estimate, in units of `2^-24` of 1 mW, and its field. -/
def State.fastEstimate (s : State) (tiles : Nat) : Nat :=
  let e := s.kScale * tiles + bits (s.reg sxBase) 16 16 * 100 * unitK
  if s.railLost then 11 * e else 10 * e

/-- The point that a tile should run at: of its watch, its die, and each neighbour (R450); a tile in its self-test stays at point 0 (R461).
Point 4 lets every point stand beside it, so one pass over the neighbours is enough. -/
def State.basePoint (s : State) (t : Nat) : Nat :=
  if s.power.trimmed || s.start.tileReset = some t then 0 else min (s.watchPoint (! s.inDecode t)) (s.tileCeiling t)

def State.effPoint (s : State) (t : Nat) : Nat :=
  (List.range 4).foldl (fun n p => match neighbour t p with
    | some u => min n (highestBeside (s.basePoint u))
    | none => n) (s.basePoint t)

/-- A die that R451 holds bounds a tile below its watch's point. -/
def State.clampedBelow (s : State) (i : Nat) : Bool :=
  allTiles.any fun t => onDie i t && s.ceiling i < s.watchPoint (! s.inDecode t)

/-- Give every tile its point to reach; count the clamps of neighbouring islands: R450 holds a tile below its watch's point and its die's
ceiling, or R451 holds one below its watch's point by its die (DEDUCED, log 70). -/
def State.placeTiles (s : State) : State :=
  let ps := allTiles.map fun t => (t, s.effPoint t)
  let clamp := s.power.clamped.any s.clampedBelow || ps.any fun p => p.2 < s.basePoint p.1
  let s1 := if clamp && ! s.power.island then s.count (sxBase + 0x340) 1 else s
  ps.foldl (fun acc p => acc.onUpkeep p.1 fun u => { u with wanted := p.2 }) { s1 with power := { s1.power with island := clamp } }

def State.clampActs (s : State) : Bool := tst (s.reg pwFlags) 5

/-- Set both gate duties. -/
def State.setDuty (s : State) (d : Nat) : State := (s.setWatch false (s.watchPoint false) d).setWatch true (s.watchPoint true) d

/-- Fixed-frequency mode holds both watches at point 5 (R436); what the clamp took from them (R434) ends with it (DESIGN CHOICE, log 77). -/
def State.holdFixed (s : State) : State :=
  if s.isFixedFreq && ! s.clampActs then (s.setWatch false 5 (s.watchDuty false)).setWatch true 5 (s.watchDuty true) else s

/-- The clamp of R433: it acts from when the fast estimate exceeds the cap until its duty is 64. -/
def State.clamp (s : State) (above : Bool) : State :=
  let d := s.bestDuty (s.watchPoint false) (s.watchPoint true) s.effCap
  let on := (above || s.clampActs) && d < 64
  let s1 := if on && ! s.clampActs then s.count (sxBase + 0x320) 1 else s
  ((s1.setField pwFlags 5 1 (b2n on)).setDuty (if s.power.trimmed then 1 else if on then d else 64)).holdFixed

/-- What remains of the lease, in units of 10 ms (Table 16-8). -/
def State.showLease (s : State) : State :=
  let left := match s.power.lease with
    | some a => (30000000000 - min 30000000000 (s.chron - a).toNat + 9999999) / 10000000
    | none => 0
  (s.setField (sxBase + 0x018) 1 12 left).setField (sxBase + 0x018) 0 1 (b2n s.power.lease.isSome)

def execSextantCycle (s : State) : Result :=
  .next (
    if ! s.sextant || ! s.due 0 1000 then s
    else
      let s1 := (s.acted 0).setReg (pwBase + 0x020) (pack [(32, s.power.rackCap), (16, s.hostCap), (0, s.effCap)])
      let e := s1.tileEstimate
      let s2 := { e.2 with power := { e.2.power with estSum := e.2.power.estSum + e.1, estN := e.2.power.estN + 1 } }
      let fast := s2.fastEstimate e.1
      let f := s2.field16 (fast / (1000 * unitK))
      let s3 := (f.2.setField sxBase 32 16 f.1).clamp (decide (10 * (s2.effCap * 100 * unitK) < fast))
      let s4 := if s3.clampActs then s3.count (sxBase + 0x328) 1 else s3
      let s5 := if s4.power.throttled then s4.count (sxBase + 0x308) 1 else s4
      let s6 := if s5.power.trimmed then s5.count (sxBase + 0x318) 1 else s5
      s6.showLease.placeTiles)

/-- While the clamp acts, every 20 µs each watch above the target falls one point (R434). -/
def execClampPointStep (s : State) : Result :=
  .next (
    if ! s.sextant || ! s.clampActs || ! s.due 1 20000 then s
    else
      let q := s.targetPoint s.effCap
      let step := fun (acc : State) (w : Bool) =>
        if q < acc.watchPoint w then acc.setWatch w (acc.watchPoint w - 1) (acc.watchDuty w) else acc
      (step (step (s.acted 1) false) true).clamp false)

/-- A tile's point has moved by one step: a rise or a fall waits until every neighbour is within 120 mV of the target
(R449, R452). -/
def execPointChangeDone (t : Tile) (s : State) : Result :=
  .next (
    let u := (s.tile t).upkeep
    if ! s.moving || u.point = u.wanted then s
    else
      let q := if u.point < u.wanted then u.point + 1 else u.point - 1
      if (List.range 4).any fun p => match neighbour t p with
          | some n => ! near120 q (s.tile n).upkeep.point
          | none => false
      then s
      else s.onUpkeep t fun u => { u with point := q })

/-- `TL_ISLAND`: the clocks of a tile in MHz, none while they are stopped but for a fix; a droop halves two of them (R439). -/
def State.islandWord (s : State) (t : Nat) : Word :=
  let p := (s.tile t).upkeep.point
  let by_ := if (FMap.find? s.power.droops (dieOf t)).isSome then 2 else 1
  if s.safety.safe || ! s.running || ! (s.normal || s.start.boot = .warmFlush) then 0
  else pack [(32, pointRouter p), (16, pointHelm p / by_), (0, pointArith p / by_)]

/-! ### Droop (R439) -/

def execDroopEvent (die : Fin 100) (mv : BitVec 16) (s : State) : Result :=
  .next (
    if ! s.sextant || bits (s.reg (pwBase + 0x040)) 0 8 ≥ mv.toNat || 80 ≤ die.val then s
    else
      { s with power := { s.power with droops := FMap.insert s.power.droops die s.marks.ran } }.count (pwBase + 0x048) 1)

/-- 256 cycles of the halved arithmetic clock have passed in so many nanoseconds, on the fastest tile of a die (DESIGN CHOICE, log 122). -/
def State.droopPast (s : State) (die ns : Nat) : Bool :=
  256 * 2000 ≤ ns * ((allTiles.filter fun t => dieOf t = die).map fun t => pointArith (s.tile t).upkeep.point).foldl max 0

/-- A die's clocks are whole again after 256 cycles without a droop. -/
def execDroopRestore (die : Fin 100) (s : State) : Result :=
  .next (match FMap.find? s.power.droops die with
    | some a =>
      if s.sextant && s.droopPast die (s.marks.ran - a).toNat then { s with power := { s.power with droops := FMap.erase s.power.droops die } } else s
    | none => s)

/-! ### Counters -/

def execPwCntClear (w : Wr) (s : State) : Result := .next (s.trigger1 (pwBase + 0x0F8) w fun s => s.clearRegs [pwBase + 0x048])

def execSxCntClear (w : Wr) (s : State) : Result := .next (s.trigger1 (sxBase + 0x3F8) w fun s => s.clearRegs (span (sxBase + 0x300) 9))

end Sys2Proof.Machine
end

