-- ==== Sys2Proof/Machine/Caps.lean ====
section
/-! DEFINITION. Power states (R420 to R422), the rack lease (R428, R429), measurement (R430, R431, R529), sharing of the cap
between the watches (R432), the end of Trimmed (R440). -/

namespace Sys2Proof.Machine

open Sys2Proof

/-! ### Power states (R421) -/

/-- A write of `PW_CMD` with one of its commands; the encoding `0b00` is rejected by every row of the register. -/
def State.powerCommand (s : State) (w : Wr) (code : Nat) (k : State → State) : State :=
  s.write (pwBase + 0x008) w fun s v _ =>
    if bits v 0 2 = 0 then s.record pwBase rejected
    else if bits v 0 2 != code then s
    else if s.power.phase = 4 || s.power.phase = 5 then s.pwRecord 0x4130
    else k s

/-- A step is in flight, a chart load runs, or a fix is in force (R421, R507). -/
def State.stowBusy (s : State) : Bool :=
  s.ctxs.any (fun p => p.2.steps.any Step.inFlight) || ! s.mgmt.loads.isEmpty || bits (s.reg (dbBase + 0x008)) 1 2 != 0

/-- A transition begins or ends: the phase, `PW_STATE`, `PW_STATUS[0]`; the last status stands until it ends with OK. -/
def State.setPhase (s : State) (phase commanded : Nat) : State :=
  let s1 := { s with power := { s.power with phase := phase } }
  let s2 := s1.showPower commanded
  if phase = 4 || phase = 5 then s2.setField (pwBase + 0x010) 0 1 1 else s2.setReg (pwBase + 0x010) 0

/-- Hold every tile; the tiles that were held already are remembered. -/
def State.holdTiles (s : State) : State :=
  let held := allTiles.filter fun t => tst (s.treg t 0x008) 0
  let s1 := { s with power := { s.power with held := held } }
  allTiles.foldl (fun acc t => acc.orReg (tileBase t + 0x008) 1) s1

/-- Release the tiles that a STOW held. -/
def State.freeTiles (s : State) : State :=
  allTiles.foldl (fun acc t => if s.power.held.contains t then acc else acc.setField (tileBase t + 0x008) 0 1 0) s

/-- STOW from Running: HOLD on every tile, every light port Off; sweeping, tile clocks and memory stop with the phase. In Stowed it takes
back a RUN that waits for the end of Trimmed. -/
def execStow (w : Wr) (s : State) : Result :=
  .next (s.powerCommand w 2 fun s =>
    if s.power.phase = 2 then (s.showPower 2).pwRecord 0
    else if s.stowBusy then s.pwRecord 0x4130
    else (s.setPhase 4 2).holdTiles.refreshPorts)

/-- RUN from Stowed; while Trimmed it is the commanded state until Trimmed ends. -/
def execRun (w : Wr) (s : State) : Result :=
  .next (s.powerCommand w 1 fun s =>
    if s.power.phase = 1 then s.pwRecord 0
    else if s.power.trimmed then (s.showPower 1).pwRecord 0
    else s.setPhase 5 1)

/-- Every context is swept at 2 µs again. -/
def State.resweep (s : State) : State :=
  (s.ctxs.map (·.1)).foldl (fun acc c => acc.onCtx c fun x => { x with ring := { x.ring with interval := 2, unchanged := 0 } }) s

/-- Stowed is reached, or left: tiles are released, sweeping restarts, ports negotiate. -/
def execPowerTransitionDone (s : State) : Result :=
  .next (
    if ! s.sextant then s
    else if s.power.phase = 4 then s.setPhase 2 2
    else if s.power.phase = 5 then ((s.setPhase 1 1).freeTiles.resweep).refreshPorts
    else s)

/-- OFF: caches are written back, then the power request falls. Nothing in the package listens any more. -/
def execOff (w : Wr) (s : State) : Result :=
  .next (s.powerCommand w 3 fun s =>
    if s.stowBusy then s.pwRecord 0x4130
    else
      let s1 := s.flushCaches.lightsOut.dropHost
      { s1 with start := { s1.start with boot := .off }, safety := { s1.safety with preq := false } })

/-- After 1 s with every sensor at or below 95 °C the commanded state resumes, with every ceiling at point 0. -/
def execTrimmedExit (s : State) : Result :=
  .next (
    match s.power.cool with
    | some a =>
      if ! s.sextant || ! s.power.trimmed || (s.chron - a).toNat < 1000000000 then s
      else
        let c := s.commanded
        let s1 := { s with power := { s.power with trimmed := false, cool := none } }
        let s2 := (List.range 100).foldl (fun acc i => acc.setCeiling i 0) s1
        if c = 1 && s2.power.phase = 2 then s2.setPhase 5 1 else s2.showPower c
    | none => s)

/-! ### The rack lease (R428, R429) -/

def sxRmCfg : Nat := sxBase + 0x010
def sxRmState : Nat := sxBase + 0x018

/-- The Sextant serves the lease, in a fix too (R505); in Stowed the Near tier is in self-refresh. -/
def State.rackRuns (s : State) : Bool := s.sextant && tst (s.reg sxRmCfg) 63 && s.running

/-- Address of the request line. -/
def State.rackLine (s : State) : Nat := bits (s.reg sxRmCfg) 0 48

/-- The lease restarts with a cap. -/
def State.renew (s : State) (cap : Nat) (low : Bool) : State :=
  let s1 := s.setRack cap
  let s2 := { s1 with power := { s1.power with lease := some s1.chron, rackSeen := true, lowRack := low } }.showLease
  if low then s2.capUnmet else s2.capMet

/-- Accept or refuse a new line (Table 16-3). -/
def State.takeRackLine (s : State) (ws : List Word) : State :=
  let seq := bits (ws.getD 0 0) 0 32
  let cap := bits (ws.getD 1 0) 0 16
  let last := bits (s.reg sxRmState) 32 32
  let ahead := (seq + 2 ^ 32 - last) % 2 ^ 32
  if ahead = 0 || 2 ^ 31 ≤ ahead then s
  else
    let s1 := s.setField sxRmState 32 32 seq
    let plain := bits (ws.getD 0 0) 32 32 = 0 && bits (ws.getD 1 0) 16 48 = 0 && (List.range 6).all fun i => ws.getD (2 + i) 0 = 0
    if ! plain || topCap < cap then (s1.pwRecord 0x2132).count (sxBase + 0x338) 1
    else if cap < floorCap then s1.renew floorCap true
    else s1.renew cap false

/-- Every 5 µs the request line is read. -/
def execRackLineRead (s : State) : Result :=
  .next (
    if ! s.rackRuns || ! s.due 2 5000 || tierOf s.rackLine != .near then s
    else match (s.acted 2).readPart 0xFFF true ⟨.pa s.rackLine, 64, none, 0, 0⟩ with
      | (s1, .ok bs) => s1.takeRackLine (wordsOf 8 bs)
      | (s1, .error _) => s1)

/-- Every 1 ms the status line is written at the request line + 64. -/
def execRackStatusWrite (s : State) : Result :=
  .next (
    let a := s.rackLine + 64
    if ! s.rackRuns || ! s.due 3 1000000 || tierOf a != .near then s
    else
      let n := fun x => BitVec.ofNat 64 x
      (s.acted 3).writeLine a
        [ n (bits (s.reg sxRmState) 32 32), n s.effCap, n (bits (s.reg sxBase) 0 16), n (bits (s.reg pwFlags) 0 6), s.chron, 0, 0, 0 ])

/-- 30 s. -/
def leaseTime : Nat := 30000000000

def execCapLeaseExpired (s : State) : Result :=
  .next (
    match s.power.lease with
    | some a =>
      if ! s.sextant || ! tst (s.reg sxRmCfg) 63 || (s.chron - a).toNat < leaseTime then s
      else
        let s1 := { s with power := { s.power with lease := none, lowRack := false } }
        ((((s1.setRack safeCap).pwRecord 0x9003).orReg pwFlags 4).count (sxBase + 0x330) 1).capMet.showLease
    | none => s)

/-- The enable of `SX_RM_CFG` changes: with it set and no line yet accepted the rack cap is the safe cap; with it clear it is
5,600 W (R429). -/
def State.rackEnable (s : State) (on : Bool) : State :=
  let s1 := { s with power := { s.power with lease := none, rackSeen := false, lowRack := false } }
  ((s1.setRack (if on then safeCap else topCap)).capMet).showLease

/-! ### Measurement (R430, R431, R529) -/

def sxRail (j : Nat) : Nat := sxBase + 0x100 + 8 * j
def sxRailPwr (j : Nat) : Nat := sxBase + 0x180 + 8 * j

/-- A rail answers. -/
def State.railAnswers (s : State) (j : Nat) (mv watts : BitVec 16) : State :=
  let s1 := { s with power := { s.power with missed := FMap.put 0 s.power.missed j 0 } }
  s1.setReg (sxRailPwr j) (pack [(16, mv.toNat), (0, watts.toNat)])

/-- A rail does not answer; the third time in a row it is lost. -/
def State.railMisses (s : State) (j : Nat) : State :=
  let n := FMap.get 0 s.power.missed j + 1
  let s1 := { s with power := { s.power with missed := FMap.put 0 s.power.missed j n } }
  if n < 3 || tst (s1.reg (sxRailPwr j)) 63 then s1
  else ((s1.setField (sxRailPwr j) 63 1 1).pwRecord 0x9005).orReg pwFlags 8

/-- Output power of the valid rails, or of those marked as tile rails. -/
def State.railSum (s : State) (tiles : Bool) : Nat :=
  (List.range 16).foldl (fun n j =>
    let v := s.reg (sxRail j)
    if tst v 63 && (! tiles || tst v 62) then n + bits (s.reg (sxRailPwr j)) 0 16 else n) 0

/-- The scale factor of the last millisecond: measured over estimated tile power, from 0.5 to 2.0, to FP32. -/
def kCode (tileWatts estSum estN : Nat) : BitVec 32 :=
  let num := tileWatts * 100 * estN
  if 2 * num ≤ estSum then 0x3F000000#32
  else if 2 * estSum ≤ num then 0x40000000#32
  else codeF32 (Enc.fp32.div .rne (Num.ofInt num) (Num.ofInt estSum))

/-- Every 1 ms every valid rail is read; the sums and k follow. A lost rail freezes k. -/
def execPmbusRead (rails : List (Option (BitVec 16 × BitVec 16))) (s : State) : Result :=
  if rails.length != 16 then .refused .illFormed
  else .next (
    if ! s.sextant || ! s.due 4 1000000 then s
    else
      let s1 := (rails.zipIdx).foldl (fun acc p =>
        if ! tst (acc.reg (sxRail p.2)) 63 then acc
        else match p.1 with
          | some v => acc.railAnswers p.2 v.1 v.2
          | none => acc.railMisses p.2) (s.acted 4)
      let all := s1.field16 (s1.railSum false)
      let rest := all.2.field16 (s1.railSum false - s1.railSum true)
      let s2 := (rest.2.setField sxBase 0 16 all.1).setField sxBase 16 16 rest.1
      let s3 := if s2.railLost || s2.power.estN = 0 then s2
        else s2.setReg (sxBase + 0x030) ((kCode (s1.railSum true) s2.power.estSum s2.power.estN).setWidth 64)
      { s3 with power := { s3.power with estSum := 0, estN := 0 } })

/-- A regulator's alert is read at once; a reported fault is a supply fault (R442). -/
def execPmbusAlert (rail : Fin 16) (mv watts : BitVec 16) (fault : Bool) (s : State) : Result :=
  .next (
    if ! s.sextant || ! tst (s.reg (sxRail rail)) 63 then s
    else
      let s1 := s.railAnswers rail mv watts
      if fault then s1.quiet 0xF001 11 rail else s1)

/-! ### Sharing the cap (R432) -/

/-- Full-activity estimate of a watch at a point, in units of `2^-24` of 10 mW. -/
def State.watchEstimate (s : State) (prefill : Bool) (p : Nat) : Nat := s.kScale * (s.watchTiles prefill * pointTypical p)

/-- Busy cycles that a tile has counted, in all (`TL_CNT_ME_BUSY` and `TL_CNT_VEC_BUSY`). -/
def State.busyCount (s : State) (t : Nat) : Nat := bits (s.treg t 0x300) 0 48 + bits (s.treg t 0x310) 0 48

/-- Busy cycles of a watch's tiles in this period of 1 ms, per second. -/
def State.busyRate (s : State) (prefill : Bool) : Nat :=
  1000 * ((allTiles.filter fun t => s.inDecode t != prefill).map fun t => countedSince s.marks.busy t (s.busyCount t)).sum

/-- The gain after a change of point. A change of estimate of zero leaves the quotient open. -/
def State.newGain (s : State) (w : WatchPower) (r e : Nat) : BitVec 32 × State :=
  if e = w.e then (let d := s.draw; (d.1.setWidth 32, d.2))
  else
    let slope := codeF32 (Enc.fp32.div .rne (Num.ofInt (((r : Int) - w.r) * (100 * unitK))) (Num.ofInt ((e : Int) - w.e)))
    (vAdd w.g (vMul (vSub slope w.g) 0x3E000000#32), s)

/-- One watch's measurements of the period. The first period has no earlier one to compare with (DEDUCED, log 109). -/
def State.measure (s : State) (prefill : Bool) (w : WatchPower) : WatchPower × State :=
  let r := s.busyRate prefill
  let p := s.watchPoint prefill
  let e := s.watchEstimate prefill p
  let g := if w.e != 0 && p != w.point then s.newGain w r e else (w.g, s)
  (⟨g.1, r, e, p⟩, g.2)

/-- Some tile of a watch may run above a point. -/
def State.headroom (s : State) (prefill : Bool) (p : Nat) : Bool :=
  allTiles.any fun t => s.inDecode t != prefill && p < s.tileCeiling t

/-- A watch may rise by one point: boost, ceilings, R425, the cap. -/
def State.mayRise (s : State) (prefill : Bool) : Bool :=
  let p := s.watchPoint prefill
  let q := s.watchPoint (! prefill)
  let top := if tst (s.reg (pwBase + 0x028)) 1 then 5 else 7
  p < top && s.headroom prefill p && near120 (p + 1) q &&
    s.watchEstimate prefill (p + 1) + s.watchEstimate (! prefill) q + bits (s.reg sxBase) 16 16 * 100 * unitK ≤ s.effCap * 100 * unitK

/-- A watch may fall by one point. -/
def State.mayFall (s : State) (prefill : Bool) : Bool :=
  let p := s.watchPoint prefill
  0 < p && near120 (p - 1) (s.watchPoint (! prefill))

def State.moveWatch (s : State) (prefill : Bool) (p : Nat) : State := s.setWatch prefill p (s.watchDuty prefill)

/-- The two watches exceed what the cap leaves them. -/
def State.overShare (s : State) : Bool :=
  s.effCap * 100 * unitK <
    s.watchEstimate false (s.watchPoint false) + s.watchEstimate true (s.watchPoint true) + bits (s.reg sxBase) 16 16 * 100 * unitK

/-- The rule with SHARE set: the watch of smaller gain falls (tie: prefill), or that of larger gain rises (tie: decode). Where R425 or a
ceiling forbids that watch's change, the other moves (DESIGN CHOICE, log 109). -/
def State.shareStep (s : State) (gd gp : BitVec 32) : State :=
  let first := Num.below (f32 gd) (f32 gp)
  if s.overShare then
    let w := ! first
    if s.mayFall w then s.moveWatch w (s.watchPoint w - 1)
    else if s.mayFall (! w) then s.moveWatch (! w) (s.watchPoint (! w) - 1)
    else s
  else
    let w := first
    if s.mayRise w then s.moveWatch w (s.watchPoint w + 1)
    else if s.mayRise (! w) then s.moveWatch (! w) (s.watchPoint (! w) + 1)
    else s

/-- The rule with SHARE clear: both watches move together, by their sum, as R425 allows; ceilings bound the rise of each. -/
def State.jointStep (s : State) : State :=
  let d := s.watchPoint false
  let p := s.watchPoint true
  let top := if tst (s.reg (pwBase + 0x028)) 1 then 5 else 7
  if s.overShare then (if near120 (d - 1) (p - 1) then (s.moveWatch false (d - 1)).moveWatch true (p - 1) else s)
  else if d < top && p < top && s.headroom false d && s.headroom true p && near120 (d + 1) (p + 1) &&
      s.watchEstimate false (d + 1) + s.watchEstimate true (p + 1) + bits (s.reg sxBase) 16 16 * 100 * unitK ≤ s.effCap * 100 * unitK then
    (s.moveWatch false (d + 1)).moveWatch true (p + 1)
  else s

/-- Once per millisecond from FULL, outside fixed-frequency mode (R432, R468). -/
def execCapShare (s : State) : Result :=
  .next (
    if ! s.sextant || s.stage != 6 || s.isFixedFreq || ! s.due 5 1000000 then s
    else
      let d := (s.acted 5).measure false s.power.decode
      let p := d.2.measure true s.power.prefill
      let s1 := { p.2 with power := { p.2.power with decode := d.1, prefill := p.1 }, marks := { p.2.marks with busy := marksOf s.busyCount } }
      let s2 := s1.setReg (sxBase + 0x028) (pack [(32, p.1.g.toNat), (0, d.1.g.toNat)])
      if tst (s2.reg (sxBase + 0x020)) 0 then s2.shareStep d.1.g p.1.g else s2.jointStep)

end Sys2Proof.Machine
end

