-- ==== Sys2Proof/Machine/Start.lean ====
section
/-! DEFINITION. Resets and staged start (R322, R420, R453 to R473, R494, R522, R523). -/

namespace Sys2Proof.Machine

open Sys2Proof

/-! ### The package reset (R455) -/

/-- Straps are sampled into `LP_STRAP`, and into `LP_COORD` and `LP_NODE` when their parity is good (R322). -/
def State.sampleStraps (s : State) (v : BitVec 8) : State :=
  let odd := (List.range 8).countP (fun i => v.getLsbD i) % 2 = 1
  let s1 := s.setReg lpBase (pack [(8, b2n odd), (0, v.toNat)])
  if odd then
    (s1.setReg (lpBase + 0x008) (BitVec.ofNat 64 (128 + v.toNat % 128))).setReg (lpBase + 0x010)
      (BitVec.ofNat 64 (v.toNat / 16 % 8 * 16 + v.toNat / 4 % 4 * 4 + v.toNat % 4))
  else (s1.record lpBase 0xB080).logIf (packageFault 0xB080 10 0 0)

/-- `BN_SAFE_CAUSE` after a reset: the status of the last entry into the safe state, the lower code of two that arose at once (R488, R500). -/
def State.lastCause (s : State) : Nat := s.safety.entry.toNat

/-- The memories after a reset: kept, or lost; far nodes and the host keep theirs. -/
def Memory.afterReset (m : Memory) (keep : Bool) : Memory :=
  if keep then { m with cache := [], lines := [], job := none, inval := [] } else { Memory.empty with far := m.far, host := m.host }

/-- Every block at its reset state. What stays: fuses, the error ring and retained area, the Sextant's latch, the lands'
levels, the test port, what has left the package, and memory under KEEP (R455, R458, R485, R494). -/
def State.blank (s : State) (keepMem : Bool) : State :=
  let x := s.safety
  { chron := s.chron, free := s.free, regs := [], marks := .empty, mem := s.mem.afterReset keepMem,
    tiles := [], ctxs := [], mail := .empty, mgmt := .empty, light := { Light.empty with answers := s.light.answers }, tables := .empty,
    sec := { Secure.empty with fused := s.sec.fused, fusedB := s.sec.fusedB }, power := .empty, start := s.start,
    safety := { Safety.reset with
      safe := x.safe, causes := x.causes, since := x.since, latch := x.latch, ring := x.ring, retained := x.retained,
      preq := x.preq, tripN := x.tripN, faultN := x.faultN, eoff := x.eoff, alertN := x.alertN, pg := x.pg, entry := x.entry },
    dbg := { Debug.reset with sent := s.dbg.sent, ir := s.dbg.ir, tap := s.dbg.tap, pins := s.dbg.pins, cells := s.dbg.cells },
    outside := { s.outside with ats := [] }, pending := s.pending }

/-- The package reset: the blank state, with the registers that tell of the reset (R455). -/
def State.packageReset (s : State) (cause : Nat) (keepMem keepCfg : Bool) : State :=
  let s1 := s.blank keepMem
  let s2 := (s1.setReg (bnBase + 0x030) (BitVec.ofNat 64 cause)).setField (bnBase + 0x200) 19 1 (b2n s.safety.eoff)
  let s3 := (s2.setField (bnBase + 0x208) 16 16 s2.lastCause).showSvn
  if keepCfg then s3.setReg (bnBase + 0x018) (s.reg (bnBase + 0x018)) else s3

/-! ### The test access port (R535 to R537) -/

/-- The data register and the effect on the lands of an instruction; any code that names none acts as BYPASS. -/
def tapOf (ir : BitVec 8) : TapReg × Pins :=
  match ir.toNat with
  | 1 => (.idcode, .service)
  | 2 => (.boundary, .service)
  | 3 => (.boundary, .extest)
  | 4 => (.boundary, .pulse)
  | 5 => (.boundary, .train)
  | 6 => (.bypass, .clamp)
  | 7 => (.bypass, .highz)
  | _ => (.bypass, .service)

/-- What the port does with its instruction: one that drives lands takes effect only while `BN_RESET_N` is low, and selects bypass at any
other time. -/
def State.settleTap (s : State) : State :=
  let d := tapOf s.dbg.ir
  let d := if d.2 = .service || s.start.resetLow then d else (.bypass, .service)
  { s with dbg := { s.dbg with tap := d.1, pins := d.2 } }

/-- Select an instruction. -/
def State.tapSelect (s : State) (ir : BitVec 8) : State := State.settleTap { s with dbg := { s.dbg with ir := ir } }

/-! ### Cold reset (R456, R523) -/

def causeCode : ColdCause → Nat
  | .powerOn => 1 | .resetLand => 2 | .perst => 3

/-- The reset and power-good lands as a cold reset leaves them: power-on finds both reset lands low and every power-good land high again,
another cause lowers its own land (R522, R523; log 123). -/
def State.lowerLands (s : State) (cause : ColdCause) : State :=
  { s with
    start := { Start.reset with
      resetLow := cause != .perst || s.start.resetLow
      perstLow := cause != .resetLand || s.start.perstLow }
    safety := { s.safety with pg := if cause = .powerOn then 0xFFFF else s.safety.pg } }

/-- The package leaves the safe state, unless emergency-off is still asserted (R489, R491); emergency-off that a power cycle finds asserted
enters it (R491, R527). -/
def State.leaveSafe (s : State) : State :=
  if ! s.safety.eoff then { s with safety := { s.safety with safe := false, causes := [], faultN := true } }
  else if s.safety.safe then s
  else s.quiet 0xF004 13 0

/-- Power has been removed from a package that is off: only power-on acts (R421, R494). -/
def State.unpowered (s : State) : Bool := ! s.powered && s.safety.pg = 0

/-- A cold reset is asserted: lasers off, every island but the Binnacles held; the memories are lost. -/
def execColdReset (cause : ColdCause) (s : State) : Result :=
  .next (
    if ! s.powered && ! (s.unpowered && cause = .powerOn) then s
    else
      let s1 := (s.packageReset (causeCode cause) false false).lowerLands cause
      State.settleTap (State.leaveSafe { s1 with safety := { s1.safety with preq := s1.safety.preq && cause != .powerOn } }))

/-- Staged start may begin: not in the safe state or under emergency-off (R489), and every power-good land is high (R522). -/
def State.mayStart (s : State) : Bool := ! s.safety.safe && ! s.safety.eoff && s.safety.pg = 0xFFFF#16

/-- Reset release: both reset lands are high, the Chronometer is 0 and straps are sampled; staged start begins, with its bill line, where it
may. -/
def execResetRelease (straps : BitVec 8) (s : State) : Result :=
  .next (
    if ! s.powered || ! s.inReset then s
    else
      let s1 := State.settleTap { s with
        chron := 0
        marks := .empty
        start := { Start.reset with straps := straps, resetLow := false, perstLow := false }
        safety := { s.safety with beatA := .reset, beatB := .reset }
        power := { s.power with timers := [] } }
      let s2 := s1.sampleStraps straps
      if s2.mayStart then { s2 with start := { s2.start with boot := .stage } }.putBill else s2)

/-- The board removes power: all state is lost, the error ring and retained area too; fuses stay. A fuse write that is cut
short leaves each minimum between its old and new value (R408, R494). -/
def execPowerRemoved (s : State) : Result :=
  .next (
    let f := match s.sec.cmd with
      | some (.svn v) => s.cutFuses v
      | _ => s
    let s1 := { State.reset with
      free := f.free, mem := { Memory.empty with far := s.mem.far, host := s.mem.host },
      sec := { Secure.empty with fused := f.sec.fused, fusedB := f.sec.fusedB },
      light := { Light.empty with answers := s.light.answers }, start := { Start.reset with boot := .off },
      safety := { Safety.reset with eoff := s.safety.eoff, pg := 0 },
      dbg := { Debug.reset with sent := s.dbg.sent }, outside := { s.outside with ats := [] }, pending := s.pending }
    (s1.showSvn).setField (bnBase + 0x200) 19 1 (b2n s.safety.eoff))

/-! ### Warm reset (R457 to R459, R507) -/

/-- A write of 1 to `BN_RESET[0]`. A fix is released first; a fuse write is waited for. -/
def execWarmReset (w : Wr) (s : State) : Result :=
  .next (s.write (bnBase + 0x028) w fun s v _ =>
    if s.start.boot = .warmWait || s.start.boot = .warmFlush then s.record bnBase 0x4140
    else if ! tst v 0 then s
    else
      let s1 := (s.resumeFix 0).setField (bnBase + 0x050) 0 1 1
      let s2 := { s1 with start := { s1.start with keep := tst v 1, since := s1.chron } }
      match s2.sec.cmd with
      | some (.svn _) => { s2 with start := { s2.start with boot := .warmWait } }
      | _ => s2.beginFlush)

/-- Steps 3 to 5 of a warm reset, and the hold of step 6: caches written back, ports Off, link down, self-refresh under KEEP. -/
def execWarmResetFlushDone (s : State) : Result :=
  .next (
    let busy := s.tiles.any fun p => ! p.2.work.running.isEmpty
    if s.start.boot != .warmFlush || s.safety.safe || (busy && (s.chron - s.start.since).toNat < 10000000) then s
    else
      let s1 := (s.tiles.map (·.1)).foldl (fun acc t => acc.onWork t fun w => { w with running := [] }) s
      let lost := (List.range 64).any fun i => tst (s1.reg (mtBase + 0x200 + 8 * i)) 63
      let s2 := s1.flushCaches.lightsOut.dropHost
      { s2 with start := { s2.start with boot := .warmHold, kept := s2.start.keep && ! lost, since := s2.chron } })

/-- The islands are released after 1 ms and staged start begins; the straps keep the values sampled at reset release. -/
def execWarmResetRelease (s : State) : Result :=
  .next (
    if s.start.boot != .warmHold || s.safety.safe || (s.chron - s.start.since).toNat < 1000000 then s
    else
      let kept := s.start.kept
      let s1 := s.packageReset (if kept then 5 else 4) kept true
      let s2 := { s1 with
        chron := 0
        marks := .empty
        start := { Start.reset with boot := .stage, kept := kept, straps := s.start.straps, resetLow := false, perstLow := false } }
      (s2.sampleStraps s.start.straps).putBill)

/-! ### Tile reset (R461) -/

/-- The tile is held, empty and unused. -/
def State.tileFree (s : State) (t : Nat) : Bool :=
  let w := (s.tile t).work
  tst (s.treg t 0x008) 0 && w.inbox.isEmpty && (w.queues.all fun q => q.2.isEmpty) && w.sets.isEmpty && s.occupied t = 0 &&
  (List.range 16).all fun n => ! tst (s.spEntry t n) 28

/-- Registers of one tile return to their Reset column; its counters of cycles count from now on. -/
def State.resetTileRegs (s : State) (t : Nat) : State :=
  { s with
    regs := FMap.keep (fun a => ! (tileBase t ≤ a && a < tileBase t + 0x1000)) s.regs
    marks := { s.marks with since := tileTimers.foldl (fun m o => FMap.insert m (tileBase t + o) s.marks.ran) s.marks.since } }

/-- The scratchpad is zeroed, queues and slots are empty; a Faulted tile stays so until it passes its self-test. The tile is to reach point 0
one step at a time (R452). -/
def TileState.restart (x : TileState) : TileState :=
  { TileState.empty with fab := x.fab, upkeep := { x.upkeep with wanted := 0, injChecksum := false, injResidue := false, injVector := false } }

def execTileReset (w : Wr) (s : State) : Result :=
  .next (s.write (bnBase + 0x040) w fun s v _ =>
    let t := bits v 0 10
    if 640 ≤ t then s.record bnBase rejected
    else if s.start.tileReset.isSome || s.start.boot != .stage then s.record bnBase 0x4140
    else if ! s.tileFree t then s.record bnBase 0x2014
    else
      let s1 := ((s.resetTileRegs t).onTile t TileState.restart).setField (bnBase + 0x050) 0 1 1
      { s1 with start := { s1.start with tileReset := some t } })

/-- The self-test, which runs at point 0, ends: the tile is released, still held, or Faulted. -/
def execTileResetDone (t : Tile) (pass : Bool) (s : State) : Result :=
  .next (
    if s.start.tileReset != some t.val || s.safety.safe || s.start.boot != .stage || (s.tile t).upkeep.point != 0 then s
    else
      let st : Status := if pass then 0 else 0xB040
      let s1 := (s.setReg (bnBase + 0x048) (pack [(63, 1), (16, st.toNat), (0, t)])).setReg (bnBase + 0x050) (pack [(16, st.toNat)])
      let s2 := { s1 with start := { s1.start with tileReset := none } }
      if pass then s2.onUpkeep t fun u => { u with state := 0, faults := [] }
      else (s2.logIf (tileFault st 0 t 0 0xFFF 0)).makeFaulted t)

/-! ### Stages (R462 to R471) -/

/-- A stage fails: its value and status, ports Off, tiles held at point 0 (R470). -/
def State.failStage (s : State) (n : Nat) (st : Status) : State :=
  let s1 := s.setReg (bnBase + 0x008) (pack [(16, st.toNat), (0, 0x80 + n)])
  let s2 := (List.range 8).foldl State.goOff s1
  let s3 := allTiles.foldl (fun acc t => acc.orReg (tileBase t + 0x008) 1) s2
  (((s3.setWatch false 0 64).setWatch true 0 64).logIf (packageFault st 10 0 0))

/-- A stage begins, with its first work: LIGHT fails at once without coordinates, else ports negotiate (R466). -/
def State.beginStage (s : State) (n : Nat) : State :=
  let s1 := s.enterStage n
  if n = 4 then (if s1.coordValid then s1.refreshPorts else s1.failStage 4 0xB080) else s1

/-- Staged start goes on at a stage. -/
def State.inStage (s : State) (n : Nat) : Bool := s.stage = n && s.start.boot = .stage && ! s.safety.safe

/-- Time limits of the stages that fail by time (Table 17-5). -/
def stageLimit : Nat → Option Nat
  | 2 => some 30000000000
  | 3 => some 5000000000
  | 5 => some 10000000000
  | _ => none

/-- The stage in progress has passed its time limit (R462). -/
def State.stageLate (s : State) : Bool :=
  match stageLimit s.stage with
  | some n => n < (s.chron - s.start.since).toNat
  | none => false

/-- `MT_NEAR_STATE` after training: stacks absent, and at the reduced rate. -/
def nearState (near : List (Option Bool)) : Word :=
  pack (near.zipIdx.map fun p => match p.1 with | none => (12 + p.2, 1) | some b => (p.2, b2n b))

/-- Groups with a device that trains at no bin. -/
def groupAbsent (mid : List (Option (BitVec 2))) (g : Nat) : Bool := ((mid.drop (4 * g)).take 4).any (·.isNone)

/-- `MT_MID_STATE` after training, no device above `MT_MID_CFG[1:0]`. -/
def midState (mid : List (Option (BitVec 2))) (top : Nat) : Word :=
  pack ((mid.zipIdx.map fun p => (2 * p.2, match p.1 with | some b => min b.toNat top | none => 0)) ++
    (List.range 6).map fun g => (48 + g, b2n (groupAbsent mid g)))

/-- MEMORY: training, and zeroing of both tiers unless KEEP applies (R305, R306, R464). -/
def execMemoryStageDone (near : List (Option Bool)) (mid : List (Option (BitVec 2))) (s : State) : Result :=
  if near.length != 12 || mid.length != 24 then .refused .illFormed
  else .next (
    if ! s.inStage 2 then s
    else if s.stageLate then s.failStage 2 0xB050
    else
      let s1 := (s.setReg mtBase (nearState near)).setReg (mtBase + 0x008) (midState mid (bits (s.reg (mtBase + 0x430)) 0 2))
      let cfg := s1.reg (bnBase + 0x018)
      let nearUp := near.countP (·.isSome)
      let midUp := (List.range 6).countP fun g => ! groupAbsent mid g
      if nearUp < bits cfg 0 4 || midUp < bits cfg 8 4 then s1.failStage 2 0xB010
      else
        let s2 := if s1.start.kept then s1 else { s1 with mem := { s1.mem with near := [], bad := [] } }
        s2.beginStage 3)

/-- MESH: the first failing link fails the stage (R465). -/
def execMeshStageDone (bad : Option (Tile × Fin 4)) (s : State) : Result :=
  .next (
    if ! s.inStage 3 then s
    else if s.stageLate then s.failStage 3 0xB050
    else match bad with
      | some (t, p) => (s.setReg (bnBase + 0x010) (pack [(63, 1), (40, 1), (30, t), (28, p)])).failStage 3 0xB020
      | none => s.beginStage 4)

/-- 2 s. -/
def lightTime : Nat := 2000000000

/-- LIGHT ends when every enabled port is Up, Held or Dark, or at its time limit (R466). -/
def execLightStageDone (s : State) : Result :=
  .next (
    let settled := (List.range 8).all fun p => ! tst (s.reg (lpCfg p)) 8 || s.portState p ∈ [portUp, portHeld, portDark]
    if s.inStage 4 && (settled || lightTime ≤ (s.chron - s.start.since).toNat) then s.beginStage 5 else s)

/-- FULL: scratchpads are zero, both watches stand at point 5 within the cap, HOLD is cleared (R467, R468). -/
def State.reachFull (s : State) : State :=
  let s1 := allTiles.foldl (fun acc t => (acc.onTile t fun x => { x with sp := .empty }).setField (tileBase t + 0x008) 0 1 0) (s.enterStage 6)
  let p := min 5 (s1.targetPoint s1.effCap)
  (s1.setWatch false p 64).setWatch true p 64

/-- TILES: the first failing tile, by linear index, fails the stage. -/
def execTilesStageDone (failed : List Tile) (s : State) : Result :=
  .next (
    if ! s.inStage 5 then s
    else if s.stageLate then s.failStage 5 0xB050
    else match failed.foldl (fun (m : Option Nat) t => match m with | some k => some (min k t.val) | none => some t.val) none with
      | some t => (s.setReg (bnBase + 0x010) (pack [(63, 1), (40, 2), (30, t)])).failStage 5 0xB040
      | none => s.reachFull)

/-- A stage passes its time limit; without a link 100 ms after reset release SAFE_MIN is not reached (R463). -/
def execStartTimeout (s : State) : Result :=
  .next (
    let age := (s.chron - s.start.since).toNat
    if s.start.boot != .stage || s.safety.safe then s
    else if s.stage = 0 then
      if ! s.linkUp && ms100 ≤ age then
        let s1 := s.failStage 1 0xB001
        { s1 with start := { s1.start with since := s1.chron } }
      else s
    else if s.stageLate then s.failStage s.stage 0xB050
    else s)

/-- CONTINUE runs the failed stage again. -/
def execContinue (w : Wr) (s : State) : Result :=
  .next (s.write (bnBase + 0x020) w fun s v _ =>
    if bits v 0 2 != 1 then s.record bnBase rejected
    else if s.stage < 0x80 then s.record bnBase 0x2140
    else (s.record bnBase 0).beginStage (s.stage - 0x80))

/-! ### Emergency-off (R490, R491) -/

def State.showEoff (s : State) (on : Bool) : State :=
  { s.setField (bnBase + 0x200) 19 1 (b2n on) with safety := { s.safety with eoff := on } }

/-- Emergency-off acts in every state and at every stage. -/
def execEmergencyOff (s : State) : Result :=
  .next (
    if s.safety.eoff then s
    else if s.powered then (s.showEoff true).quiet 0xF004 13 0
    else s.showEoff true)

def execEmergencyOffRelease (s : State) : Result := .next (if s.safety.eoff then s.showEoff false else s)

end Sys2Proof.Machine
end

