-- ==== Sys2Proof/Machine/Guard.lean ====
section
/-! DEFINITION. Island crossings (R448), seam links (R51), Binnacle cross-monitoring (R481 to R485), links that retrain (R492), known-answer tests
(R479, R480), the summary of corrected errors (R496), injections (R500). -/

namespace Sys2Proof.Machine

open Sys2Proof

/-! ### Overruns of island crossings (R448) -/

/-- Owning tiles of a crossing, the lower linear index first; none for a port at the edge of the grid. -/
def crossingTiles (x : Crossing) : List Nat :=
  match x with
  | .own t => [t.val]
  | .link t p => match neighbour t p with
    | some u => [min t.val u, max t.val u]
    | none => []

/-- Two names of one crossing. -/
def sameCrossing (x y : Crossing) : Bool :=
  match x, y with
  | .own t, .own u => t = u
  | .link t p, _ => crossesLink y t p
  | .own _, .link _ _ => false

/-- A message between two tiles passes through a crossing. -/
def passes (x : Crossing) (a b : Nat) : Bool :=
  match x with
  | .own t => t.val = a || t.val = b
  | .link _ _ => (meshPath 50 a b).any fun l => crossesLink x l.1 l.2

/-- A request of a tile, or its answer, passes through a crossing on its way to the memory's entry tile and back (R18, R50). -/
def Req.passes (x : Crossing) (t : Nat) (q : Req) : Bool :=
  q.parts.any fun p => match p.place.entry? t with
    | some u => Machine.passes x t u || Machine.passes x u t
    | none => false

/-- Discard a free choice of the elements that may lie in a crossing (log 3). -/
def State.discard {α : Type} (s : State) (hit : α → Bool) (xs : List α) : List α × State :=
  xs.foldl (fun acc y =>
    if hit y then (let d := acc.2.draw; if d.1.getLsbD 0 then (acc.1, d.2) else (acc.1 ++ [y], d.2)) else (acc.1 ++ [y], acc.2)) ([], s)

/-- Issued requests of a tile's pieces that may lie in a crossing. -/
def State.reqsIn (s : State) (x : Crossing) (t : Nat) : List (Run × Req) :=
  ((List.range 9).flatMap fun e => (s.tile t).work.issuedReqs e).filter fun p => p.2.passes x t

/-- A tile's requests of this package that lie in a crossing are never answered: a free choice each (log 3, log 108). Their steps are
replayed or their tier's time limit ends them (R302). -/
def State.discardRequests (s : State) (x : Crossing) (t : Nat) : State :=
  (s.reqsIn x t).foldl (fun acc p =>
    let d := acc.draw
    if d.1.getLsbD 0 then
      d.2.onRun t p.1.ord fun r => { r with reqs := r.reqs.map fun q => if q.issued.isSome && q.seq = p.2.seq then { q with lost := true } else q }
    else d.2) s

/-- A crossing discards its entries: every kind of message of the command channel, and requests of this package. -/
def State.discardEntries (s : State) (x : Crossing) : State :=
  let home := fun (c t : Nat) => match s.homeOf c with | some h => h.1 | none => t
  let a := s.discard (fun (p : Nat × Rec) => passes x (home p.2.ctx.toNat p.1) p.1) s.mail.channel
  let b := a.2.discard (fun (g : Signal) => passes x g.src g.tile) s.mail.signals
  let c := b.2.discard (fun (r : Report) => passes x r.tile r.home) s.mail.notices
  let d := c.2.discard (fun (r : Report) => passes x r.tile r.home) s.mail.reports
  let e := d.2.discard (fun (f : Flush) => passes x (home f.ctx f.tile) f.tile) s.mail.flushes
  let f := e.2.discard (fun (f : Flush) => passes x f.tile (home f.ctx f.tile)) s.mail.confirms
  let g := f.2.discard (fun (y : Commit) => passes x (home y.ctx y.tile) y.tile) s.mail.commits
  let h := g.2.discard (fun (y : Nat × Nat × Contribution) => passes x y.1 y.2.1) s.mail.contribs
  (s.tiles.map (·.1)).foldl (fun acc t => acc.discardRequests x t)
    { h.2 with mail := ⟨a.1, b.1, c.1, d.1, e.1, f.1, g.1, h.1⟩ }

/-- A step that is being flushed as it is aborted again has its flush sent anew: the crossing may have discarded it, or what confirmed it
(DESIGN CHOICE, log 108). -/
def State.flushAgain (s : State) (c : Nat) (p : Step) : State :=
  match p.phase with
  | .flushing r =>
    let mine := fun (f : Flush) => f.ctx = c && f.tag = p.stepno.setWidth 2
    { s with mail := { s.mail with
      flushes := s.mail.flushes.filter fun f => ! mine f
      confirms := s.mail.confirms.filter fun f => ! mine f } }.sendFlush c p r
  | _ => s

/-- Every step in flight of a context (R60) reports the overrun; the statuses of its two steps are taken the later one first, so that each
counts within its own limit (R177; DESIGN CHOICE, log 108). -/
def State.overrunSteps (s : State) (c : Nat) (x : Ctx) : State :=
  (x.steps.filter Step.inFlight).reverse.foldl (fun acc p => (acc.flushAgain c p).takeStatus c p.stepno 0x5070 .none) s

def execIslandOverrun (x : Crossing) (s : State) : Result :=
  .next (match crossingTiles x with
    | [] => s
    | t :: rest =>
      if ! s.moving || s.safety.stopped.any (sameCrossing x) then s
      else
        let s1 := (t :: rest).foldl (fun acc u => acc.orReg (tileBase u + 0x018) 16) s
        let s2 := s1.log (tileFault 0x5070 3 t 0 0xFFF (rest.headD 0x3FF))
        let s3 := (s2.discardEntries x)
        let s4 := { s3 with safety := { s3.safety with stopped := s3.safety.stopped ++ [x] } }
        let hit := s.ctxs.filter fun p => (t :: rest).any fun u => ((s.tile u).work.set? p.1).isSome
        hit.foldl (fun acc p => acc.overrunSteps p.1 p.2) s4)

/-- The crossing carries traffic again. -/
def execCrossingRestart (x : Crossing) (s : State) : Result :=
  .next (if s.moving then { s with safety := { s.safety with stopped := s.safety.stopped.filter fun y => ! sameCrossing x y } } else s)

/-! ### Seam links (R51) -/

/-- The port of a tile (+X, −X, +Y, −Y) crosses to another die (R15). -/
def seamPort (t port : Nat) : Bool :=
  let col := t % 20
  let row := t / 20
  match port with
  | 0 => col % 2 = 1 && col != 19
  | 1 => col % 2 = 0 && col != 0
  | 2 => row % 4 = 3 && row != 31
  | _ => row % 4 = 0 && row != 0

/-- The nearest of the five tiles to which a light port attaches (Table 1-3, R16). -/
def portTile (port t : Nat) : Nat :=
  let first := 5 * (port / 2)
  (if port % 2 = 0 then 620 else 0) + max first (min (first + 4) (t % 20))

/-- A request for another node that has left its tile, or its response, passes through a crossing on its way to the port and back. -/
def State.remotePasses (s : State) (x : Crossing) (t : Nat) (q : Remote) : Bool :=
  q.sent.isSome &&
  match s.exitOf q.node false with
  | .ok e => passes x t (portTile e.1 t) || passes x (portTile e.1 t) t
  | .error _ => false

/-- A link goes down under a tile's requests: of those whose way leads over it, a free choice is in flight on it (log 3, log 49) and
completes with a status. -/
def State.loseRequests (s : State) (x : Crossing) (t : Nat) (st : Status) : State :=
  let s1 := (s.reqsIn x t).foldl (fun acc p =>
    let d := acc.draw
    if d.1.getLsbD 0 then d.2.endReq t p.1 p.2 (.error st) else d.2) s
  ((s1.tile t).fab.remotes.filter (s1.remotePasses x t)).foldl (fun acc q =>
    let d := acc.draw
    if d.1.getLsbD 0 then d.2.remoteEnd t q (.error st) else d.2) s1

/-- Failed re-sends after which a seam link is taken down. -/
def maxResends : Nat := 8

/-- A mismatch on a flit asks for a re-send; a mismatch of the flit that was sent again is a failed re-send. -/
def execSeamResend (t : Tile) (port : Fin 4) (same : Bool) (s : State) : Result :=
  .next (
    if ! s.moving || ! seamPort t port || (s.tile t).upkeep.linkDown.contains port.val then s
    else
      let n := if same then FMap.get 0 (s.tile t).upkeep.resends port + 1 else 0
      let s1 := (s.orReg (tileBase t + 0x018) 32).onUpkeep t fun u => { u with resends := FMap.put 0 u.resends port n }
      if n < maxResends then s1
      else
        let s2 := s1.onUpkeep t fun u => { u with linkDown := u.linkDown ++ [port.val], resends := FMap.put 0 u.resends port 0 }
        let s3 := s2.log (tileFault 0x6010 2 t port 0xFFF 0)
        (s3.tiles.map (·.1)).foldl (fun acc u => acc.loseRequests (.link t port) u 0x6010) s3)

/-! ### Heartbeats (R482 to R485) -/

def State.beat (s : State) (b : Bool) : Beat := if b then s.safety.beatB else s.safety.beatA

def State.setBeat (s : State) (b : Bool) (x : Beat) : State :=
  { s with safety := if b then { s.safety with beatB := x } else { s.safety with beatA := x } }

/-- `BN_SAFETY[17:16]`: a path is good when both Binnacles' heartbeats are good on it. -/
def State.showPaths (s : State) : State :=
  let ok := fun (f : Beat → Bool) => s.runsB false && s.runsB true && f s.safety.beatA && f s.safety.beatB
  (s.setField bnSafety 17 1 (b2n (ok (·.msgGood)))).setField bnSafety 16 1 (b2n (ok (·.lineGood)))

/-- 1 ms of silence. -/
def silence : Nat := 1000000

def State.msgSilent (s : State) (b : Bool) : Bool := silence ≤ (s.chron - (s.beat b).msgAt).toNat
def State.lineSilent (s : State) (b : Bool) : Bool := silence ≤ (s.chron - (s.beat b).lineAt).toNat || ! s.runsB b

/-- Every 50 µs a Binnacle toggles its live line and sends a message, unless an injection suppresses the path (R500). The first
beat on a path makes it good. -/
def execBnHeartbeat (b : Bool) (s : State) : Result :=
  .next (
    let row := if b then 12 else 11
    if ! s.runsB b || ! s.due row 50000 then s
    else
      let x := s.beat b
      let msg := x.quietMsg.toNat ≤ s.chron.toNat
      let line := x.quietLine.toNat ≤ s.chron.toNat
      let y := { x with
        seq := if msg then x.seq + 1 else x.seq
        msgAt := if msg then s.chron else x.msgAt
        lineAt := if line then s.chron else x.lineAt
        msgGood := x.msgGood || (msg && x.seq = 0)
        lineGood := x.lineGood || (line && x.seq = 0) }
      ((s.acted row).setBeat b y).showPaths)

/-- A path of a Binnacle's heartbeat changes state: silent for 1 ms while the other path is heard, or heard again (R484). -/
def State.pathChanges (s : State) (b line good : Bool) : Bool :=
  let x := s.beat b
  let was := if line then x.lineGood else x.msgGood
  let silent := if line then s.lineSilent b else s.msgSilent b
  let other := if line then s.msgSilent b else s.lineSilent b
  s.runsB b && s.runsB (! b) && (if good then ! was && ! silent && x.seq != 0 else was && silent && ! other)

def execHbPathLost (line good : Bool) (s : State) : Result :=
  .next (
    let a := s.activeB
    let mark := fun (b : Bool) =>
      let x := s.beat b
      let y := if line then { x with lineGood := good } else { x with msgGood := good }
      (((s.setBeat b y).showPaths).count (bnBase + 0x290) 1).log (packageFault 0xB091 10 (b2n b) (b2n line))
    if s.pathChanges a line good then mark a
    else if s.pathChanges (! a) line good then mark (! a)
    else s)

/-- A security command that the failed Binnacle had in progress: the verification starts again, a fuse write is cut short, the
others fail (Table 18-2). -/
def State.takeSecurity (s : State) : State :=
  match s.sec.cmd with
  | some (.verify _) => { s with sec := { s.sec with cmd := some (.verify s.chron) } }
  | some (.attest _) => s.secEnd 0xB090
  | some (.key _ _) => s.secEnd 0xB090
  | some (.svn v) =>
    let s1 := (s.cutFuses v).secEnd 0xB090
    { s1 with sec := { s1.sec with cmd := none } }.showSvn
  | some .cert => s
  | none => s

/-- A tile reset in progress fails. -/
def State.takeTileReset (s : State) : State :=
  if s.start.tileReset.isSome then
    let s1 := s.setReg (bnBase + 0x050) (pack [(16, 0xB090)])
    { s1 with start := { s1.start with tileReset := none } }
  else s

/-- A warm reset or a stage of the start begins again. -/
def State.takeStart (s : State) : State :=
  match s.start.boot with
  | .warmWait | .warmFlush | .warmHold => { s with start := { s.start with since := s.chron } }.beginFlush
  | .stage => if 1 ≤ s.stage && s.stage ≤ 5 then s.beginStage s.stage else s
  | .held | .off => s

/-- What the failed Binnacle had in progress (Table 18-2). -/
def State.takeWork (s : State) : State := s.ftAbandon.takeSecurity.takeTileReset.takeStart

/-- Both paths of the active Binnacle have been silent for 1 ms: the standby holds it and becomes active (R483). -/
def execBnTakeover (s : State) : Result :=
  .next (
    let a := s.activeB
    if ! s.runsB (! a) || s.binnacle (! a) != 0 || ! s.msgSilent a || ! s.lineSilent a then s
    else
      let v := setBits (setBits (setBits (s.reg bnSafety) (if a then 6 else 4) 2 2) (if a then 4 else 6) 2 1) 0 1 1
      let s1 := ((s.setReg bnSafety v).showPaths).count (bnBase + 0x288) 1
      (s1.showSvn.log (packageFault 0xB090 10 0 0)).takeWork)

/-- No live line has toggled for 1 ms: every observer enters its part of the safe state, and the Sextant latches the cause. No
Binnacle records it (R485). -/
def execBinnaclesLost (s : State) : Result :=
  .next (
    if ! s.powered || ! s.lineSilent false || ! s.lineSilent true then s
    else
      let cause := s.reg (bnBase + 0x208)
      let s1 := (s.enterSafe 0xF002).setReg (bnBase + 0x208) cause
      { s1 with safety := { s1.safety with latch := true, entry := s.safety.entry } })

/-- The Sextant's heartbeat is silent for 100 µs (R487, R525), in the safe state too: a second cause is recorded (R488). -/
def execSextantLost (s : State) : Result :=
  .next (if (s.normal || s.start.boot = .warmFlush) && ! s.safety.causes.contains 0xF006 then s.quiet 0xF006 9 0 else s)

/-! ### Links that retrain (R492) -/

/-- The package entered the safe state in this Binnacle cycle (R488). -/
def State.justSafe (s : State) : Bool := s.safety.safe && s.safety.since = s.chron

/-- An attempt to retrain a link that is down ends. -/
def execMeshLinkRetrain (t : Tile) (port : Fin 4) (pass : Bool) (s : State) : Result :=
  .next (
    let u := (s.tile t).upkeep
    let n := FMap.get 0 u.retrains port + 1
    if ! u.linkDown.contains port.val || ! (s.moving || (s.justSafe && ! pass && 3 ≤ n)) then s
    else
      if pass then s.onUpkeep t fun u => { u with linkDown := u.linkDown.filter (· != port.val), retrains := FMap.put 0 u.retrains port 0 }
      else if n < 3 then s.onUpkeep t fun u => { u with retrains := FMap.put 0 u.retrains port n }
      else (s.enterSafe 0xF005).log (tileFault 0xF005 2 t port 0xFFF 0))

/-! ### Known-answer tests (R479, R480) -/

/-- Every 1 ms, at a command boundary. A tile that fails becomes Faulted. -/
def execVectorKat (t : Tile) (pass : Bool) (s : State) : Result :=
  .next (
    let row := 1000 + t.val
    if ! s.moving || s.stage != 6 || ! s.vectorBoundary t || ! s.due row 1000000 then s
    else
      let s1 := (s.acted row).count (bnBase + 0x298) 1
      if pass then s1 else s1.makeFaulted t)

/-! ### Corrected errors (R496) -/

/-- Corrected-error counters with the source and unit of their block; a tile's counter has its tile. -/
def correctedCounters : List (Nat × Nat × Nat × Nat) :=
  ((List.range 12).map fun i => (mtBase + 0x060 + 8 * i, 4, 0x3FF, i)) ++ ((List.range 6).map fun i => (mtBase + 0x0C0 + 8 * i, 5, 0x3FF, i)) ++
  ((List.range 8).map fun p => (lpBase + 0x138 + 0x80 * p, 7, 0x3FF, p)) ++ allTiles.map fun t => (tileBase t + 0x350, 0, t, 0)

/-- One block's change since the last summary; a counter that has been cleared since is counted from zero (DESIGN CHOICE, log 20). -/
def State.summarise (s : State) (x : Nat × Nat × Nat × Nat) : State :=
  let now := bits (s.reg x.1) 0 48
  let old := bits (FMap.get 0 s.safety.summary x.1) 0 48
  if now = old then s
  else
    let s1 := { s with safety := { s.safety with summary := FMap.put 0 s.safety.summary x.1 (BitVec.ofNat 64 now) } }
    let n := if old < now then now - old else now
    if 0 < n then s1.log ⟨0, x.2.1, x.2.2.1, x.2.2.2, 0xFFF, 0xFFFFFFFF#32, 0, n, if x.2.2.1 = 0x3FF then 0x7F else dieOf x.2.2.1⟩ else s1

/-- Once per second. -/
def execCorrectedSummary (s : State) : Result :=
  .next (if ! s.runsB s.activeB || ! s.due 10 1000000000 then s else correctedCounters.foldl State.summarise (s.acted 10))

/-! ### Injection (R500) -/

/-- A write of `BN_INJECT` of one kind; kinds that are none, and tiles that are none, are rejected by every row of the
register. -/
def State.inject (s : State) (w : Wr) (kind : Nat) (k : State → Nat → State) : State :=
  s.write (bnBase + 0x268) w fun s v _ =>
    let n := bits v 60 4
    let t := bits v 0 10
    if n = 0 || 6 < n || (n ≤ 3 && 640 ≤ t) then s.record bnBase rejected
    else if n != kind then s
    else k s t

def execInjectChecksum (w : Wr) (s : State) : Result :=
  .next (s.inject w 1 fun s t => s.onUpkeep t fun u => { u with injChecksum := true })

def execInjectResidue (w : Wr) (s : State) : Result :=
  .next (s.inject w 2 fun s t => s.onUpkeep t fun u => { u with injResidue := true })

def execInjectVectorResidue (w : Wr) (s : State) : Result :=
  .next (s.inject w 3 fun s t => s.onUpkeep t fun u => { u with injVector := true })

/-- Suppress heartbeats of the active Binnacle for 2 ms; refused before FULL or with one Binnacle held. -/
def State.suppress (s : State) (msg line : Bool) : State :=
  if s.stage != 6 || tst (s.reg bnSafety) 0 then s.record bnBase 0x2150
  else
    let until_ := s.chron + 2000000
    let x := s.beat s.activeB
    s.setBeat s.activeB { x with quietMsg := if msg then until_ else x.quietMsg, quietLine := if line then until_ else x.quietLine }

def execInjectHbMessage (w : Wr) (s : State) : Result := .next (s.inject w 4 fun s _ => s.suppress true false)
def execInjectLiveLine (w : Wr) (s : State) : Result := .next (s.inject w 5 fun s _ => s.suppress false true)
def execInjectBoth (w : Wr) (s : State) : Result := .next (s.inject w 6 fun s _ => s.suppress true true)

def execBnCntClear (w : Wr) (s : State) : Result := .next (s.trigger1 (bnBase + 0x2F8) w fun s => s.clearRegs (span (bnBase + 0x270) 6))

end Sys2Proof.Machine
end

