-- ==== Sys2Proof/Machine/Tiers.lean ====
section
/-! DEFINITION. The memory tiers' own commands and events (chapter 11): invalidation, harvest, lost lines, far windows, late,
timed-out and failed requests, patrol scrub. -/

namespace Sys2Proof.Machine

open Sys2Proof

/-! ### Commands -/

/-- A write of a command register: ignored with `MT_BUSY` while one runs (R309). -/
def State.tierCommand (s : State) (a : Nat) (w : Wr) (k : State → Word → State) : State :=
  s.write a w fun s v _ => if s.mem.job.isSome then s.record a 0x4071 else k s v

/-- `MT_STATUS` of a command that begins (busy) or ends. -/
def State.tierJob (s : State) (j : Option Bool) : State :=
  { s.setField (mtBase + 0x020) 0 1 (b2n j.isSome) with mem := { s.mem with job := j } }

/-- Requests in flight, by tile and sequence, with a part in one of the pages that `MT_XLAT_INV` names: of every context, or of
one, `n` pages from `first`. -/
def State.using (s : State) (all : Bool) (c first n : Nat) : List (Nat × Nat) :=
  s.tiles.flatMap fun p => ((List.range 6).flatMap fun i => p.2.work.issuedReqs (i + 2)).filterMap fun x =>
    if all || (x.1.cmd.ctx.toNat = c && x.2.parts.any fun y => y.leaf.isSome && first ≤ y.page && y.page < first + n) then
      some (p.1, x.2.seq)
    else none

/-- A request of a tile is still in flight. -/
def State.flying (s : State) (x : Nat × Nat) : Bool :=
  (List.range 6).any fun i => ((s.tile x.1).work.issuedReqs (i + 2)).any fun p => p.2.seq = x.2

/-- Invalidation of translations (R290): requests in flight keep the place that their entry gave; what starts now uses the tables
as they are. -/
def execMtXlatInv (w : Wr) (s : State) : Result :=
  .next (s.tierCommand (mtBase + 0x418) w fun s v =>
    let s1 := s.tierJob (some false)
    { s1 with mem := { s1.mem with inval := s.using (tst v 63) (bits v 0 12) (bits v 24 26) (bits v 12 12 + 1) } })

/-- It completes once no request in flight uses an invalidated entry. -/
def execXlatInvDone (s : State) : Result :=
  .next (if s.mem.job = some false && ! s.mem.inval.any s.flying then
      let s1 := s.tierJob none
      { s1 with mem := { s1.mem with inval := [] } }
    else s)

/-- The Helm-core lines of a 2 MiB page of physical memory. -/
def State.pageLines (s : State) (page : Nat) : List Nat :=
  (s.mem.lines.map (·.1)).filter fun l => page ≤ 64 * l && 64 * l < page + 2 ^ 21

/-- The record of one page (R295): its map is swapped with zero. -/
def State.harvestPage (s : State) (root p : Nat) : State × List Word :=
  let none_ : List Word := pack [(0, p % 2 ^ 26)] :: List.replicate 7 0
  if 2 ^ 26 ≤ p then (s, none_)
  else match s.leafOf root (p * 2 ^ 21) with
    | .inr _ => (s, none_)
    | .inl leaf =>
      if (s.flaw leaf 64).isSome || ! tst (s.pa64 leaf) 63 then (s, none_)
      else
        let code := bits (s.pa64 leaf) 55 4
        let s1 := s.writeBackAll (s.pageLines (bits (s.pa64 leaf) 21 23 * 2 ^ 21))
        if frameSize code = 0 then (s1, pack [(55, code), (0, p)] :: List.replicate 7 0)
        else
          let map := (List.range 7).map fun i => s1.pa64 (leaf + 8 + 8 * i)
          (s1.setPa (leaf + 8) (List.replicate 56 0), pack [(63, 1), (55, code), (0, p)] :: map)

/-- Harvest pages in ascending order into the host buffer. -/
def State.harvestPages (s : State) (root first buf : Nat) : List Nat → State
  | [] => s
  | i :: is =>
    let r := s.harvestPage root (first + i)
    (r.1.hostWrite pf0Space (buf + 64 * i) (wordBytes r.2)).harvestPages root first buf is

/-- A context that does not exist has no page. -/
def execHarvest (w : Wr) (s : State) : Result :=
  .next (s.tierCommand (mtBase + 0x410) w fun s v =>
    let root := match s.ctx? (bits v 0 12) with | some x => x.cr.root | none => 2 ^ 44
    (s.harvestPages root (bits v 24 26) (s.reg (mtBase + 0x408)).toNat (List.range (bits v 12 12 + 1))).tierJob (some true))

def execHarvestDone (s : State) : Result := .next (if s.mem.job = some true then s.tierJob none else s)

def execMtLostClear (w : Wr) (s : State) : Result :=
  .next (s.tierCommand (mtBase + 0x400) w fun s v =>
    if tst v 6 then s.clearRegs (span (mtBase + 0x200) 64) else s.setReg (mtBase + 0x200 + 8 * bits v 0 6) 0)

/-- `MT_CNT_` counters (Table 11-9). -/
def tierCounters : List Nat := (span 0x060 19 ++ span 0x100 13).map (mtBase + ·)

def execMtCntClear (w : Wr) (s : State) : Result :=
  .next (s.tierCommand (mtBase + 0x420) w fun s v => if tst v 0 then s.clearRegs tierCounters else s)

/-! ### Far windows (R307) -/

def farWinReg (n : Nat) : Nat := mtBase + 0x180 + 8 * n

/-- `MT_FAR_STATE[0]`: at least one slice is valid for translation. -/
def State.farSlices (s : State) : State :=
  s.setField (mtBase + 0x010) 0 1 (b2n ((List.range 16).any fun n => let v := s.reg (farWinReg n); tst v 63 && ! tst v 62 && bits v 60 2 != 0))

def execFarWinWrite (n : Fin 16) (w : Wr) (s : State) : Result :=
  .next (s.write (farWinReg n) w fun s v m =>
    let new := merge (s.reg (farWinReg n)) v m
    let x := pack [(63, b2n (tst new 63)), (62, b2n (tst new 63)), (44, bits new 44 12), (37, bits new 37 7)]
    let s1 := (s.setReg (farWinReg n) x).farSlices
    { s1 with light := { s1.light with farQuery := FMap.put 0 s1.light.farQuery n (if tst new 63 then s1.chron else 0) } })

/-- A level query of slice `n` waits for its answer. -/
def State.farPending (s : State) (n : Nat) : Bool := tst (s.reg (farWinReg n)) 62

/-- A level query ends: the slice takes a level, or stays invalid (level 0). -/
def State.farLevel (s : State) (n level : Nat) : State :=
  let s1 := (s.setReg (farWinReg n) (setBits (setBits (setBits (s.reg (farWinReg n)) 62 1 0) 60 2 level) 63 1 (if level = 0 then 0 else 1))).farSlices
  { s1 with light := { s1.light with farQuery := FMap.put 0 s1.light.farQuery n 0 } }

/-- The age of a slice's level query. -/
def State.queryAge (s : State) (n : Nat) : Nat := (s.chron - FMap.get 0 s.light.farQuery n).toNat

/-- The slice stays invalid for want of an answer. -/
def State.farSilent (s : State) (n : Nat) : State := ((s.farLevel n 0).record mtBase 0x6043).log (packageFault 0x6043 6 n 0)

/-- The lower of the node's level and `MT_CFG[19:16]`; an answer after more than 1 ms is none. -/
def execFarLevelAnswer (n : Fin 16) (level : BitVec 2) (s : State) : Result :=
  .next (
    if ! s.farPending n || ! s.farUp then s
    else if 1000000 < s.queryAge n then s.farSilent n
    else if level = 0 then (s.farLevel n 0).record mtBase 0x2071
    else s.farLevel n (min level.toNat (bits (s.reg (mtBase + 0x018)) 16 4)))

/-- No answer within 1 ms. -/
def execFarNodeUnreachable (n : Fin 16) (s : State) : Result :=
  .next (
    if ! s.farPending n || s.queryAge n < 1000000 then s else s.farSilent n)

/-! ### Late and failed requests (R301 to R304) -/

/-- The `i`-th outstanding request of an engine, when a tier serves it. -/
def State.tierReq? (s : State) (t e i : Nat) : Option (Run × Req × Nat) :=
  (((s.tile t).work.issuedReqs e)[i]?).bind fun p => p.2.tier?.map fun k => (p.1, p.2, k)

/-- A request passes its tier's threshold: it goes on waiting and is counted once (R301). -/
def execTierLate (t : Tile) (e : EngineNo) (i : Nat) (_cause : Fin 8) (_ns : Nat) (s : State) : Result :=
  .next (match s.tierReq? t e i with
    | none => s
    | some (r, q, k) =>
      if ! s.moving || q.late || s.ageOf q ≤ s.lateAfter k then s
      else
        let s1 := s.onRun t r.ord fun r => { r with reqs := r.reqs.map fun x => if x.issued.isSome && x.seq = q.seq then { x with late := true } else x }
        s1.countLate k)

/-- A request ends with no answer; a write that timed out may have been applied (R302). -/
def execTierTimeout (t : Tile) (e : EngineNo) (i : Nat) (applied : Bool) (s : State) : Result :=
  .next (match s.tierReq? t e i with
    | none => s
    | some (r, q, k) =>
      if ! s.moving || s.ageOf q < timeoutOf k then s
      else
        let s1 := if applied && q.waiting then s.perform t r q else s
        (s1.timedOutOpen t).endReq t r q (.error 0x6040))

/-- End with a status every outstanding request of the package that satisfies a test. -/
def State.endWhere (s : State) (st : Status) (test : Req → Bool) : State :=
  (s.tiles.map (·.1)).foldl (fun acc t =>
    ((List.range 6).flatMap fun i => (acc.tile t).work.issuedReqs (i + 2)).foldl (fun acc p =>
      if test p.2 then acc.endReq t p.1 p.2 (.error st) else acc) acc) s

/-- A part lies in a Near stack or Mid group. -/
def Part.inUnit (p : Part) (mid : Bool) (n : Nat) : Bool :=
  match p.place with
  | .pa a => (tierOf a = (if mid then Tier.mid else Tier.near)) && unitOf a = n
  | _ => false

/-- A stack, or the whole group of a device, fails at run time (R303). -/
def execStackFailed (mid : Bool) (n : Fin 12) (s : State) : Result :=
  if ! Instr.wf (.stackFailed mid n) then .refused .illFormed
  else .next (
    if ! s.moving || s.absent (if mid then 0x10000000000 + n * 2 ^ 38 else n * 2 ^ 36) then s
    else
      let s1 := (s.loseUnit mid n).orReg (mtBase + 0x050) (if mid then 512 else 256)
      s1.endWhere 0x6040 fun q => q.parts.any fun p => p.inUnit mid n)

/-- The tier acts on a loss of light of port F (R304): the port is Off or Dark. -/
def execFarPortDown (s : State) : Result :=
  .next (
    if ! tst (s.reg (mtBase + 0x010)) 1 || 1 < bits (s.reg (lpBase + 0x108 + 0x80 * 6)) 0 4 then s
    else ((s.setField (mtBase + 0x010) 1 1 0).orReg (mtBase + 0x050) 1024).endWhere 0x6041 Req.far)

/-! ### Patrol scrub (R297) -/

/-- The scrubber meets a block with an error, which it corrects, or finds uncorrectable and leaves as it is. -/
def execMtPatrolScrub (block : BitVec 38) (single : Bool) (s : State) : Result :=
  .next (
    let a := block.toNat * 64
    let tier := tierOf a
    if ! s.moving || (tier != .near && tier != .mid) || s.absent a then s
    else if single && ! FMap.get false s.mem.bad block.toNat then s.corrected a
    else (s.spoilBlock a).noteFlaw a 0x5020)

end Sys2Proof.Machine
end

