-- ==== Sys2Proof/Machine/Trace.lean ====
section
/-! DEFINITION. The view of registers that show other state (R8, R366), fix and scan-out (R502 to R509), watchpoint entries
(R511), the log line (R512, R515), tag buckets (R517). -/

namespace Sys2Proof.Machine

open Sys2Proof

/-! ### What a register reads as -/

/-- State of a tile in `TL_STATUS[1:0]`: Held, Running, Draining (held while commands run), Faulted. -/
def State.tileCode (s : State) (t : Nat) : Nat :=
  if s.faultedTile t then 3
  else if ! tst (s.treg t 0x008) 0 then 1
  else if (s.tile t).work.running.isEmpty then 0 else 2

/-- State of a Helm core in `HC_STATUS[1:0]`. -/
def State.helmCode (s : State) (t : Nat) : Nat :=
  if s.faultedTile t then 3
  else if tst (s.treg t 0x808) 0 then 2
  else if (List.range 16).any (fun n => ((s.tile t).slot n).code) then 1 else 0

/-- A register of a tile's window. -/
def State.viewTile (s : State) (t o : Nat) : Word :=
  let v := s.treg t o
  let w := (s.tile t).work
  if tileTimers.contains o then s.elapsed (tileBase t + o) (o = 0x3F0 || o = 0x8B0)
  else if o = 0x098 then s.islandWord t
  else if o = 0x000 then pack [(20, dieOf t), (15, t / 20), (10, t % 20), (0, t)]
  else if o = 0x010 then setBits v 0 2 (s.tileCode t)
  else if 0x040 ≤ o && o < 0x088 then
    let q := w.queue ((o - 0x040) / 8)
    setBits (setBits v 16 10 (q.map fun e => e.cmd.ctx.toNat).eraseDups.length) 0 7 q.length
  else if o = 0x088 then setBits v 0 9 w.inbox.length
  else if o = 0x090 then BitVec.ofNat 64 w.sets.length
  else if o = 0x800 then setBits (setBits (setBits v 4 5 (s.occupied t)) 2 1 (b2n (s.tile t).flushing)) 0 2 (s.helmCode t)
  else v

/-- The error record that `BN_ERR_INDEX` selects (R497). -/
def State.errorRecord (s : State) (kept : Bool) (entry seq : Nat) : List Word :=
  let zero := List.replicate 8 (0 : Word)
  if kept then s.safety.retained.getD entry zero
  else (s.safety.ring.find? fun r => bits (r.getD 1 0) 32 32 = seq).getD zero

/-- A register of the Binnacle window. -/
def State.viewBn (s : State) (a o : Nat) : Word :=
  if o = 0x038 then s.chron
  else if o = 0x210 then pack [(32, s.safety.lastSeq.toNat), (0, s.safety.ring.length)]
  else if 0x220 ≤ o && o < 0x260 then
    let i := s.reg (bnBase + 0x218)
    (s.errorRecord (tst i 63) (bits i 32 4) (bits i 0 32)).getD ((o - 0x220) / 8) 0
  else s.reg a

/-- A partition entry with the fields that the package fills in (Table 15-9). -/
def State.viewPart (s : State) (a : Nat) : Word :=
  let v := s.reg a
  let c := bits v 0 12
  match (if tst v 63 then s.ctx? c else none) with
  | some x => setBits (setBits (setBits v 33 1 (b2n s.isFixedFreq)) 32 1 (b2n (s.ownsTiles c x))) 12 20 x.cr.job.toNat
  | none => v

/-- A register of the security window: what the fuses and the one-time memory hold, and the partition entries (Table 15-9). -/
def State.viewSc (s : State) (a o : Nat) : Word :=
  if 0x080 ≤ o && o < 0x0C0 then (wordsOf 8 Config.rootDigest).getD ((o - 0x080) / 8) 0
  else if o = 0x0C0 then Config.serial.extractLsb' 0 64
  else if o = 0x0C8 then Config.serial.extractLsb' 64 64
  else if o = 0x110 then pack [(0, (Config.certificate.take 4096).length)]
  else if 0x380 ≤ o && o < 0x3C0 then s.viewPart a
  else s.reg a

/-- The register at an aligned BAR0 offset as PF0 reads it; ranges without a register read zero. -/
def State.view (s : State) (a : Nat) : Word :=
  let o := a % 0x10000
  if inTile a then s.viewTile ((a - 0x100000) / 0x1000) ((a - 0x100000) % 0x1000)
  else match a / 0x10000 with
    | 1 => s.viewBn a o
    | 4 => s.viewSc a o
    | 5 => if o = 0x008 then setBits (s.reg a) 0 1 (b2n (tst (s.reg (dbBase + 0x300)) 0)) else s.reg a
    | 6 => if o = 0x010 then pack [(1, b2n s.farUp), (0, b2n ((List.range 16).any fun i => s.farValid i))] else s.reg a
    | 8 => if 0x118 ≤ o && o < 0x500 && o % 0x80 = 0x18 then setBits (s.reg a) 33 1 (b2n s.safety.eoff) else s.reg a
    | _ => s.reg a

/-- The registers of PF1 (0) or a virtual function (Table 14-4): its number; live contexts owned, link up, enabled. -/
def State.viewFn (s : State) (fn o : Nat) : Word :=
  if o = 0x000 then BitVec.ofNat 64 fn
  else if o = 0x008 then
    pack [(16, s.ctxs.countP fun p => p.2.cr.fn.toNat = fn), (1, b2n s.linkUp), (0, b2n (s.outside.enabled.contains fn))]
  else 0

/-! ### Scan-out (R508, R509, Tables 19-3 to 19-5) -/

/-- Bytes at the start of a section of a given size; the rest is zero. -/
def section_ (n : Nat) (bs : List Byte) : List Byte := (bs ++ List.replicate (n - bs.length) (0 : Byte)).take n

/-- Bytes of a scan that show what the model does not hold: unused accumulator rows and cache lines that are not dirty. The same bytes in
every scan of one fix (log 3). -/
def State.unseen (s : State) (t off n : Nat) : List Byte :=
  (List.range n).map fun i => Config.unseen (s.reg (dbBase + 0x020)) t (off + i)

/-- Bytes of a scan whose layout the spec leaves open, by the section and what it shows, in the present fix (log 3). -/
def State.laidOut (s : State) (n : Nat) (what : List Nat) : List Byte :=
  (List.range n).map (Config.layout ((s.reg (dbBase + 0x020)).toNat :: what))

/-- A home slot: 2 KiB. -/
def Slot.scan (z : Slot) : List Byte :=
  let ws := fun (n : Nat) (f : Nat → Word) => (List.range n).flatMap fun i => bytesOf 8 (f i).toNat
  section_ 0x800 (ws 32 z.rg ++ ws 32 z.rf ++
    section_ 0x200 (ws 64 fun i => z.rt (i / 4) (i % 4)) ++
    wordBytes [z.pc.setWidth 64, z.stepno.setWidth 64, z.layop.setWidth 64, z.deadline, z.ctx.setWidth 64, z.job.setWidth 64, z.excstat.setWidth 64])

/-- Commands as records, oldest first. -/
def scanRecs (n : Nat) (rs : List Rec) : List Byte := section_ (64 * n) (rs.flatMap fun r => wordBytes r.words)

/-- The counter-set directory entry of a set. -/
def CounterSet.scan (x : CounterSet) : Word := pack [(63, 1), (14, b2n x.ff5020), (12, x.prio.toNat), (0, x.ctx)]

/-- Put an entry of a queue where its place in the entry order is. -/
def byOrder (x : Nat × Rec × Byte) : List (Nat × Rec × Byte) → List (Nat × Rec × Byte)
  | [] => [x]
  | y :: ys => if x.1 ≤ y.1 then x :: y :: ys else y :: byOrder x ys

/-- The entries of a queue, oldest first, with their byte: wait satisfied, selected, parked (Table 19-4). A parked entry shows in the first
queue of the kind that its record names (DESIGN CHOICE, log 3). -/
def Work.scanQueue (w : Work) (n : Nat) : List (Nat × Rec × Byte) :=
  let mine := fun (r : Rec) => (fenceCovers r.engine.toNat).head? = some n
  let waiting := (w.queue n).map fun e => (e.ord, e.cmd, BitVec.ofNat 8 (b2n e.ready))
  let running := (w.runs n).map fun r => (r.ord, r.cmd, (3 : Byte))
  let parked := (w.parked.filter fun p => mine p.ent.cmd).map fun p => (p.ent.ord, p.ent.cmd, BitVec.ofNat 8 (4 + b2n p.ent.ready))
  (waiting ++ running ++ parked).foldr byOrder []

/-- What an engine's progress shows: of each of its pieces the requests issued and still to issue, and the credits held. -/
def Work.progress (w : Work) (n : Nat) : List Nat :=
  w.outstanding n :: (w.runs n).flatMap fun r => [r.ord, b2n r.formed, r.reqs.countP (·.issued.isSome), r.reqs.length]

/-- The messages that may lie in the crossings and routers of a tile. -/
def State.inTransit (s : State) (t : Nat) : List Nat :=
  ((s.mail.channel.filter fun p => p.1 = t).flatMap fun p => p.2.words.map BitVec.toNat) ++
  ((s.mail.signals.filter fun g => g.tile = t || g.src = t).flatMap fun g => [g.ctx, g.tile, g.src, g.k.toNat, g.incr.toNat]) ++
  (((s.mail.notices ++ s.mail.reports).filter fun r => r.tile = t || r.home = t).flatMap fun r => [r.ctx, r.tile, r.home, r.status.toNat]) ++
  ((s.mail.flushes ++ s.mail.confirms).filter fun f => f.tile = t).flatMap fun f => [f.ctx, f.tag.toNat, b2n f.replay]

/-- The accumulator: the kept result in its rows from row 0, the rest unseen (log 3). -/
def State.scanAcc (s : State) (t : Nat) : List (BitVec 32) :=
  let un := fun (i : Nat) => BitVec.ofNat 32 (ofBytes (s.unseen t (0x40000 + 4 * i) 4))
  match (s.tile t).work.kept with
  | some k => (List.range (1024 * 128)).map fun i =>
      if i / 128 < k.rows && i % 128 < k.cols then (k.data.getD (i / 128) []).getD (i % 128) 0 else un i
  | none => (List.range (1024 * 128)).map un

/-- Residues mod 3 of the accumulator words, two bits each. -/
def residueBytes (ws : List (BitVec 32)) : List Byte :=
  (List.range (ws.length / 4)).map fun i =>
    BitVec.ofNat 8 (((ws.drop (4 * i)).take 4).zipIdx.foldl (fun n p => n + (p.1.toNat % 3) * 4 ^ p.2) 0)

/-- The core block of a tile (Table 19-4). -/
def State.scanCore (s : State) (t : Nat) : List Byte :=
  let x := s.tile t
  let w := x.work
  let acc := s.scanAcc t
  section_ 0x100000
    (((List.range 512).flatMap fun i => bytesOf 8 (s.view (tileBase t + 8 * i)).toNat) ++
     ((List.range 16).flatMap fun n => (x.slot n).scan) ++
     scanRecs 256 w.inbox ++
     ((List.range 9).flatMap fun n => scanRecs 64 ((w.scanQueue n).map (·.2.1))) ++
     section_ 0x1000 (wordBytes (w.sets.map CounterSet.scan)) ++
     section_ 0x20000 (w.sets.flatMap fun k => (List.range 256).flatMap fun i => bytesOf 4 (FMap.get 0 k.k i).toNat) ++
     s.laidOut 0x9000 (0x37000 :: t :: s.inTransit t) ++
     (acc.flatMap fun v => bytesOf 4 v.toNat) ++
     section_ 0x400 ((List.range 9).flatMap fun n => section_ 64 ((w.scanQueue n).map (·.2.2))) ++
     ((List.range 9).flatMap fun n => s.laidOut 64 (0xC0400 :: t :: n :: w.progress n)) ++ List.replicate 0x1C0 (0 : Byte) ++ residueBytes acc)

/-- A number that the spec leaves open about a dirty line in the present fix: the core that holds it, or its place (log 3). -/
def State.lineNumber (s : State) (line what : Nat) : Nat := ofBytes ((s.laidOut 4 [0x4000000, line, what]).take 4)

/-- Lines of a Helm-core cache. -/
def cacheLines : Nat := 32768

/-- The first free place from one on. -/
def freePlace (used : FMap Nat) (k : Nat) : Nat :=
  (((List.range cacheLines).map fun i => (k + i) % cacheLines).find? fun p => (FMap.find? used p).isNone).getD 0

/-- The dirty lines that a tile's cache holds, by place. The model holds one coherent cache: which core holds a line is open (log 3). -/
def State.heldLines (s : State) (t : Nat) : FMap Nat :=
  ((s.mem.lines.map (·.1)).filter fun l => s.lineNumber l 0 % 640 = t).foldl
    (fun m l => FMap.insert m (freePlace m (s.lineNumber l 1 % cacheLines)) l) []

/-- A Helm-core cache: the data of its lines, then their tags (R509). A place without a dirty line shows nothing that the model holds. -/
def State.scanCache (s : State) (t : Nat) : List Byte :=
  let m := s.heldLines t
  ((List.range cacheLines).flatMap fun k => match FMap.find? m k with
    | some l => (List.range 64).map fun i => s.helm8 (64 * l + i)
    | none => s.unseen t (0x4000000 + 64 * k) 64) ++
  (List.range cacheLines).flatMap fun k => match FMap.find? m k with
    | some l => wordBytes [pack [(63, 1), (62, 1), (6, l % 2 ^ 38)]]
    | none => wordBytes [BitVec.ofNat 64 (ofBytes (s.unseen t (0x4200000 + 8 * k) 8)) &&& 0x80000FFFFFFFFFC0#64]

/-- A tile record with its options: the scratchpad, then the Helm-core cache. -/
def State.scanTile (s : State) (opts t : Nat) : List Byte :=
  s.scanCore t ++ (if opts % 2 = 1 then s.spRead t 0 0x3000000 else []) ++
    (if opts / 2 % 2 = 1 then s.scanCache t else [])

/-- The size of a tile record, and of the buffer. -/
def recordSize (opts : Nat) : Nat := 0x100000 + (if opts % 2 = 1 then 0x3000000 else 0) + (if opts / 2 % 2 = 1 then 0x240000 else 0)
def scanSize (opts : Nat) : Nat := 4096 + 640 * recordSize opts + 0x90000

/-- The whole buffer (Table 19-3). -/
def State.scanBytes (s : State) (opts : Nat) : List Byte :=
  section_ 4096 (bytesOf 4 0x58464957 ++ bytesOf 2 1 ++ bytesOf 2 opts ++ bytesOf 8 (recordSize opts) ++
    bytesOf 8 (s.reg (dbBase + 0x020)).toNat ++ bytesOf 8 (s.reg (dbBase + 0x018)).toNat) ++
  (allTiles.flatMap (s.scanTile opts)) ++
  (List.range 0x12000).flatMap fun i => bytesOf 8 (s.view (8 * i)).toNat

/-! ### Fix (R502 to R507) -/

def dbStatus : Nat := dbBase + 0x008

/-- A write of `DB_FIX_CMD` with one of its commands; while DEBUG_EN is 0 every write is refused, while a scan runs too (R506). -/
def State.fixCommand (s : State) (w : Wr) (code : Nat) (k : State → State) : State :=
  s.write (dbBase + 0x010) w fun s v _ =>
    if ! tst (s.reg dbBase) 0 then s.record dbBase 0x3160
    else if bits v 0 2 != 0 && bits v 0 2 != code then s
    else if s.dbg.scan.isSome then s.record dbBase 0x2160
    else if bits v 0 2 = 0 then s.record dbBase rejected
    else k s

/-- A fix is in force: the stop has begun, or FIXED is set. -/
def State.inFix (s : State) : Bool := tst (s.reg dbStatus) 1 || tst (s.reg dbStatus) 2

/-- A fix is accepted at FULL, in Running or Trimmed, with no fix in force; a trigger of the same nanosecond gives way to the
command (R503). -/
def execFix (w : Wr) (s : State) : Result :=
  .next (s.fixCommand w 1 fun s =>
    let sameTime := tst (s.reg dbStatus) 1 && s.reg (dbBase + 0x020) = s.chron
    if s.stage = 6 && s.normal && s.fixable && (! s.inFix || sameTime) then (s.record dbBase 0).trigger 1 0 0
    else s.record dbBase 0x2160)

/-- At 1,000 ns FIXED is set, and the fix packet leaves. -/
def execFixStopped (s : State) : Result :=
  .next (
    if ! tst (s.reg dbStatus) 1 || s.safety.safe || (s.chron - s.reg (dbBase + 0x020)).toNat < 1000 then s
    else
      let s1 := (s.setField dbStatus 1 1 0).setField dbStatus 2 1 1
      s1.emit ⟨0x0A, none, none, none, none, 0, 0, bits (s.reg (dbBase + 0x018)) 60 3, 0⟩)

def execFixResume (w : Wr) (s : State) : Result :=
  .next (s.fixCommand w 2 fun s =>
    if s.inFix then (s.record dbBase 0).resumeFix 0 else s.record dbBase 0x2160)

/-- A scan keeps the address and options it was started with. -/
def execScan (w : Wr) (s : State) : Result :=
  .next (s.fixCommand w 3 fun s =>
    let opts := bits (s.reg (dbBase + 0x038)) 0 2
    if ! s.inFix then s.record dbBase 0x2160
    else if (s.reg (dbBase + 0x030)).toNat < scanSize opts then s.record dbBase 0x4160
    else
      let s1 := (s.record dbBase 0).setField dbStatus 3 1 1
      { s1 with dbg := { s1.dbg with scan := some ((s.reg (dbBase + 0x028)).toNat, opts) } })

/-- The scan ends with every byte written; on link loss, with those written before (a free number, log 3). -/
def execScanDone (ok : Bool) (s : State) : Result :=
  .next (match s.dbg.scan with
    | some (a, opts) =>
      if ! tst (s.reg dbStatus) 2 || s.safety.safe then s
      else
        let s0 := { s.setField dbStatus 3 1 0 with dbg := { s.dbg with scan := none } }
        let n := scanSize opts
        if ok && s.linkUp then ((s0.hostWrite pf0Space a (s.scanBytes opts)).setReg (dbBase + 0x040) (BitVec.ofNat 64 n)).record dbBase 0
        else
          let d := s0.draw
          let k := d.1.toNat % (n + 1)
          ((d.2.hostWrite pf0Space a ((s.scanBytes opts).take k)).setReg (dbBase + 0x040) (BitVec.ofNat 64 k)).record dbBase 0x6101
    | none => s)

/-! ### Debug registers with rules of their own -/

/-- DEBUG_EN and LOGLINE_EN are set-only; FIX_ON_ERR needs DEBUG_EN (R501, R502). -/
def execDbCfgWrite (w : Wr) (s : State) : Result :=
  .next (s.write dbBase w fun s v m =>
    let old := s.reg dbBase
    let x := v &&& m
    if tst x 2 && ! tst old 0 then s.record dbBase 0x3160
    else
      let new := (old ||| (x &&& 3#64)) &&& 3#64
      let err := if tst m 2 then bits x 2 1 else bits old 2 1
      s.setReg dbBase (setBits new 2 1 err))

/-- A scratchpad range may name tiles 0 to 639 only. -/
def spRangeBad (a b : Nat) : Bool := 639 < a / 2 ^ 26 % 1024 || 639 < b / 2 ^ 26 % 1024

/-- A watchpoint entry is written; accesses within 2 µs see the old or the new one (R502, R511). -/
def execDbWpCfgWrite (n : Fin 16) (w : Wr) (s : State) : Result :=
  .next (
    let a := dbBase + 0x100 + 0x20 * n
    s.write a w fun s v m =>
      let new := merge (s.reg a) v m &&& 0xFF80000000000FFF#64
      let lo := bits (s.reg (a + 8)) 0 56
      let hi := bits (s.reg (a + 16)) 0 56
      let kind := bits new 61 2
      if tst new 56 && ! tst (s.reg dbBase) 0 then s.record dbBase 0x3160
      else if kind = 3 || hi < lo || (kind = 0 && spRangeBad lo hi) then s.record dbBase rejected
      else
        let s1 := s.setReg a new
        { s1 with dbg := { s1.dbg with wpOld := FMap.put 0 s1.dbg.wpOld n (s.reg a), wpAt := FMap.put 0 s1.dbg.wpAt n s.chron } })

/-- A write of a tag filter or mask clears its bucket (R517). -/
def execDbTagfWrite (n : Fin 8) (mask : Bool) (w : Wr) (s : State) : Result :=
  .next (
    let a := dbBase + 0x400 + 0x10 * n + (if mask then 8 else 0)
    s.write a w fun s v m =>
      let keep : Word := if mask then 0xFFFFFFFF#64 else 0xC0000FFFFFFFFFFF#64
      (s.setReg a (merge (s.reg a) v m &&& keep)).clearRegs (span (dbBase + 0x500 + 0x30 * n) 6))

/-- Every `DB_` counter, with hits and buckets. -/
def debugCounters : List Nat :=
  span (dbBase + 0x318) 4 ++ ((List.range 16).map fun n => dbBase + 0x118 + 0x20 * n) ++ span (dbBase + 0x500) 60

def execDbCntClear (w : Wr) (s : State) : Result := .next (s.trigger1 (dbBase + 0x7F8) w fun s => s.clearRegs debugCounters)

/-- Every 10 µs each tile sends its bucket sums (R517). -/
def execTagBucketReport (s : State) : Result :=
  .next (
    if ! s.moving || ! s.due 13 10000 then s
    else (s.tiles.map (·.1)).foldl (fun acc t =>
      let sums := (acc.tile t).upkeep.tagSums
      (sums.foldl (fun a p => a.count (dbBase + 0x500 + 0x30 * (p.1 / 6) + 8 * (p.1 % 6)) p.2.toNat) acc).onUpkeep t
        fun u => { u with tagSums := [] }) (s.acted 13))

/-! ### Reads (R7, R53, R366, R516) -/

/-- Counters of the host interface, the security block, the rails, the Sextant, the Binnacles and the memory tiers. -/
def blockCounters : List Nat :=
  span (hiBase + 0x100) 7 ++ span (scBase + 0x3C0) 2 ++ [pwBase + 0x048] ++ span (sxBase + 0x300) 9 ++ [sxBase + 0x428] ++
    span (bnBase + 0x270) 6 ++ tierCounters

/-- Event counters of a tile that `TL_CNT_CLEAR` does not clear: of its Helm core, Lodestar and the norm watch. -/
def ownCounters : List Nat :=
  [0x8B8, 0x8C0, 0x8C8] ++ span 0x980 3 ++ span 0xC00 3 ++ span 0x708 3 ++ (List.range 16).flatMap fun n => span (0x410 + 0x30 * n) 4

/-- The 64-bit counters of all blocks. -/
def isCounter (a : Nat) : Bool :=
  if inTile a then
    (tileCounters ((a - 0x100000) / 0x1000)).contains a || (tileTimers ++ ownCounters).contains ((a - 0x100000) % 0x1000)
  else (blockCounters ++ debugCounters ++ lightCounters ++ fabricCounters).contains a

/-- Where the latched half of a counter is kept for a function. -/
def latchKey (fn : Fin 257) (a : Nat) : Nat := fn.val * 2 ^ 32 + a

/-- A 32-bit read of the lower half of a counter latches its upper half for the function, a read of the upper half gives it up (R516). -/
def State.latch (s : State) (fn : Fin 257) (a : Nat) : State :=
  if isCounter a then
    { s with dbg := { s.dbg with latched := FMap.insert s.dbg.latched (latchKey fn a) (BitVec.ofNat 64 (bits (s.view a) 32 32)) } }
  else s
def State.unlatch (s : State) (fn : Fin 257) (a : Nat) : State :=
  { s with dbg := { s.dbg with latched := FMap.erase s.dbg.latched (latchKey fn a) } }

/-- A read at a BAR0 offset through a function: its value, and what a refused one leaves. Reads of 64 bits at aligned addresses and of 32
bits at either half are legal (R7); PF1 and the virtual functions read their own registers, and elsewhere zero (R53, R366); what is not
open reads zero (R463, R470, R505). No row of the table is a read (log 14). -/
def State.readReg (s : State) (fn : Fin 257) (at_ size : Nat) : State × Word :=
  let a := at_ - at_ % 8
  if fn != 0 && a < 0x1000 && ! s.cutOff then
    if size = 8 && at_ % 8 = 0 then (s, s.viewFn (fn.val - 1) a)
    else if size = 4 && at_ % 4 = 0 then (s, BitVec.ofNat 64 (bits (s.viewFn (fn.val - 1) a) (8 * (at_ % 8)) 32))
    else (s.wrongSize a, 0)
  else match s.turnedAway fn a with
    | some s1 => (s1, 0)
    | none =>
      if size = 8 && at_ % 8 = 0 then (s, s.view a)
      else if size = 4 && at_ % 8 = 0 then (s.latch fn a, BitVec.ofNat 64 (bits (s.view a) 0 32))
      else if size = 4 && at_ % 8 = 4 then
        (s.unlatch fn a, (FMap.find? s.dbg.latched (latchKey fn a)).getD (BitVec.ofNat 64 (bits (s.view a) 32 32)))
      else (s.wrongSize a, 0)

/-! ### The log line (R512, R515) -/

/-- The next tile to serve on a column path, round-robin from its place. -/
def State.nextRow (s : State) (c : Nat) : Option Nat :=
  let r0 := FMap.get 0 s.dbg.rowAt c
  ((List.range 32).map fun i => (r0 + i) % 32).find? fun r => ! (s.tile (20 * r + c)).upkeep.trace.isEmpty

/-- The log line takes one packet: the columns in turn, in each its tiles in turn. -/
def execLogPacketSend (s : State) : Result :=
  .next (
    let cols := (List.range 20).map fun i => (s.dbg.column + i) % 20
    if ! s.moving || ! tst (s.reg dbBase) 1 then s
    else match cols.findSome? fun c => (s.nextRow c).map fun r => (c, r) with
      | none => s
      | some (c, r) =>
        let t := 20 * r + c
        match (s.tile t).upkeep.trace with
        | [] => s
        | p :: rest =>
          let s1 := (s.onUpkeep t fun u => { u with trace := rest }).sendPacket p
          { s1 with dbg := { s1.dbg with column := (c + 1) % 20, rowAt := FMap.put 0 s1.dbg.rowAt c ((r + 1) % 32) } })

end Sys2Proof.Machine
end

