-- ==== Sys2Proof/Machine/Lands.lean ====
section
/-! DEFINITION. The management port (R530), the lands of the boundary scan (Table 20-1), and the test access port (R535 to R537). -/

namespace Sys2Proof.Machine

open Sys2Proof

/-! ### Management port -/

/-- A command is answered while at least one Binnacle runs, in the safe state too. -/
def State.mgmtAnswer (s : State) (ws : List Word) : State :=
  { s with dbg := { s.dbg with mgmtOut := if s.runsB false || s.runsB true then ws else [] } }

def execIdent (s : State) : Result := .next (s.mgmtAnswer [s.view bnBase])

def execState (s : State) : Result := .next (s.mgmtAnswer [s.view (bnBase + 0x008), s.view (bnBase + 0x200), s.view (bnBase + 0x208)])

/-- Reading ERR_HEAD releases the alert. -/
def execErrHead (s : State) : Result :=
  .next (
    let s1 := s.mgmtAnswer [s.view (bnBase + 0x210)]
    if s.runsB false || s.runsB true then { s1 with safety := { s1.safety with alertN := true } } else s1)

def execErrRead (area : Bool) (entry : Fin 16) (seq : BitVec 32) (s : State) : Result :=
  .next (s.mgmtAnswer (s.errorRecord area entry seq.toNat))

/-! ### Test access port -/

/-- IDCODE's value. -/
def idcodeValue : BitVec 32 := 0x1716058B

/-! ### Boundary scan (R520, R537) -/

/-- Boundary-scan coverage of a group of lands (Table 20-1): the standards, and what its cells do. -/
inductive Coverage where
  | none
  | dc (observeOnly : Bool)
  | ac (observeOnly driveOnly : Bool)
  | port
  deriving DecidableEq, Repr

/-- A group of lands: its number of lands, and the coverage of the cells that they have. -/
structure LandGroup where
  name : String
  lands : Nat
  coverage : Coverage
  deriving DecidableEq, Repr

/-- The groups of Table 20-1; the PCI Express group by its pairs and its reset land. -/
def landGroups : List LandGroup := [
  ⟨"Power", 6040, .none⟩, ⟨"PW_GND", 7680, .none⟩, ⟨"PW_SENSE", 20, .none⟩, ⟨"MT_MID", 1728, .dc false⟩, ⟨"HI_PE", 64, .ac false false⟩,
  ⟨"HI_PERST_N", 1, .dc true⟩, ⟨"REFCLK", 4, .ac true false⟩, ⟨"DB_LOG", 16, .ac false true⟩, ⟨"PW_PMB", 6, .dc false⟩, ⟨"PW_PG", 16, .dc true⟩,
  ⟨"BN_MGMT", 3, .dc false⟩, ⟨"Control", 5, .dc true⟩, ⟨"LP_STRAP", 8, .dc true⟩, ⟨"LP_LASER_EN", 8, .dc true⟩, ⟨"DB_TAP", 5, .port⟩,
  ⟨"Reserved", 96, .none⟩]

/-- The lands with observe-only cells that the model has a level for. -/
def observed : List Land :=
  [.perstN] ++ (List.finRange 16).map .powerGood ++ [.resetN, .eoffN, .preq, .tripN, .faultN] ++ (List.finRange 8).map .strap ++
    (List.finRange 8).map .laserEn

/-- The level of a land, under every instruction that of service (R537). A strap has the level sampled last. -/
def State.landLevel (s : State) : Land → Bool
  | .perstN => ! s.start.perstLow
  | .powerGood i => s.safety.pg.getLsbD i
  | .resetN => ! s.start.resetLow
  | .eoffN => ! s.safety.eoff
  | .preq => s.safety.preq
  | .tripN => s.safety.tripN
  | .faultN => s.safety.faultN
  | .strap i => s.start.straps.getLsbD i
  | .laserEn p => s.laserOn p

/-- Select an instruction; the observe-only cells of the boundary register capture their lands (log 113). -/
def State.scanSelect (s : State) (ir : BitVec 8) : State :=
  let s1 := s.tapSelect ir
  if s1.dbg.tap = .boundary then { s1 with dbg := { s1.dbg with cells := observed.map fun l => (l, s1.landLevel l) } } else s1

/-- What the selected data register captures, where the spec says it: the identification code, or one zero bit; of the boundary register
`dbg.cells` holds the observe-only cells. -/
def State.captured (s : State) : Option (BitVec 32) :=
  match s.dbg.tap with
  | .idcode => some idcodeValue
  | .bypass => some 0
  | .boundary => none

def execTapReset (s : State) : Result := .next (s.scanSelect 0x01)
def execIdcode (s : State) : Result := .next (s.scanSelect 0x01)
def execSamplePreload (s : State) : Result := .next (s.scanSelect 0x02)
def execExtest (s : State) : Result := .next (s.scanSelect 0x03)
def execExtestPulse (s : State) : Result := .next (s.scanSelect 0x04)
def execExtestTrain (s : State) : Result := .next (s.scanSelect 0x05)
def execClamp (s : State) : Result := .next (s.scanSelect 0x06)
def execHighz (s : State) : Result := .next (s.scanSelect 0x07)

/-- BYPASS, and any code that names no instruction. A code of another instruction is that row's. -/
def execBypass (code : BitVec 8) (s : State) : Result :=
  .next (if 1 ≤ code.toNat && code.toNat ≤ 7 then s else s.scanSelect code)

end Sys2Proof.Machine
end

