-- ==== Sys2Proof/Machine/Matrix.lean ====
section
/-! DEFINITION. The matrix engine: MMUL, MSCORE and MREAD (R114 to R117, R146, R154 to R157), and its checks (R34, R476,
R477). -/

namespace Sys2Proof.Machine

open Sys2Proof

/-- Cell modes (Tables 2-3 and 4-8). -/
inductive Cell where
  | fp8 | mxfp4 | t2 | bf16
  deriving DecidableEq, Repr

/-- The mode of formats A and B: the first matching row of Table 4-8. -/
def cellMode (a b : Fmt) : Cell :=
  let narrow := fun (f : Fmt) => 2 ≤ f.toNat && f.toNat ≤ 8
  if a = 8 && b = 8 then .mxfp4
  else if a = 8 && b = 10 then .t2
  else if narrow a && (narrow b || b = 10) then .fp8
  else .bf16

/-- Input depth of a stationary block (R32). -/
def Cell.depth : Cell → Nat
  | .fp8 => 128 | .mxfp4 => 256 | .t2 => 512 | .bf16 => 128

/-- An element at the edge of the array, without its block scale: FP32 rounds to BF16 in BF16 mode (Table 4-8). -/
def edge (f : Fmt) (g : Geo) (img : List (List Byte)) (r c : Nat) : Num :=
  if f = 0 then Enc.bf16.fit .rne (g.value img r c)
  else if f.block && g.scale img r c % 256 = 255 then .nan
  else f.elem (g.code img r c)

/-- The exponent of a block scale, 0 without one (R154). -/
def scaleExp (f : Fmt) (g : Geo) (img : List (List Byte)) (r c : Nat) : Int :=
  if f.block then (g.scale img r c : Int) - 127 else 0

/-- A number times a power of two. -/
def Num.shift (x : Num) (k : Int) : Num :=
  match x with
  | .fin n m e => .fin n m (e + k)
  | y => y

/-- Exact sum of a group (R155). -/
def exactSum (xs : List Num) : Num := xs.foldl (Num.add .rne) (.fin false 0 0)

/-- One level of the pairwise tree, each addition rounded to FP32 (R156). -/
def pairLevel : List Num → List Num
  | a :: b :: xs => f32 (toF32 (Num.add .rne a b)) :: pairLevel xs
  | xs => xs

/-- The five-level tree over 32 products; a missing product counts as +0 (R156). -/
def tree32 (xs : List Num) : Num :=
  let full := xs ++ List.replicate (32 - xs.length) (.fin false 0 0)
  (pairLevel (pairLevel (pairLevel (pairLevel (pairLevel full))))).headD (.fin false 0 0)

/-- One depth group added to the accumulator with one rounding (R155, R156). -/
def addGroup (bf : Bool) (acc : BitVec 32) (products : List Num) (k : Int) : BitVec 32 :=
  toF32 (Num.add .rne (f32 acc) ((if bf then tree32 products else exactSum products).shift k))

/-- Accumulate the depth groups of one output element, in ascending order (R155 to R157): products by depth, the sum of the
group's scale exponents, the starting value. -/
def accumulate (bf : Bool) (depth : Nat) (prod : Nat → Num) (scale : Nat → Int) (acc0 : BitVec 32) : BitVec 32 :=
  (List.range (cdiv depth 32)).foldl (fun acc j =>
    addGroup bf acc ((List.range (min 32 (depth - 32 * j))).map fun i => prod (32 * j + i)) (scale (32 * j))) acc0

/-- A result of value zero is written as +0 (R157). -/
def plusZero (x : BitVec 32) : BitVec 32 := if x = 0x80000000#32 then 0 else x

/-- FP32 results of a matrix command. `bAt` gives B's row and column for output column and depth. -/
def matrixRows (r : Rec) (ga gb : Geo) (ia ib : List (List Byte)) (bAt : Nat → Nat → Nat × Nat) (start : Nat → Nat → BitVec 32) :
    List (List (BitVec 32)) :=
  let bf := cellMode r.fa r.fb = .bf16
  tabulate r.rows.toNat r.cols.toNat fun i n =>
    accumulate bf r.extent.toNat
      (fun k => Num.mul (edge r.fa ga ia i k) (edge r.fb gb ib (bAt n k).1 (bAt n k).2))
      (fun k => scaleExp r.fa ga ia i k + scaleExp r.fb gb ib (bAt n k).1 (bAt n k).2) (start i n)

/-! ### Checksums (R34, R477) -/

/-- What the checksum cells form of each element, continued from a start: the exact sum of its products, and the sum of their
magnitudes. -/
def matrixSums (r : Rec) (ga gb : Geo) (ia ib : List (List Byte)) (bAt : Nat → Nat → Nat × Nat) (start : Nat → Nat → Num × Num) :
    List (List (Num × Num)) :=
  tabulate r.rows.toNat r.cols.toNat fun i n =>
    (List.range r.extent.toNat).foldl (fun s k =>
      let p := (Num.mul (edge r.fa ga ia i k) (edge r.fb gb ib (bAt n k).1 (bAt n k).2)).shift
        (scaleExp r.fa ga ia i k + scaleExp r.fb gb ib (bAt n k).1 (bAt n k).2)
      (Num.add .rne s.1 p, Num.add .rne s.2 p.abs)) (start i n)

/-- Pairwise levels of FP32 additions. -/
def treeSum : Nat → List Num → Num
  | 0, xs => xs.headD (.fin false 0 0)
  | n + 1, xs => treeSum n (pairLevel xs)

/-- A row or column fails its check: |P − C| exceeds (2G′ + 16) × 2^−24 × M + 2^−132 (R477). Seven levels join the 128 elements of a
row; a column of up to 1,024 takes ten in the same way. One with a value that is not finite is not checked (DEDUCED, log 110: its P
too). -/
def lineFails (g : Nat) (els : List (BitVec 32)) (sums : List (Num × Num)) : Bool :=
  let p := treeSum 10 (els.map f32)
  let c := exactSum (sums.map (·.1))
  let m := exactSum (sums.map (·.2))
  els.all (fun x => (f32 x).isFin) && p.isFin && c.isFin && m.isFin &&
    Num.lt (Num.add .rne ((Num.mul (Num.ofInt (2 * g + 16)) m).shift (-24)) (.fin false 1 (-132))) (Num.add .rne p c.neg).abs

/-- Some row or column of a result fails its check. -/
def checksFail (g cols : Nat) (acc : List (List (BitVec 32))) (sums : List (List (Num × Num))) : Bool :=
  (acc.zip sums).any (fun p => lineFails g p.1 p.2) ||
  (List.range cols).any fun n => lineFails g (acc.map fun row => row.getD n 0) (sums.map fun row => row.getD n (.fin false 0 0, .fin false 0 0))

/-- The accumulator with one word as a fault leaves it. -/
def struck (u : Upset) (acc : List (List (BitVec 32))) : List (List (BitVec 32)) :=
  match u with
  | .cell i n v => acc.modify i fun row => row.set n v
  | _ => acc

/-! ### Commands -/

/-- Busy and fill cycles of a matrix command (R25, R32). -/
def matrixBusy (r : Rec) : Nat × Nat :=
  let m := cellMode r.fa r.fb
  let blocks := cdiv r.extent.toNat m.depth
  (blocks * r.rows.toNat * (if m = .bf16 then 2 else 1), 8 * blocks)

/-- A check of the matrix engine fails: MATRIX_CHECK, and its bit of `TL_ERR` (R34, R476, R477). -/
def State.matrixCheck (s : State) (t : Nat) (u : Upset) : State × Status :=
  match u with
  | .none | .cell .. => (s, 0)
  | .checksum => (s.orReg (tileBase t + 0x018) 4, 0x5010)
  | .residue => (s.orReg (tileBase t + 0x018) 256, 0x5010)

/-- Whether the accumulator's words stay after the command. -/
def State.setKept (s : State) (t : Nat) (r : Rec) (rows : List (List (BitVec 32))) (sums : List (List (Num × Num))) (groups : Nat) : State :=
  s.onWork t fun w =>
    { w with kept := if r.keeps then some ⟨r.ctx.toNat, r.tag, r.rows.toNat, r.cols.toNat, rows, sums, groups⟩
                     else if r.adds then none else w.kept }

/-- A masked entry of MSCORE (R116). -/
def masked (r : Rec) (i n : Nat) : Bool :=
  r.code = 0x11 && r.variant.getLsbD 0 && decide (r.param.toInt + (i : Int) < (n : Int))

/-- A matrix command (R115 to R117). -/
def State.matrix (s : State) (t : Nat) (u : Upset) (bAt : Nat → Nat → Nat × Nat) (r : Rec) : State × Except Status Done :=
  match r.geoA, r.geoB with
  | some ga, some gb =>
    thenDo (s.allParts r) fun s1 p =>
      thenDo (s1.readLines r.ctx.toNat p.1) fun s2 ia =>
        thenDo (s2.readLines r.ctx.toNat p.2.1) fun s3 ib =>
          let old := if r.adds then (s3.tile t).work.kept else none
          let f := s3.takeMatrixFault t u
          let acc := struck f.2 (matrixRows r ga gb ia ib bAt fun i n => match old with | some k => at2 0 k.data i n | none => 0)
          let zero : Num × Num := (.fin false 0 0, .fin false 0 0)
          let sums := matrixSums r ga gb ia ib bAt fun i n => match old with | some k => at2 zero k.sums i n | none => zero
          let groups := (match old with | some k => k.groups | none => 0) + cdiv r.extent.toNat 32
          let g := if cellMode r.fa r.fb = .bf16 then groups + 5 else groups
          let chk := f.1.matrixCheck t (if f.2 != .residue && checksFail g r.cols.toNat acc sums then .checksum else f.2)
          let busy := matrixBusy r
          let s4 := (chk.1.tcount t 0x300 busy.1).tcount t 0x308 busy.2
          if chk.2 != 0 then (s4, .ok ⟨chk.2, .none, busy.1⟩)
          else
            match r.geoD with
            | none => (s4.setKept t r acc sums groups, .ok ⟨0, .none, busy.1⟩)
            | some gd =>
              let xs := tabulate r.rows.toNat r.cols.toNat fun i n =>
                if masked r i n then .inf true else f32 (plusZero (at2 0 acc i n))
              let quiet := (tabulate r.rows.toNat r.cols.toNat fun i n => masked r i n).foldl (fun k l => k + l.countP id) 0
              thenDo (s4.writeOut r gd p.2.2 .rne xs quiet) fun s5 m => (s5.setKept t r acc sums groups, .ok ⟨0, m, busy.1⟩)
  | _, _ => (s, .error 0x2005)

/-- MMUL (R115): B has one output column per row (R146). -/
def execMmul (t : Tile) (u : Upset) (s : State) : Result := .next (s.compute t 0 0x10 fun s r => s.matrix t u (fun n k => (n, k)) r)

/-- MSCORE (R116): B has one key per row. -/
def execMscore (t : Tile) (u : Upset) (s : State) : Result := .next (s.compute t 0 0x11 fun s r => s.matrix t u (fun n k => (n, k)) r)

/-- MREAD (R117): B has one position per row; it runs in BF16 mode. -/
def execMread (t : Tile) (u : Upset) (s : State) : Result := .next (s.compute t 0 0x12 fun s r => s.matrix t u (fun n k => (k, n)) r)

end Sys2Proof.Machine
end

