-- ==== Sys2Proof/Machine/Register.lean ====
section
/-! DEFINITION. REGISTER_WRITE: a write to a register that has no row of its own (R5, R7, R8), and what hangs on the
register written (R375, R387, R427, R429, R329, R58, R297). -/

namespace Sys2Proof.Machine

open Sys2Proof

/-- The management ring's place and sizes are bound while the ring is enabled (R387): a write of such a register is refused
whole, and of `HI_MGMT_CFG` each size field that it would change. -/
def State.ringBound (s : State) (a : Nat) (v m : Word) (f : Field) : Bool :=
  tst (s.reg (hiBase + 0x040)) 16 &&
  (a = hiBase + 0x020 || a = hiBase + 0x028 ||
    (a = hiBase + 0x040 && f.lo != 16 && bits (merge (s.reg a) v m) f.lo f.width != bits (s.reg a) f.lo f.width))

/-- A range of tiles that `DB_TR_TILES` may hold: the first at most the last, the last at most 639 (Table 19-11). -/
def tileRange (v : Word) : Bool := bits v 0 10 ≤ bits v 16 10 && bits v 16 10 ≤ 639

/-- Every pair of `SX_WB_LIMIT` is legal. -/
def limitPairs (v : Word) : Bool := (List.range 6).all fun b => limitPair (bits v (8 * b) 8)

/-- The value that a register is given as a whole is illegal: a range of tiles, or the watch bill's limits, of which one illegal pair
leaves the bill unchanged (R279). -/
def illegalWhole (a : Nat) (v : Word) : Bool := (a = dbBase + 0x308 && ! tileRange v) || (a = sxBase + 0x410 && ! limitPairs v)

/-- A field as the machine's condition bounds it. -/
def State.boundField (s : State) (a : Nat) (v m : Word) (f : Field) : Field :=
  if s.ringBound a v m f || illegalWhole a (merge (s.reg a) v m) then { f with legal := fun _ => false } else f

/-- The bits that a write of ones clears: `PW_FLAGS[0]` stands while a cap is below the lowest that can be met (R427). -/
def State.clearable (s : State) (a mask : Nat) : Word :=
  if a = pwBase + 0x038 && (s.power.lowHost || s.power.lowRack) then BitVec.ofNat 64 mask &&& ~~~(1 : Word)
  else BitVec.ofNat 64 mask

/-- What follows a write of a register with fields. -/
def State.afterFields (s old : State) (a : Nat) : State :=
  if a = hiBase + 0x048 then State.drainEvents (eventDepth + 1) s
  else if a = sxBase + 0x410 && s.reg a != old.reg a then s.changeLimits
  else if a = sxRmCfg && tst (s.reg a) 63 != tst (old.reg a) 63 then s.rackEnable (tst (s.reg a) 63)
  else if lpBase + 0x8000 ≤ a && a < lpBase + 0x10000 then State.rerouted old s
  else s

/-- What follows a clear: the first-error address of a tile or of the memory tiers is free for the next error once its
error bits are clear (Tables 2-6 and 11-9). -/
def State.afterClear (s : State) (a : Nat) : State :=
  if inTile a && (a - 0x100000) % 0x1000 = 0x018 then if tst (s.reg a) 1 then s else s.setReg (a + 8) 0
  else if a = mtBase + 0x050 then
    if tst (s.reg a) 1 || tst (s.reg a) 3 || tst (s.reg a) 4 then s else s.setReg (a + 8) 0
  else s

/-- The write of value `v` under mask `m` to an aligned register, by the register's access. A bit that hardware set in this
nanosecond stays set (R10). -/
def State.putRegister (s : State) (a : Nat) (v m : Word) : State :=
  match accessAt a with
  | .rw fs => (s.putFields a v m (fs.map (s.boundField a v m))).afterFields s a
  | .rw1c mask => (s.setReg a (s.reg a &&& ~~~(v &&& m &&& s.clearable a mask &&& ~~~FMap.get 0 s.marks.fresh a))).afterClear a
  | .ro | .own | .wo _ => s

/-- REGISTER_WRITE, at the byte where it begins: the register that holds the byte, and the offset in it. A register whose writes
have a row of their own takes none here, and one that is read-only ignores it. -/
def execRegisterWrite (addr : BitVec 23) (w : Wr) (s : State) : Result :=
  let at_ := addr.toNat + w.sub
  let a := at_ - at_ % 8
  .next (s.write a { w with sub := at_ % 8 } fun s v m => s.putRegister a v m)

end Sys2Proof.Machine
end

