-- ==== Sys2Proof/Machine/Scalar.lean ====
section
/-! DEFINITION. Scalar instructions without memory: integer, branch, floating point, constants, descriptors, state. -/

namespace Sys2Proof.Machine

open Sys2Proof

/-! ### Integer (R68, R96, R97) -/

def execAdd (t : Tile) (rd ra rb : RegNo) (s : State) : Result := .next (s.alu t rd ra rb (· + ·))
def execSub (t : Tile) (rd ra rb : RegNo) (s : State) : Result := .next (s.alu t rd ra rb (· - ·))
def execAnd (t : Tile) (rd ra rb : RegNo) (s : State) : Result := .next (s.alu t rd ra rb (· &&& ·))
def execOr (t : Tile) (rd ra rb : RegNo) (s : State) : Result := .next (s.alu t rd ra rb (· ||| ·))
def execXor (t : Tile) (rd ra rb : RegNo) (s : State) : Result := .next (s.alu t rd ra rb (· ^^^ ·))
def execSll (t : Tile) (rd ra rb : RegNo) (s : State) : Result := .next (s.alu t rd ra rb fun a b => a <<< (b.toNat % 64))
def execSrl (t : Tile) (rd ra rb : RegNo) (s : State) : Result := .next (s.alu t rd ra rb fun a b => a >>> (b.toNat % 64))
def execSra (t : Tile) (rd ra rb : RegNo) (s : State) : Result := .next (s.alu t rd ra rb fun a b => a.sshiftRight (b.toNat % 64))
def execMul (t : Tile) (rd ra rb : RegNo) (s : State) : Result := .next (s.alu t rd ra rb (· * ·))
def execMulh (t : Tile) (rd ra rb : RegNo) (s : State) : Result :=
  .next (s.alu t rd ra rb fun a b => ((a.signExtend 128 * b.signExtend 128) >>> 64).setWidth 64)
def execMulhu (t : Tile) (rd ra rb : RegNo) (s : State) : Result :=
  .next (s.alu t rd ra rb fun a b => ((a.setWidth 128 * b.setWidth 128) >>> 64).setWidth 64)
def execDiv (t : Tile) (rd ra rb : RegNo) (s : State) : Result := .next (s.alu t rd ra rb fun a b => a.sdiv b)
def execDivu (t : Tile) (rd ra rb : RegNo) (s : State) : Result := .next (s.alu t rd ra rb (· / ·))
def execRem (t : Tile) (rd ra rb : RegNo) (s : State) : Result := .next (s.alu t rd ra rb fun a b => a.srem b)
def execRemu (t : Tile) (rd ra rb : RegNo) (s : State) : Result := .next (s.alu t rd ra rb (· % ·))
def execSlt (t : Tile) (rd ra rb : RegNo) (s : State) : Result := .next (s.alu t rd ra rb fun a b => word1 (a.slt b))
def execSltu (t : Tile) (rd ra rb : RegNo) (s : State) : Result := .next (s.alu t rd ra rb fun a b => word1 (a.ult b))
def execMin (t : Tile) (rd ra rb : RegNo) (s : State) : Result := .next (s.alu t rd ra rb fun a b => if a.slt b then a else b)
def execMax (t : Tile) (rd ra rb : RegNo) (s : State) : Result := .next (s.alu t rd ra rb fun a b => if a.slt b then b else a)

def execAddi (t : Tile) (rd ra : RegNo) (imm : BitVec 15) (s : State) : Result := .next (s.alui t rd ra imm (· + ·))
def execAndi (t : Tile) (rd ra : RegNo) (imm : BitVec 15) (s : State) : Result := .next (s.alui t rd ra imm (· &&& ·))
def execOri (t : Tile) (rd ra : RegNo) (imm : BitVec 15) (s : State) : Result := .next (s.alui t rd ra imm (· ||| ·))
def execXori (t : Tile) (rd ra : RegNo) (imm : BitVec 15) (s : State) : Result := .next (s.alui t rd ra imm (· ^^^ ·))
def execSlti (t : Tile) (rd ra : RegNo) (imm : BitVec 15) (s : State) : Result :=
  .next (s.alui t rd ra imm fun a b => word1 (a.slt b))

/-- SHI: `imm[7:6]` selects the shift; `0b11` and a non-zero `imm[14:8]` are illegal (Table 4-2). -/
def execShi (t : Tile) (rd ra : RegNo) (imm : BitVec 15) (s : State) : Result :=
  let n := imm.toNat % 64
  let k := imm.toNat / 64 % 4
  .next (s.scalar t 4 (fun _ => if k = 3 || imm.toNat / 256 != 0 then some illegalInstruction else none) fun z =>
    let a := z.rg ra
    z.wg rd (if k = 0 then a <<< n else if k = 1 then a >>> n else a.sshiftRight n))

/-! ### Branches (R94, R96) -/

/-- The condition of B.cond; 6 and 7 are illegal. -/
def condOf (c : BitVec 3) (a b : Word) : Bool :=
  match c.toNat with
  | 0 => a = b | 1 => a != b | 2 => a.slt b | 3 => ! a.slt b | 4 => a.ult b
  | _ => ! a.ult b

def execBCond (t : Tile) (cond : BitVec 3) (ra rb : RegNo) (off : BitVec 12) (s : State) : Result :=
  .next (match s.core t with
    | none => s
    | some n =>
      let z := (s.tile t).slot n
      if 6 ≤ cond.toNat then s.except t n illegalInstruction
      else if condOf cond (z.rg ra) (z.rg rb) then s.retireTo t n id (z.pc + (off.signExtend 48 <<< 2))
      else s.retire t n 4 id)

def execJal (t : Tile) (rd : RegNo) (off : BitVec 20) (s : State) : Result :=
  .next (match s.core t with
    | none => s
    | some n =>
      let z := (s.tile t).slot n
      s.retireTo t n (fun z => z.wg rd ((z.pc + 4).setWidth 64)) (z.pc + (off.signExtend 48 <<< 2)))

/-- JALR: a target that is not a multiple of 4 raises MISALIGNED_ACCESS at the branch (R94). -/
def execJalr (t : Tile) (rd ra : RegNo) (imm : BitVec 15) (s : State) : Result :=
  .next (match s.core t with
    | none => s
    | some n =>
      let z := (s.tile t).slot n
      let a := z.rg ra + imm.signExtend 64
      if a.toNat % 4 != 0 then s.except t n misaligned
      else s.retireTo t n (fun z => z.wg rd ((z.pc + 4).setWidth 64)) (a.setWidth 48))

/-! ### Floating point (R69, R70, R98) -/

def execFadd (t : Tile) (m : FpMode) (rd ra rb : RegNo) (s : State) : Result := .next (s.fp2 t m rd ra rb Num.add)
def execFsub (t : Tile) (m : FpMode) (rd ra rb : RegNo) (s : State) : Result :=
  .next (s.fp2 t m rd ra rb fun r a b => Num.add r a b.neg)
def execFmul (t : Tile) (m : FpMode) (rd ra rb : RegNo) (s : State) : Result :=
  .next (s.fp2 t m rd ra rb fun _ a b => Num.mul a b)
def execFdiv (t : Tile) (m : FpMode) (rd ra rb : RegNo) (s : State) : Result :=
  .next (s.fp2 t m rd ra rb fun r a b => (precEnc m.prec).div r a b)
def execFsqrt (t : Tile) (m : FpMode) (rd ra rb : RegNo) (s : State) : Result :=
  .next (s.fp t m true false rb fun r z => z.wf rd (codeF ((precEnc m.prec).sqrt r (readF m.prec (z.rf ra)))))
def execFmin (t : Tile) (m : FpMode) (rd ra rb : RegNo) (s : State) : Result :=
  .next (s.fp2 t m rd ra rb fun _ a b => pickNum true a b)
def execFmax (t : Tile) (m : FpMode) (rd ra rb : RegNo) (s : State) : Result :=
  .next (s.fp2 t m rd ra rb fun _ a b => pickNum false a b)
def execFcvtI (t : Tile) (m : FpMode) (rd ra rb : RegNo) (s : State) : Result :=
  .next (s.fp t m false false rb fun r z => z.wg rd (toInt64 r (readF m.prec (z.rf ra))))
def execFcvtF (t : Tile) (m : FpMode) (rd ra rb : RegNo) (s : State) : Result :=
  .next (s.fp t m false false rb fun r z => z.wf rd (codeF ((precEnc m.prec).fit r (Num.ofInt (z.rg ra).toInt))))
def execFmvG (t : Tile) (m : FpMode) (rd ra rb : RegNo) (s : State) : Result :=
  .next (s.fp t m false true rb fun _ z => z.wg rd (z.rf ra))
def execFmvF (t : Tile) (m : FpMode) (rd ra rb : RegNo) (s : State) : Result :=
  .next (s.fp t m false true rb fun _ z => z.wf rd (z.rg ra))
def execFeq (t : Tile) (m : FpMode) (rd ra rb : RegNo) (s : State) : Result := .next (s.fcmp t m rd ra rb Num.eqv)
def execFlt (t : Tile) (m : FpMode) (rd ra rb : RegNo) (s : State) : Result := .next (s.fcmp t m rd ra rb Num.lt)
def execFle (t : Tile) (m : FpMode) (rd ra rb : RegNo) (s : State) : Result :=
  .next (s.fcmp t m rd ra rb fun a b => Num.lt a b || Num.eqv a b)
def execFabs (t : Tile) (m : FpMode) (rd ra rb : RegNo) (s : State) : Result :=
  .next (s.fp t m true false rb fun r z => z.wf rd (codeF ((precEnc m.prec).fit r (readF m.prec (z.rf ra)).abs)))
def execFneg (t : Tile) (m : FpMode) (rd ra rb : RegNo) (s : State) : Result :=
  .next (s.fp t m true false rb fun r z => z.wf rd (codeF ((precEnc m.prec).fit r (readF m.prec (z.rf ra)).neg)))

/-! ### Constants, identifiers, descriptors, context state (R89, R96, R101) -/

def execLi (t : Tile) (rd : RegNo) (imm : BitVec 48) (s : State) : Result :=
  .next (s.scalar t 8 (fun _ => none) fun z => z.wg rd (imm.signExtend 64))

/-- LIH: `imm[47:16]` is RSV. -/
def execLih (t : Tile) (rd : RegNo) (imm : BitVec 48) (s : State) : Result :=
  .next (s.scalar t 8 (fun _ => if imm.toNat / 2 ^ 16 != 0 then some illegalInstruction else none) fun z =>
    z.wg rd (setBits (z.rg rd) 48 16 imm.toNat))

/-- SETTAG: `imm[15:0]` is RSV. -/
def execSettag (t : Tile) (imm : BitVec 48) (s : State) : Result :=
  .next (s.scalar t 8 (fun _ => if imm.toNat % 2 ^ 16 != 0 then some illegalInstruction else none) fun z =>
    { z with layop := imm.extractLsb' 16 32 })

/-- TSET: the register field names `t0` to `t15`; `fn[9:2]` is RSV. -/
def execTset (t : Tile) (td ra : RegNo) (fn : BitVec 10) (s : State) : Result :=
  .next (s.scalar t 4 (fun _ => if 16 ≤ td.val || 4 ≤ fn.toNat then some illegalInstruction else none) fun z =>
    z.wt td fn.toNat (z.rg ra))

def execTget (t : Tile) (rd ta : RegNo) (fn : BitVec 10) (s : State) : Result :=
  .next (s.scalar t 4 (fun _ => if 16 ≤ ta.val || 4 ≤ fn.toNat then some illegalInstruction else none) fun z =>
    z.wg rd (z.rt ta fn.toNat))

/-- The state that RDST's `fn` names (Table 4-3). -/
def readState (s : State) (t : Nat) (z : Slot) (fn : Nat) : Word :=
  match fn with
  | 0 => z.stepno.setWidth 64
  | 1 => z.layop.setWidth 64
  | 2 => z.deadline
  | 3 => z.ctx.setWidth 64
  | 4 => z.job.setWidth 64
  | 5 => z.excstat.setWidth 64
  | 6 => s.chron
  | _ => BitVec.ofNat 64 t

def execRdst (t : Tile) (rd : RegNo) (fn : BitVec 10) (s : State) : Result :=
  .next (s.scalar t 4 (fun _ => if 8 ≤ fn.toNat then some illegalInstruction else none) fun z =>
    z.wg rd (readState s t z fn.toNat))

def execWrst (t : Tile) (ra : RegNo) (fn : BitVec 10) (s : State) : Result :=
  .next (s.scalar t 4 (fun _ => if fn = 1 || fn = 2 then none else some illegalInstruction) fun z =>
    if fn = 1 then { z with layop := (z.rg ra).setWidth 32 } else { z with deadline := z.rg ra })

end Sys2Proof.Machine
end

