-- ==== Sys2Proof/Machine/Tensor.lean ====
section
/-! DEFINITION. Tensor instructions (R74 to R79, R103 to R107, R548): checks in their order, then the records of the pieces. -/

namespace Sys2Proof.Machine

open Sys2Proof

/-- What the tb field of an instruction names (Table 4-6). -/
inductive TbKind where
  | rsv
  | desc
  | param
  | engine
  deriving DecidableEq, Repr

/-- A row of Table 4-6: command code, engine, legal variants, tb by variant, and the forming of one batch member's pieces. -/
structure TensorOp where
  code : Nat
  engine : Nat
  vars : Nat
  tb : Nat → TbKind
  /-- the operand whose own stride the record carries: 0 none, 1 A, 2 D (R107, R110) -/
  mem : Nat
  form : Forming → Nat → Nat → Desc → Desc → Option Desc → Nat → Option (List Piece)

/-- Check 1 of R548: RSV bits, variants and the tb engine number (R95, R103, R104, R105). -/
def encodingOk (i : TensorInsn) (vars : Nat) (tb : TbKind) : Bool :=
  i.var.toNat < vars &&
  (i.we || (! i.wr && i.wk = 0 && i.wv = 0)) &&
  (! (i.we && i.wr) || i.wv.toNat < 32) &&
  (i.se || (! i.sr && i.sk = 0 && i.sv = 0)) &&
  (! (i.se && ! i.sr) || i.sv.toNat % 4 < 2) &&
  (match tb with
   | .rsv => i.tb = 0
   | .engine => i.tb.toNat ≤ 8 && i.td = 0 && i.ta = 0
   | _ => true)

/-- A tile set (R75): first, count, stride; the value zero selects the home tile alone. -/
def tileSet (home : Nat) (w : Word) : Option (Nat × Nat × Nat) :=
  if w = 0 then some (home, 1, 0)
  else
    let first := bits w 0 10
    let count := bits w 10 10
    let stride := bits w 20 10
    if bits w 30 34 = 0 && 1 ≤ count && count ≤ 640 && (stride != 0 || count = 1) && first + (count - 1) * stride ≤ 639
    then some (first, count, stride) else none

/-- The tile that executes piece `n`. -/
def tileOf (set : Nat × Nat × Nat) (n : Nat) : Nat := set.1 + n % set.2.1 * set.2.2

/-- The signal of an instruction (R78, R102 to R104): counter, tile field, increment; `none` for no signal. -/
def signalOf (i : TensorInsn) (z : Slot) : Except Status (Option (Nat × Nat)) :=
  if ! i.se then .ok none
  else if ! i.sr then .ok (some (if i.sv.toNat % 4 = 0 then 0x3FF else 0x3FE, i.sv.toNat / 4 + 1))
  else
    let w := z.rg i.sv.toNat
    let tile := bits w 0 10
    if 640 ≤ tile && tile ≤ 1021 then .error 0x2004
    else if bits w 10 16 = 0 then .ok none
    else .ok (some (tile, bits w 10 16))

/-- The wait target (Table 4-5). -/
def waitTarget (i : TensorInsn) (z : Slot) : BitVec 32 :=
  if ! i.we then 0 else if i.wr then (z.rg (i.wv.toNat % 32)).setWidth 32 else i.wv.setWidth 32

/-- The fields that every piece of an instruction carries (R59, R78, R79, R108). -/
def baseRecord (t : Nat) (z : Slot) (i : TensorInsn) (code engine : Nat) (sig : Option (Nat × Nat)) (exec : Nat) : Rec :=
  { code := BitVec.ofNat 8 code, engine := BitVec.ofNat 4 engine, variant := i.var.setWidth 4, ctx := z.ctx, job := z.job,
    home := BitVec.ofNat 10 t, tag := z.stepno.setWidth 2, deadline := z.deadline,
    layer := z.layop.extractLsb' 16 16, oper := z.layop.extractLsb' 0 16, target := waitTarget i z,
    waits := i.we, signals := sig.isSome, waitK := if i.we then i.wk else 0, sigK := if sig.isSome then i.sk else 0,
    sigTile := match sig with
      | some (tile, _) => BitVec.ofNat 10 (if tile = 0x3FF then exec else if tile = 0x3FE then t else tile)
      | none => 0,
    incr := match sig with | some (_, n) => BitVec.ofNat 16 n | none => 0,
    fa := 0, fb := 0, fd := 0, bshape := 0, la := false, lb := false, ld := false,
    rows := 1, extent := 0, cols := 0, param := 0, a := .absent, b := .absent, d := .absent }

/-- The record of a piece, its operands placed. -/
def pieceRecord (r : Rec) (p : Piece) (d a : Desc) (b : Option Desc) (oa ob od : Operand) : Rec :=
  { r with
    fa := a.fmt, fb := match b with | some b => b.fmt | none => 0, fd := d.fmt, bshape := BitVec.ofNat 2 p.bshape,
    la := a.tiled, lb := match b with | some b => b.tiled | none => false, ld := d.tiled,
    rows := BitVec.ofNat 11 p.rows, extent := BitVec.ofNat 24 p.extent, cols := BitVec.ofNat 8 p.cols,
    param := BitVec.ofNat 21 p.param, a := oa, b := ob, d := od }

/-- Records of the pieces in order, with the parts placed so far on each tile. -/
def buildRecords (op : TensorOp) (base : Nat → Rec) (set : Nat × Nat × Nat) (d a : Desc) (b : Option Desc) :
    Nat → Placed → Placed → Placed → List Piece → Option (List (Nat × Rec))
  | _, _, _, _, [] => some []
  | n, pa, pb, pd, p :: ps => do
    let t := tileOf set n
    let (oa, pa) ← placeIf (some a) (op.mem = 1) p.aRaw pa t p.a
    let (ob, pb) ← placeIf b false p.bRaw pb t p.b
    let (od, pd) ← placeIf (some d) (op.mem = 2) .absent pd t p.d
    let ob : Operand := if op.code = 0x27 then ⟨ob.cls, ob.addr ||| (BitVec.ofNat 56 a.rows <<< 36)⟩ else ob
    let rest ← buildRecords op base set d a b (n + 1) pa pb pd ps
    return (t, pieceRecord (base t) p d a b oa ob od) :: rest

/-- The batch count of an instruction: members agree, or hold one (R106). -/
def batchOf (ds : List Desc) : Option Nat :=
  let b := ds.foldl (fun acc d => max acc d.batch) 1
  if ds.all fun d => d.batch = 1 || d.batch = b then some b else none

/-- Check 5 of R548 and the records. -/
def formRecords (op : TensorOp) (x : Forming) (base : Nat → Rec) (set : Nat × Nat × Nat) (var param : Nat)
    (d a : Desc) (b : Option Desc) : Option (List (Nat × Rec)) := do
  let n ← batchOf (d :: a :: (if op.code = 0x30 then [] else b.toList))
  let ps ← (List.range n).mapM fun m => op.form x var param d a b m
  buildRecords op base set d a b 0 [] [] [] ps.flatten

/-- Places of the crossing through which the mesh hands a tile its commands: from 8 to 32 (R447; log 114). -/
def crossingDepth : Nat := 8 + Config.crossingDepth % 25

/-- A command of tile `t` for tile `u` is accepted: by the tile's own inbox (R31), or by the mesh command channel, where as many wait as
the crossing into `u` holds (R447). -/
def State.acceptsPiece (s : State) (t u : Nat) : Bool :=
  if u = t then s.pathClear t t && (s.tile t).work.inbox.length < inboxDepth else (s.mail.channel.countP fun p => p.1 = u) < crossingDepth

/-- An accepted piece is on its way, and its step counts it and its tile (R61, R79). -/
def State.acceptOne (s : State) (t c : Nat) (no : BitVec 32) (p : Nat × Rec) : State :=
  let s1 := if p.1 = t then s.intoInbox t p.2 else { s with mail := { s.mail with channel := s.mail.channel ++ [p] } }
  (s1.onTally c no fun y =>
    { y with issued := y.issued + 1, tiles := if y.tiles.contains p.1 then y.tiles else y.tiles ++ [p.1] }).tcount t 0x8C0 1

/-- Pieces issue in piece order (R79): those that are accepted go, the others are left. -/
def State.acceptSome (s : State) (t c : Nat) (no : BitVec 32) : List (Nat × Rec) → State × List (Nat × Rec)
  | [] => (s, [])
  | p :: ps => if s.acceptsPiece t p.1 then (s.acceptOne t c no p).acceptSome t c no ps else (s, p :: ps)

/-- Issue the pieces of an instruction: it retires once its last piece has been accepted (R79), and holds its slot until then. -/
def State.issue (s : State) (t n rd count : Nat) (rs : List (Nat × Rec)) : State :=
  let z := (s.tile t).slot n
  let x := s.acceptSome t z.ctx.toNat z.stepno rs
  if x.2.isEmpty then x.1.retire t n 8 fun y => { y with stall := .none }.wg rd (BitVec.ofNat 64 count)
  else x.1.onTile t fun y => y.onSlot n fun y => { y with stall := .issue x.2 rd count }

/-- The slots of a tile whose instruction has not issued all its pieces go on with it. -/
def State.issueOn (s : State) (t : Nat) : State :=
  (s.tile t).slots.foldl (fun acc q =>
    match q.2.stall with
    | .issue rest rd count => acc.issue t q.1 rd count rest
    | _ => acc) s

/-- Check the parameter register (R105). -/
def paramOf (k : TbKind) (i : TensorInsn) (z : Slot) : Option Nat :=
  if k = .param then
    let w := z.rg i.tb.toNat
    if bits w 21 43 = 0 then some w.toNat else none
  else some 0

def descriptorInvalid : Status := 0x2003

/-- The generation of a TROUTE piece (R230). -/
def State.generationOf (s : State) (z : Slot) : BitVec 32 :=
  let r := match s.step? z.ctx.toNat z.stepno with
    | some p => p.generation
    | none => 0
  (z.stepno <<< 3) ||| (r &&& 7)

/-- A tensor instruction with descriptors. -/
def State.tensor (s : State) (t : Nat) (i : TensorInsn) (op : TensorOp) : State :=
  match s.core t with
  | none => s
  | some n =>
    let z := (s.tile t).slot n
    let k := op.tb i.var.toNat
    if ! encodingOk i op.vars k then s.except t n illegalInstruction
    else match tileSet t (z.rg i.gs) with
      | none => s.except t n 0x2004
      | some set =>
        match signalOf i z with
        | .error st => s.except t n st
        | .ok sig =>
          match paramOf k i z, Desc.read (z.desc i.td.toNat), Desc.read (z.desc i.ta.toNat),
                (if k = .desc then (Desc.read (z.desc i.tb.toNat)).map some else some none) with
          | some param, some d, some a, some b =>
            (match formRecords op ⟨s.generationOf z, set.1⟩ (baseRecord t z i op.code op.engine sig) set i.var.toNat param d a b with
             | some rs => s.issue t n i.gd rs.length rs
             | none => s.except t n descriptorInvalid)
          | _, _, _, _ => s.except t n descriptorInvalid

/-- TTOKEN and TFENCE: one piece for each tile of the set (R106). -/
def State.tokens (s : State) (t : Nat) (i : TensorInsn) (code vars : Nat) : State :=
  match s.core t with
  | none => s
  | some n =>
    let z := (s.tile t).slot n
    if ! encodingOk i vars .engine then s.except t n illegalInstruction
    else match tileSet t (z.rg i.gs) with
      | none => s.except t n 0x2004
      | some set =>
        match signalOf i z with
        | .error st => s.except t n st
        | .ok sig =>
          let rs := (List.range set.2.1).map fun m => (tileOf set m, baseRecord t z i code i.tb.toNat sig (tileOf set m))
          s.issue t n i.gd rs.length rs

/-- A form that needs its second source. -/
def withB (f : Desc → Desc → Desc → Nat → Option (List Piece)) (d a : Desc) (b : Option Desc) (m : Nat) : Option (List Piece) :=
  match b with
  | some b => f d a b m
  | none => none

def opMatrix : TensorOp := ⟨0x10, 0, 4, fun _ => .desc, 0, fun _ _ _ d a b m => withB formMatrix d a b m⟩
def opScore : TensorOp := ⟨0x11, 0, 2, fun _ => .desc, 0, fun _ v _ d a b m => withB (formScore (v = 1)) d a b m⟩
def opRead : TensorOp := ⟨0x12, 0, 4, fun _ => .desc, 0, fun _ _ _ d a b m => withB formRead d a b m⟩
def opVop : TensorOp := ⟨0x20, 1, 8, fun v => if v = 0 || 6 ≤ v then .rsv else .desc, 0, fun _ v _ d a b m => formVop v d a b m⟩
def opCvt : TensorOp := ⟨0x21, 1, 4, fun _ => .rsv, 0, fun _ _ _ d a _ m => formSame 0 d a m⟩
def opSfn : TensorOp := ⟨0x22, 1, 1, fun _ => .param, 0, fun _ _ p d a _ m => if p ≤ 15 then formSame p d a m else none⟩
def opStat : TensorOp := ⟨0x23, 1, 3, fun _ => .param, 0, fun _ _ p d a _ m => formStat p d a m⟩
def opNorm : TensorOp := ⟨0x24, 1, 3, fun _ => .desc, 0, fun _ _ _ d a b m => withB formNorm d a b m⟩
def opSmax : TensorOp := ⟨0x25, 1, 2, fun v => if v = 1 then .desc else .rsv, 0,
  fun _ v _ d a b m => if v = 1 then withB formNorm d a b m else formSame 0 d a m⟩
def opRoute : TensorOp := ⟨0x26, 1, 1, fun _ => .param, 0, fun x _ p d a _ _ => formRoute x p d a⟩
def opComb : TensorOp := ⟨0x27, 1, 1, fun _ => .desc, 0, fun _ _ _ d a b _ => b.bind (formComb d a)⟩
/-- TPLD (R125, R216). A landing operand outside the scratchpads is no operand of it, in either form (DESIGN CHOICE, log 106). -/
def opLoad : TensorOp := ⟨0x30, 2, 2, fun v => if v = 1 then .desc else .rsv, 1, fun _ v _ d a b m =>
  if v = 1 then withB formPaged d a b m else if d.loc = 0 && d.isDense then formMove d a a m else none⟩
def opGather : TensorOp := ⟨0x31, 2, 1, fun _ => .desc, 0, fun _ _ _ d a b m => withB (fun d a b m => formIndexed true a d b m) d a b m⟩
/-- TSTW (R128). A source outside the scratchpads is no operand of it (DESIGN CHOICE, log 106). -/
def opStow : TensorOp := ⟨0x38, 6, 1, fun _ => .rsv, 2, fun _ _ _ d a _ m =>
  if a.loc = 0 && a.isDense then formMove d a d m else none⟩
def opScatter : TensorOp := ⟨0x39, 6, 1, fun _ => .desc, 0, fun _ _ _ d a b m => withB (fun d a b m => formIndexed false d a b m) d a b m⟩
def opAtom : TensorOp := ⟨0x3A, 6, 6, fun _ => .desc, 0, fun _ v _ d a b m => withB (formAtom v) d a b m⟩
def opReduce : TensorOp := ⟨0x40, 8, 3, fun _ => .desc, 0, fun x _ _ d a b m => withB (formColl 0x40 x) d a b m⟩
def opCollect : TensorOp := ⟨0x41, 8, 1, fun _ => .desc, 0, fun x _ _ d a b m => withB (formColl 0x41 x) d a b m⟩
def opRowStats : TensorOp := ⟨0x42, 8, 3, fun _ => .desc, 0, fun x _ _ d a b m => withB (formColl 0x42 x) d a b m⟩

def execTmm (t : Tile) (i : TensorInsn) (s : State) : Result := .next (s.tensor t i opMatrix)
def execTscore (t : Tile) (i : TensorInsn) (s : State) : Result := .next (s.tensor t i opScore)
def execTread (t : Tile) (i : TensorInsn) (s : State) : Result := .next (s.tensor t i opRead)
def execTvop (t : Tile) (i : TensorInsn) (s : State) : Result := .next (s.tensor t i opVop)
def execTcvt (t : Tile) (i : TensorInsn) (s : State) : Result := .next (s.tensor t i opCvt)
def execTsfn (t : Tile) (i : TensorInsn) (s : State) : Result := .next (s.tensor t i opSfn)
def execTstat (t : Tile) (i : TensorInsn) (s : State) : Result := .next (s.tensor t i opStat)
def execTnorm (t : Tile) (i : TensorInsn) (s : State) : Result := .next (s.tensor t i opNorm)
def execTsmax (t : Tile) (i : TensorInsn) (s : State) : Result := .next (s.tensor t i opSmax)
def execTroute (t : Tile) (i : TensorInsn) (s : State) : Result := .next (s.tensor t i opRoute)
def execTcomb (t : Tile) (i : TensorInsn) (s : State) : Result := .next (s.tensor t i opComb)
def execTpld (t : Tile) (i : TensorInsn) (s : State) : Result := .next (s.tensor t i opLoad)
def execTgath (t : Tile) (i : TensorInsn) (s : State) : Result := .next (s.tensor t i opGather)
def execTstw (t : Tile) (i : TensorInsn) (s : State) : Result := .next (s.tensor t i opStow)
def execTscat (t : Tile) (i : TensorInsn) (s : State) : Result := .next (s.tensor t i opScatter)
def execTatom (t : Tile) (i : TensorInsn) (s : State) : Result := .next (s.tensor t i opAtom)
def execTcred (t : Tile) (i : TensorInsn) (s : State) : Result := .next (s.tensor t i opReduce)
def execTcgath (t : Tile) (i : TensorInsn) (s : State) : Result := .next (s.tensor t i opCollect)
def execTcrow (t : Tile) (i : TensorInsn) (s : State) : Result := .next (s.tensor t i opRowStats)
def execTtoken (t : Tile) (i : TensorInsn) (s : State) : Result := .next (s.tokens t i 0x01 1)
def execTfence (t : Tile) (i : TensorInsn) (s : State) : Result := .next (s.tokens t i 0x02 3)

end Sys2Proof.Machine
end

