-- ==== Sys2Proof/Machine/Dispatch.lean ====
section
/-! DEFINITION. The meaning of each command: one arm per constructor, one direct call each. -/

namespace Sys2Proof.Machine

open Sys2Proof

def exec (i : Instr) (s : State) : Host.Outcome State Fault Refusal :=
  match i with
  | .registerWrite addr w => Sys2Proof.Machine.execRegisterWrite addr w s
  | .add t rd ra rb => Sys2Proof.Machine.execAdd t rd ra rb s
  | .sub t rd ra rb => Sys2Proof.Machine.execSub t rd ra rb s
  | .and t rd ra rb => Sys2Proof.Machine.execAnd t rd ra rb s
  | .or t rd ra rb => Sys2Proof.Machine.execOr t rd ra rb s
  | .xor t rd ra rb => Sys2Proof.Machine.execXor t rd ra rb s
  | .sll t rd ra rb => Sys2Proof.Machine.execSll t rd ra rb s
  | .srl t rd ra rb => Sys2Proof.Machine.execSrl t rd ra rb s
  | .sra t rd ra rb => Sys2Proof.Machine.execSra t rd ra rb s
  | .mul t rd ra rb => Sys2Proof.Machine.execMul t rd ra rb s
  | .mulh t rd ra rb => Sys2Proof.Machine.execMulh t rd ra rb s
  | .mulhu t rd ra rb => Sys2Proof.Machine.execMulhu t rd ra rb s
  | .div t rd ra rb => Sys2Proof.Machine.execDiv t rd ra rb s
  | .divu t rd ra rb => Sys2Proof.Machine.execDivu t rd ra rb s
  | .rem t rd ra rb => Sys2Proof.Machine.execRem t rd ra rb s
  | .remu t rd ra rb => Sys2Proof.Machine.execRemu t rd ra rb s
  | .slt t rd ra rb => Sys2Proof.Machine.execSlt t rd ra rb s
  | .sltu t rd ra rb => Sys2Proof.Machine.execSltu t rd ra rb s
  | .min t rd ra rb => Sys2Proof.Machine.execMin t rd ra rb s
  | .max t rd ra rb => Sys2Proof.Machine.execMax t rd ra rb s
  | .addi t rd ra imm => Sys2Proof.Machine.execAddi t rd ra imm s
  | .andi t rd ra imm => Sys2Proof.Machine.execAndi t rd ra imm s
  | .ori t rd ra imm => Sys2Proof.Machine.execOri t rd ra imm s
  | .xori t rd ra imm => Sys2Proof.Machine.execXori t rd ra imm s
  | .shi t rd ra imm => Sys2Proof.Machine.execShi t rd ra imm s
  | .slti t rd ra imm => Sys2Proof.Machine.execSlti t rd ra imm s
  | .lb t rd ra imm h => Sys2Proof.Machine.execLb t rd ra imm s h
  | .lbu t rd ra imm h => Sys2Proof.Machine.execLbu t rd ra imm s h
  | .lh t rd ra imm h => Sys2Proof.Machine.execLh t rd ra imm s h
  | .lhu t rd ra imm h => Sys2Proof.Machine.execLhu t rd ra imm s h
  | .lw t rd ra imm h => Sys2Proof.Machine.execLw t rd ra imm s h
  | .lwu t rd ra imm h => Sys2Proof.Machine.execLwu t rd ra imm s h
  | .ld t rd ra imm h => Sys2Proof.Machine.execLd t rd ra imm s h
  | .sb t rs ra imm h => Sys2Proof.Machine.execSb t rs ra imm s h
  | .sh t rs ra imm h => Sys2Proof.Machine.execSh t rs ra imm s h
  | .sw t rs ra imm h => Sys2Proof.Machine.execSw t rs ra imm s h
  | .sd t rs ra imm h => Sys2Proof.Machine.execSd t rs ra imm s h
  | .bCond t cond ra rb off => Sys2Proof.Machine.execBCond t cond ra rb off s
  | .jal t rd off => Sys2Proof.Machine.execJal t rd off s
  | .jalr t rd ra imm => Sys2Proof.Machine.execJalr t rd ra imm s
  | .fadd t m rd ra rb => Sys2Proof.Machine.execFadd t m rd ra rb s
  | .fsub t m rd ra rb => Sys2Proof.Machine.execFsub t m rd ra rb s
  | .fmul t m rd ra rb => Sys2Proof.Machine.execFmul t m rd ra rb s
  | .fdiv t m rd ra rb => Sys2Proof.Machine.execFdiv t m rd ra rb s
  | .fsqrt t m rd ra rb => Sys2Proof.Machine.execFsqrt t m rd ra rb s
  | .fmin t m rd ra rb => Sys2Proof.Machine.execFmin t m rd ra rb s
  | .fmax t m rd ra rb => Sys2Proof.Machine.execFmax t m rd ra rb s
  | .fcvtI t m rd ra rb => Sys2Proof.Machine.execFcvtI t m rd ra rb s
  | .fcvtF t m rd ra rb => Sys2Proof.Machine.execFcvtF t m rd ra rb s
  | .fmvG t m rd ra rb => Sys2Proof.Machine.execFmvG t m rd ra rb s
  | .fmvF t m rd ra rb => Sys2Proof.Machine.execFmvF t m rd ra rb s
  | .feq t m rd ra rb => Sys2Proof.Machine.execFeq t m rd ra rb s
  | .flt t m rd ra rb => Sys2Proof.Machine.execFlt t m rd ra rb s
  | .fle t m rd ra rb => Sys2Proof.Machine.execFle t m rd ra rb s
  | .fabs t m rd ra rb => Sys2Proof.Machine.execFabs t m rd ra rb s
  | .fneg t m rd ra rb => Sys2Proof.Machine.execFneg t m rd ra rb s
  | .fld t rd ra imm h => Sys2Proof.Machine.execFld t rd ra imm s h
  | .fsd t rs ra imm h => Sys2Proof.Machine.execFsd t rs ra imm s h
  | .flw t rd ra imm h => Sys2Proof.Machine.execFlw t rd ra imm s h
  | .fsw t rs ra imm h => Sys2Proof.Machine.execFsw t rs ra imm s h
  | .amoAdd t rd ra rb h => Sys2Proof.Machine.execAmoAdd t rd ra rb s h
  | .amoSwap t rd ra rb h => Sys2Proof.Machine.execAmoSwap t rd ra rb s h
  | .amoAnd t rd ra rb h => Sys2Proof.Machine.execAmoAnd t rd ra rb s h
  | .amoOr t rd ra rb h => Sys2Proof.Machine.execAmoOr t rd ra rb s h
  | .amoXor t rd ra rb h => Sys2Proof.Machine.execAmoXor t rd ra rb s h
  | .amoMin t rd ra rb h => Sys2Proof.Machine.execAmoMin t rd ra rb s h
  | .amoMax t rd ra rb h => Sys2Proof.Machine.execAmoMax t rd ra rb s h
  | .amoMinu t rd ra rb h => Sys2Proof.Machine.execAmoMinu t rd ra rb s h
  | .amoMaxu t rd ra rb h => Sys2Proof.Machine.execAmoMaxu t rd ra rb s h
  | .amoCas t rd ra rb h => Sys2Proof.Machine.execAmoCas t rd ra rb s h
  | .twait t k rs => Sys2Proof.Machine.execTwait t k rs s
  | .twaitRelease t slot => Sys2Proof.Machine.execTwaitRelease t slot s
  | .tsigi t k imm => Sys2Proof.Machine.execTsigi t k imm s
  | .tsig t k rs => Sys2Proof.Machine.execTsig t k rs s
  | .fenceT t => Sys2Proof.Machine.execFenceT t s
  | .fenceP t => Sys2Proof.Machine.execFenceP t s
  | .fenceD t => Sys2Proof.Machine.execFenceD t s
  | .scalarFenceDone t slot => Sys2Proof.Machine.execScalarFenceDone t slot s
  | .stepend t => Sys2Proof.Machine.execStepend t s
  | .rdst t rd fn => Sys2Proof.Machine.execRdst t rd fn s
  | .wrst t ra fn => Sys2Proof.Machine.execWrst t ra fn s
  | .tld t td ra imm h => Sys2Proof.Machine.execTld t td ra imm s h
  | .tst t ts ra imm h => Sys2Proof.Machine.execTst t ts ra imm s h
  | .tset t td ra fn => Sys2Proof.Machine.execTset t td ra fn s
  | .tget t rd ta fn => Sys2Proof.Machine.execTget t rd ta fn s
  | .li t rd imm => Sys2Proof.Machine.execLi t rd imm s
  | .lih t rd imm => Sys2Proof.Machine.execLih t rd imm s
  | .ldl t rd ra disp h => Sys2Proof.Machine.execLdl t rd ra disp s h
  | .sdl t rs ra disp h => Sys2Proof.Machine.execSdl t rs ra disp s h
  | .settag t imm => Sys2Proof.Machine.execSettag t imm s
  | .homeSlotSwitch t slot => Sys2Proof.Machine.execHomeSlotSwitch t slot s
  | .tmm t x => Sys2Proof.Machine.execTmm t x s
  | .tscore t x => Sys2Proof.Machine.execTscore t x s
  | .tread t x => Sys2Proof.Machine.execTread t x s
  | .tvop t x => Sys2Proof.Machine.execTvop t x s
  | .tcvt t x => Sys2Proof.Machine.execTcvt t x s
  | .tsfn t x => Sys2Proof.Machine.execTsfn t x s
  | .tstat t x => Sys2Proof.Machine.execTstat t x s
  | .tnorm t x => Sys2Proof.Machine.execTnorm t x s
  | .tsmax t x => Sys2Proof.Machine.execTsmax t x s
  | .troute t x => Sys2Proof.Machine.execTroute t x s
  | .tcomb t x => Sys2Proof.Machine.execTcomb t x s
  | .tpld t x => Sys2Proof.Machine.execTpld t x s
  | .tgath t x => Sys2Proof.Machine.execTgath t x s
  | .tstw t x => Sys2Proof.Machine.execTstw t x s
  | .tscat t x => Sys2Proof.Machine.execTscat t x s
  | .tatom t x => Sys2Proof.Machine.execTatom t x s
  | .tcred t x => Sys2Proof.Machine.execTcred t x s
  | .tcgath t x => Sys2Proof.Machine.execTcgath t x s
  | .tcrow t x => Sys2Proof.Machine.execTcrow t x s
  | .ttoken t x => Sys2Proof.Machine.execTtoken t x s
  | .tfence t x => Sys2Proof.Machine.execTfence t x s
  | .commandArrival t f => Sys2Proof.Machine.execCommandArrival t s f
  | .queueEntry t parity => Sys2Proof.Machine.execQueueEntry t s parity
  | .engineSelect t e => Sys2Proof.Machine.execEngineSelect t e s
  | .mmul t u => Sys2Proof.Machine.execMmul t u s
  | .mscore t u => Sys2Proof.Machine.execMscore t u s
  | .mread t u => Sys2Proof.Machine.execMread t u s
  | .vop t u => Sys2Proof.Machine.execVop t u s
  | .vcvt t u => Sys2Proof.Machine.execVcvt t u s
  | .vsfn t u => Sys2Proof.Machine.execVsfn t u s
  | .vstat t u => Sys2Proof.Machine.execVstat t u s
  | .vnorm t u => Sys2Proof.Machine.execVnorm t u s
  | .vsmax t u => Sys2Proof.Machine.execVsmax t u s
  | .vroute t u => Sys2Proof.Machine.execVroute t u s
  | .vcomb t u => Sys2Proof.Machine.execVcomb t u s
  | .pload t e x => Sys2Proof.Machine.execPload t e x s
  | .pgath t e x => Sys2Proof.Machine.execPgath t e x s
  | .sstow t e x => Sys2Proof.Machine.execSstow t e x s
  | .sscat t e x => Sys2Proof.Machine.execSscat t e x s
  | .satom t e x => Sys2Proof.Machine.execSatom t e x s
  | .cred t x => Sys2Proof.Machine.execCred t x s
  | .cgath t x => Sys2Proof.Machine.execCgath t x s
  | .crow t x => Sys2Proof.Machine.execCrow t x s
  | .token t e x => Sys2Proof.Machine.execToken t e x s
  | .fence t e x => Sys2Proof.Machine.execFence t e x s
  | .fenceCmdDone t e x => Sys2Proof.Machine.execFenceCmdDone t e x s
  | .pilotStowRequestDone t e k h => Sys2Proof.Machine.execPilotStowRequestDone t e k s h
  | .pieceCompletion t e x => Sys2Proof.Machine.execPieceCompletion t e x s
  | .signalApply t => Sys2Proof.Machine.execSignalApply t s
  | .completionNotice t => Sys2Proof.Machine.execCompletionNotice t s
  | .pieceReport t => Sys2Proof.Machine.execPieceReport t s
  | .stepFlush t => Sys2Proof.Machine.execStepFlush t s
  | .flushConfirm t => Sys2Proof.Machine.execFlushConfirm t s
  | .replayRestart c => Sys2Proof.Machine.execReplayRestart c s
  | .stalledPastDeadline t e x => Sys2Proof.Machine.execStalledPastDeadline t e x s
  | .collectiveContribution t x => Sys2Proof.Machine.execCollectiveContribution t x s
  | .collectiveMemberLost t x => Sys2Proof.Machine.execCollectiveMemberLost t x s
  | .collectivePastDeadline t x => Sys2Proof.Machine.execCollectivePastDeadline t x s
  | .nwCommit t => Sys2Proof.Machine.execNwCommit t s
  | .sweepRead line ok => Sys2Proof.Machine.execSweepRead line ok s
  | .sweepStretch => Sys2Proof.Machine.execSweepStretch s
  | .recordFetch c => Sys2Proof.Machine.execRecordFetch c s
  | .recordFetchDone c ok => Sys2Proof.Machine.execRecordFetchDone c ok s
  | .stepAdmission c => Sys2Proof.Machine.execStepAdmission c s
  | .waypointSaved c => Sys2Proof.Machine.execWaypointSaved c s
  | .stepCompletion c => Sys2Proof.Machine.execStepCompletion c s
  | .kvOpen c => Sys2Proof.Machine.execKvOpen c s
  | .kvFork c => Sys2Proof.Machine.execKvFork c s
  | .kvCancel c => Sys2Proof.Machine.execKvCancel c s
  | .nop c => Sys2Proof.Machine.execNop c s
  | .lodestarCheck c => Sys2Proof.Machine.execLodestarCheck c s
  | .deadlineMissed c => Sys2Proof.Machine.execDeadlineMissed c s
  | .tlCtrlWrite t w => Sys2Proof.Machine.execTlCtrlWrite t w s
  | .tlSpregWrite t n w => Sys2Proof.Machine.execTlSpregWrite t n w s
  | .granuleZeroingDone t n => Sys2Proof.Machine.execGranuleZeroingDone t n s
  | .spScrub t word single => Sys2Proof.Machine.execSpScrub t word single s
  | .tlCntClear t w => Sys2Proof.Machine.execTlCntClear t w s
  | .hcCtrlHalt t w => Sys2Proof.Machine.execHcCtrlHalt t w s
  | .hcCacheFlush t w => Sys2Proof.Machine.execHcCacheFlush t w s
  | .tlNwCfgWrite t n w => Sys2Proof.Machine.execTlNwCfgWrite t n w s
  | .tlNwClear t w => Sys2Proof.Machine.execTlNwClear t w s
  | .hcLsCfgWrite t n w => Sys2Proof.Machine.execHcLsCfgWrite t n w s
  | .seamResend t port same => Sys2Proof.Machine.execSeamResend t port same s
  | .spill t w => Sys2Proof.Machine.execSpill t w s
  | .spillDone t => Sys2Proof.Machine.execSpillDone t s
  | .spillFailed t st => Sys2Proof.Machine.execSpillFailed t st s
  | .restore t w => Sys2Proof.Machine.execRestore t w s
  | .restoreDone t => Sys2Proof.Machine.execRestoreDone t s
  | .sxWbSet w => Sys2Proof.Machine.execSxWbSet w s
  | .watchBillAdjust => Sys2Proof.Machine.execWatchBillAdjust s
  | .ftLoad w => Sys2Proof.Machine.execFtLoad w s
  | .ftUnload w => Sys2Proof.Machine.execFtUnload w s
  | .ftLoadDone => Sys2Proof.Machine.execFtLoadDone s
  | .ftSlotActivate t n => Sys2Proof.Machine.execFtSlotActivate t n s
  | .ftRewriteDone t n => Sys2Proof.Machine.execFtRewriteDone t n s
  | .mtXlatInv w => Sys2Proof.Machine.execMtXlatInv w s
  | .xlatInvDone => Sys2Proof.Machine.execXlatInvDone s
  | .harvest w => Sys2Proof.Machine.execHarvest w s
  | .mtLostClear w => Sys2Proof.Machine.execMtLostClear w s
  | .mtCntClear w => Sys2Proof.Machine.execMtCntClear w s
  | .farWinWrite n w => Sys2Proof.Machine.execFarWinWrite n w s
  | .farLevelAnswer n level => Sys2Proof.Machine.execFarLevelAnswer n level s
  | .farNodeUnreachable n => Sys2Proof.Machine.execFarNodeUnreachable n s
  | .tierLate t e k cause ns => Sys2Proof.Machine.execTierLate t e k cause ns s
  | .tierTimeout t e x applied => Sys2Proof.Machine.execTierTimeout t e x applied s
  | .stackFailed mid n => Sys2Proof.Machine.execStackFailed mid n s
  | .farPortDown => Sys2Proof.Machine.execFarPortDown s
  | .mtPatrolScrub block single => Sys2Proof.Machine.execMtPatrolScrub block single s
  | .lpBlockReceive p block transit => Sys2Proof.Machine.execLpBlockReceive p block s transit
  | .lpResendRequest p seq => Sys2Proof.Machine.execLpResendRequest p seq s
  | .lpResendTimeout p => Sys2Proof.Machine.execLpResendTimeout p s
  | .lpGateOpen p pair => Sys2Proof.Machine.execLpGateOpen p pair s
  | .lpGateClose p pair => Sys2Proof.Machine.execLpGateClose p pair s
  | .lpGateProbe p pair => Sys2Proof.Machine.execLpGateProbe p pair s
  | .lpTrainingDone p pair at200 at100 => Sys2Proof.Machine.execLpTrainingDone p pair at200 at100 s
  | .lpCapabilityBlock p cap => Sys2Proof.Machine.execLpCapabilityBlock p cap s
  | .lpExchangeTimeout p => Sys2Proof.Machine.execLpExchangeTimeout p s
  | .lpTestDone p counts => Sys2Proof.Machine.execLpTestDone p counts s
  | .lpTestResult p counts => Sys2Proof.Machine.execLpTestResult p counts s
  | .lpRestart p => Sys2Proof.Machine.execLpRestart p s
  | .lpRetrain p w => Sys2Proof.Machine.execLpRetrain p w s
  | .lpLinkState p x => Sys2Proof.Machine.execLpLinkState p x s
  | .lpSlotAdvertisement p slots => Sys2Proof.Machine.execLpSlotAdvertisement p slots s
  | .routeHoldRelease t node => Sys2Proof.Machine.execRouteHoldRelease t node s
  | .lpLossOfLight p => Sys2Proof.Machine.execLpLossOfLight p s
  | .lpCoordWrite w => Sys2Proof.Machine.execLpCoordWrite w s
  | .lpNodeWrite w => Sys2Proof.Machine.execLpNodeWrite w s
  | .lpTopoWrite w => Sys2Proof.Machine.execLpTopoWrite w s
  | .lpCtrlWrite w => Sys2Proof.Machine.execLpCtrlWrite w s
  | .lpJobvcWrite p n w => Sys2Proof.Machine.execLpJobvcWrite p n w s
  | .lpCfgWrite p w => Sys2Proof.Machine.execLpCfgWrite p w s
  | .lpCntClear w => Sys2Proof.Machine.execLpCntClear w s
  | .lpLoop p w => Sys2Proof.Machine.execLpLoop p w s
  | .lpLoopDone p stayed errs => Sys2Proof.Machine.execLpLoopDone p stayed errs s
  | .remoteRequestSend t => Sys2Proof.Machine.execRemoteRequestSend t s
  | .landingCheck p q => Sys2Proof.Machine.execLandingCheck p q s
  | .requestLand k h => Sys2Proof.Machine.execRequestLand k s h
  | .remoteResponse t id st grant data => Sys2Proof.Machine.execRemoteResponse t id st grant data s
  | .remoteTimeout t id => Sys2Proof.Machine.execRemoteTimeout t id s
  | .fbLandWrite c w => Sys2Proof.Machine.execFbLandWrite c w s
  | .landingDrainDone => Sys2Proof.Machine.execLandingDrainDone s
  | .fbReachInv w => Sys2Proof.Machine.execFbReachInv w s
  | .fbDenyClear w => Sys2Proof.Machine.execFbDenyClear w s
  | .fbCntClear w => Sys2Proof.Machine.execFbCntClear w s
  | .mgmtSweep => Sys2Proof.Machine.execMgmtSweep s
  | .create => Sys2Proof.Machine.execCreate s
  | .destroy => Sys2Proof.Machine.execDestroy s
  | .destroyDone c => Sys2Proof.Machine.execDestroyDone c s
  | .bind => Sys2Proof.Machine.execBind s
  | .resume => Sys2Proof.Machine.execResume s
  | .chartLoad => Sys2Proof.Machine.execChartLoad s
  | .loadDone c chart => Sys2Proof.Machine.execLoadDone c chart s
  | .chartActivate => Sys2Proof.Machine.execChartActivate s
  | .chartDiscard => Sys2Proof.Machine.execChartDiscard s
  | .hostCompletionError x => Sys2Proof.Machine.execHostCompletionError x s
  | .hostPoisonedWrite => Sys2Proof.Machine.execHostPoisonedWrite s
  | .hostLinkDown => Sys2Proof.Machine.execHostLinkDown s
  | .pcieLinkUp rate width flit => Sys2Proof.Machine.execPcieLinkUp rate width flit s
  | .linkRetrainTimer => Sys2Proof.Machine.execLinkRetrainTimer s
  | .hiCntClear w => Sys2Proof.Machine.execHiCntClear w s
  | .flrFunction fn => Sys2Proof.Machine.execFlrFunction fn s
  | .flrPf0 => Sys2Proof.Machine.execFlrPf0 s
  | .hotReset => Sys2Proof.Machine.execHotReset s
  | .fwVerify w => Sys2Proof.Machine.execFwVerify w s
  | .firmwareAccept => Sys2Proof.Machine.execFirmwareAccept s
  | .scSvnAdvance w => Sys2Proof.Machine.execScSvnAdvance w s
  | .scCertCmd w => Sys2Proof.Machine.execScCertCmd w s
  | .scAttCmd w => Sys2Proof.Machine.execScAttCmd w s
  | .attestationDone => Sys2Proof.Machine.execAttestationDone s
  | .install w => Sys2Proof.Machine.execInstall w s
  | .remove w => Sys2Proof.Machine.execRemove w s
  | .keylock w => Sys2Proof.Machine.execKeylock w s
  | .scPartWrite n w => Sys2Proof.Machine.execScPartWrite n w s
  | .run w => Sys2Proof.Machine.execRun w s
  | .stow w => Sys2Proof.Machine.execStow w s
  | .off w => Sys2Proof.Machine.execOff w s
  | .powerTransitionDone => Sys2Proof.Machine.execPowerTransitionDone s
  | .pwCapWrite w => Sys2Proof.Machine.execPwCapWrite w s
  | .pwCtrlWrite w => Sys2Proof.Machine.execPwCtrlWrite w s
  | .pwCntClear w => Sys2Proof.Machine.execPwCntClear w s
  | .sxCntClear w => Sys2Proof.Machine.execSxCntClear w s
  | .sextantCycle => Sys2Proof.Machine.execSextantCycle s
  | .clampPointStep => Sys2Proof.Machine.execClampPointStep s
  | .pointChangeDone t => Sys2Proof.Machine.execPointChangeDone t s
  | .rackLineRead => Sys2Proof.Machine.execRackLineRead s
  | .rackStatusWrite => Sys2Proof.Machine.execRackStatusWrite s
  | .capLeaseExpired => Sys2Proof.Machine.execCapLeaseExpired s
  | .pmbusRead rails => Sys2Proof.Machine.execPmbusRead rails s
  | .pmbusAlert rail mv watts fault => Sys2Proof.Machine.execPmbusAlert rail mv watts fault s
  | .capShare => Sys2Proof.Machine.execCapShare s
  | .droopEvent die mv => Sys2Proof.Machine.execDroopEvent die mv s
  | .droopRestore die => Sys2Proof.Machine.execDroopRestore die s
  | .thermalSample temps => Sys2Proof.Machine.execThermalSample temps s
  | .throttleStep => Sys2Proof.Machine.execThrottleStep s
  | .throttleRelease => Sys2Proof.Machine.execThrottleRelease s
  | .trimmedExit => Sys2Proof.Machine.execTrimmedExit s
  | .islandTempClamp => Sys2Proof.Machine.execIslandTempClamp s
  | .thermalTrip => Sys2Proof.Machine.execThermalTrip s
  | .supplyFault rail => Sys2Proof.Machine.execSupplyFault rail s
  | .islandOverrun x => Sys2Proof.Machine.execIslandOverrun x s
  | .crossingRestart x => Sys2Proof.Machine.execCrossingRestart x s
  | .coldReset cause => Sys2Proof.Machine.execColdReset cause s
  | .resetRelease straps => Sys2Proof.Machine.execResetRelease straps s
  | .warmReset w => Sys2Proof.Machine.execWarmReset w s
  | .warmResetFlushDone => Sys2Proof.Machine.execWarmResetFlushDone s
  | .tileReset w => Sys2Proof.Machine.execTileReset w s
  | .tileResetDone t pass => Sys2Proof.Machine.execTileResetDone t pass s
  | .memoryStageDone near mid => Sys2Proof.Machine.execMemoryStageDone near mid s
  | .meshStageDone bad => Sys2Proof.Machine.execMeshStageDone bad s
  | .lightStageDone => Sys2Proof.Machine.execLightStageDone s
  | .tilesStageDone failed => Sys2Proof.Machine.execTilesStageDone failed s
  | .startTimeout => Sys2Proof.Machine.execStartTimeout s
  | .continue w => Sys2Proof.Machine.execContinue w s
  | .bnHeartbeat b => Sys2Proof.Machine.execBnHeartbeat b s
  | .bnTakeover => Sys2Proof.Machine.execBnTakeover s
  | .hbPathLost line good => Sys2Proof.Machine.execHbPathLost line good s
  | .binnaclesLost => Sys2Proof.Machine.execBinnaclesLost s
  | .sextantLost => Sys2Proof.Machine.execSextantLost s
  | .emergencyOff => Sys2Proof.Machine.execEmergencyOff s
  | .meshLinkRetrain t port pass => Sys2Proof.Machine.execMeshLinkRetrain t port pass s
  | .vectorKat t pass => Sys2Proof.Machine.execVectorKat t pass s
  | .correctedSummary => Sys2Proof.Machine.execCorrectedSummary s
  | .injectChecksum w => Sys2Proof.Machine.execInjectChecksum w s
  | .injectResidue w => Sys2Proof.Machine.execInjectResidue w s
  | .injectVectorResidue w => Sys2Proof.Machine.execInjectVectorResidue w s
  | .injectHbMessage w => Sys2Proof.Machine.execInjectHbMessage w s
  | .injectLiveLine w => Sys2Proof.Machine.execInjectLiveLine w s
  | .injectBoth w => Sys2Proof.Machine.execInjectBoth w s
  | .bnCntClear w => Sys2Proof.Machine.execBnCntClear w s
  | .fix w => Sys2Proof.Machine.execFix w s
  | .fixStopped => Sys2Proof.Machine.execFixStopped s
  | .fixResume w => Sys2Proof.Machine.execFixResume w s
  | .scan w => Sys2Proof.Machine.execScan w s
  | .scanDone ok => Sys2Proof.Machine.execScanDone ok s
  | .dbCfgWrite w => Sys2Proof.Machine.execDbCfgWrite w s
  | .dbWpCfgWrite n w => Sys2Proof.Machine.execDbWpCfgWrite n w s
  | .logPacketSend => Sys2Proof.Machine.execLogPacketSend s
  | .tagBucketReport => Sys2Proof.Machine.execTagBucketReport s
  | .dbTagfWrite n mask w => Sys2Proof.Machine.execDbTagfWrite n mask w s
  | .dbCntClear w => Sys2Proof.Machine.execDbCntClear w s
  | .ident => Sys2Proof.Machine.execIdent s
  | .state => Sys2Proof.Machine.execState s
  | .errHead => Sys2Proof.Machine.execErrHead s
  | .errRead area entry seq => Sys2Proof.Machine.execErrRead area entry seq s
  | .tapReset => Sys2Proof.Machine.execTapReset s
  | .idcode => Sys2Proof.Machine.execIdcode s
  | .samplePreload => Sys2Proof.Machine.execSamplePreload s
  | .extest => Sys2Proof.Machine.execExtest s
  | .extestPulse => Sys2Proof.Machine.execExtestPulse s
  | .extestTrain => Sys2Proof.Machine.execExtestTrain s
  | .clamp => Sys2Proof.Machine.execClamp s
  | .highz => Sys2Proof.Machine.execHighz s
  | .bypass code => Sys2Proof.Machine.execBypass code s
  | .hcCacheFlushDone t => Sys2Proof.Machine.execHcCacheFlushDone t s
  | .harvestDone => Sys2Proof.Machine.execHarvestDone s
  | .reachInvDone => Sys2Proof.Machine.execReachInvDone s
  | .svnAdvanceDone => Sys2Proof.Machine.execSvnAdvanceDone s
  | .keyCommandDone => Sys2Proof.Machine.execKeyCommandDone s
  | .certCopyDone => Sys2Proof.Machine.execCertCopyDone s
  | .warmResetRelease => Sys2Proof.Machine.execWarmResetRelease s
  | .powerRemoved => Sys2Proof.Machine.execPowerRemoved s
  | .emergencyOffRelease => Sys2Proof.Machine.execEmergencyOffRelease s

end Sys2Proof.Machine
end

