-- ==== Sys2Proof/Machine/Time.lean ====
section
/-! DEFINITION. One nanosecond of the package: what happens at a tick of the Chronometer whatever is commanded (R453). The light
ports send (R317, R335), requests that waited for a host read are issued (R546), and counters of waiting time count (R55, R279, R301,
R361). -/

namespace Sys2Proof.Machine

open Sys2Proof

/-! ### Ports -/

/-- Each end sends its capability block every 10 µs until it has received its partner's (R317). -/
def State.exchangeTick (s : State) (p : Nat) : State :=
  let age := (s.chron - (s.port p).since).toNat
  if s.lightOn && ! s.looping p && s.portState p = portExchange && 0 < age && age % 10000 = 0 then s.sendCapability p else s

/-- The ports' part of a nanosecond. -/
def State.portsTick (s : State) : State :=
  (List.range 8).foldl (fun acc p => (if acc.moving then acc.portTick p else acc).exchangeTick p) s

/-! ### Tiles -/

/-- A pilot, stow or collective engine has a free slot of its credit pool (Table 2-5). -/
def TileState.creditFree (x : TileState) (e : Nat) : Bool :=
  let w := x.work
  if e ≤ 1 then true
  else if e ≤ 7 then w.outstanding e < maxOutstanding
  else ((w.runs e).filter fun r => ! r.cmd.idle).length < collectiveSlots

/-- A queue of a tile holds an eligible command that has not been selected (R279). -/
def State.backlogged (s : State) (t : Nat) : Bool :=
  (List.range 9).any fun e => (s.tile t).creditFree e && ((s.tile t).work.queue e).any (s.eligible t e)

/-- A command of a tile has its tokens and lacks a credit (Table 2-6). -/
def State.lacksCredit (s : State) (t : Nat) : Bool :=
  (List.range 9).any fun e => ((s.tile t).work.queue e).any fun x =>
    s.tokensMet t e x && ! (s.eligible t e x && (s.tile t).creditFree e)

/-- The arithmetic cycles of a tile in the nanosecond that begins now. -/
def State.arithNow (s : State) (t : Nat) : Nat := cyclesNow (tileBase t + 0x3F0) s.marks.ran

/-- Requests that waited for one of the host interface's reads are issued as it has one free (R546). -/
def State.issueTick (s : State) (t : Nat) : State :=
  (List.range 9).foldl (fun acc e =>
    if ((acc.tile t).work.runs e).any (fun r => r.reqs.any fun q => q.issued.isNone && q.host) then State.issueSome maxOutstanding acc t e
    else acc) s

/-- Engines of a tile that would select but for the full trace buffer (R515). -/
def State.heldByTrace (s : State) (t : Nat) : Nat :=
  if s.traceStalls t && ! tst (s.treg t 0x008) 0 then
    (List.range 9).countP fun e => (s.tile t).engineFree e && ((s.tile t).work.queue e).any (s.eligible t e)
  else 0

/-- A tile's part of a nanosecond: waiting time is counted, its Helm core goes on with pieces it could not issue, its engines with requests. -/
def State.tileTick (s : State) (t : Nat) : State :=
  let s1 := if s.backlogged t then s.tcount t 0x7D8 (s.arithNow t) else s
  let s2 := if s1.lacksCredit t then s1.tcount t 0x358 (s1.arithNow t) else s1
  ((s2.count (dbBase + 0x328) (s2.heldByTrace t * s2.arithNow t)).issueOn t).issueTick t

def State.tilesTick (s : State) : State := (s.tiles.map (·.1)).foldl State.tileTick s

/-- A counter of cycles of a tile that holds 48 bits reaches its end in this nanosecond (R54, R516). No such counter counts so far within
`2^40` ns of the islands' running. -/
def State.timerEnds (s : State) (a : Nat) : Bool :=
  let n := cyclesIn a (s.countsFrom a) (s.marks.ran - s.countsFrom a).toNat
  n < 2 ^ 48 && 2 ^ 48 ≤ n + cyclesNow a s.marks.ran

def State.timersTick (s : State) : State :=
  if s.marks.ran.toNat < 2 ^ 40 then s
  else (allTiles.flatMap fun t => (tileTimers.take 5).map (tileBase t + ·)).foldl (fun acc a =>
    if s.timerEnds a then acc.overflow a else acc) s

/-! ### Memory and fabric -/

/-- A part lies in a stack above 85 °C, whose refresh is doubled (R440, Table 11-6). -/
def State.refreshDoubled (s : State) (p : Part) : Bool :=
  match p.place with
  | .pa a => tierOf a = .near && decide (deg 85 < s.tempOf (80 + unitOf a))
  | _ => false

/-- Some outstanding request may wait on a stall cause (Table 11-6): Near, Mid, Far by two, then a walk and a dirty map; on a doubled refresh
only where one is. -/
def State.mayStall (s : State) (cause : Nat) : Bool :=
  s.tiles.any fun p => p.2.work.running.any fun r => r.reqs.any fun q => q.issued.isSome &&
    match q.tier? with
    | some k => (6 ≤ cause || k = cause / 2) && (cause != 1 || q.parts.any s.refreshDoubled)
    | none => false

/-- For each cause, whether at least one request waits on it in this nanosecond is open (log 20). -/
def State.stallTick (s : State) : State :=
  (List.range 8).foldl (fun acc c =>
    if acc.mayStall c then acc.count (mtBase + 0x100 + 8 * c) (min 1 (cyclesNow (mtBase + 0x100 + 8 * c) acc.marks.ran)) else acc) s

/-- A request of a tile waits for one of the tile's 64 places or for its node's grant, of which all are taken (R345). -/
def FabricSide.grantWait (f : FabricSide) : Bool :=
  let out := f.remotes.filter fun x => x.sent.isSome
  f.remotes.any fun q => q.sent.isNone && ! f.holds.contains q.node &&
    (64 ≤ out.length || f.grant q.node ≤ (out.filter fun x => x.node = q.node).length)

/-- A landing unit holds a request for an earlier one (R354). -/
def State.landingHolds (s : State) : Bool :=
  s.light.forwards.zipIdx.any fun f => (s.light.forwards.take f.2).any (s.heldFor f.1)

/-- Router cycles in which a request waits under R345, and in which a landing unit holds one under R354; at most once a cycle each
(DESIGN CHOICE, log 20). -/
def State.fabricTick (s : State) : State :=
  let s1 := if s.tiles.any fun p => p.2.fab.grantWait then s.count (fbBase + 0x0A8) (cyclesNow (fbBase + 0x0A8) s.marks.ran) else s
  if s1.landingHolds then s1.count (fbBase + 0x0B0) (cyclesNow (fbBase + 0x0B0) s1.marks.ran) else s1

/-! ### The tick -/

/-- What works in a nanosecond while the islands run. -/
def State.islandsTick (s : State) : State := if s.moving then s.tilesTick.stallTick.fabricTick.timersTick else s

/-- The Chronometer counts, but not in Off (R453) nor once its reference clock has stopped (R487, R525). -/
def State.counts (s : State) : Bool := s.powered && ! s.safety.causes.contains 0xF006

/-- A table load, which a Binnacle carries out, in a nanosecond. -/
def State.tablesTick (s : State) : State := if s.sextant then s.ftTick else s

/-- One nanosecond: it has its work, the Chronometer counts, the islands have run for one more where they run, and the bits that hardware
set in it are no longer fresh (R10). -/
def State.nanosecond (s : State) : State :=
  let s1 := s.portsTick.islandsTick.tablesTick
  { s1 with
    chron := if s1.counts then s1.chron + 1 else s1.chron
    marks := { s1.marks with fresh := [], ran := if s.moving then s1.marks.ran + 1 else s1.marks.ran } }

end Sys2Proof.Machine
end

