-- ==== Sys2Proof/Machine/Execute.lean ====
section
/-! DEFINITION. The words at an instruction address, executed (R94, R95). Each instruction that they can spell is a row of the table;
words that spell none have no row, and raise ILLEGAL_INSTRUCTION. -/

namespace Sys2Proof.Machine

open Sys2Proof

/-- The core of a tile executes the words at its program counter, the first in bits `[31:0]`; a memory access meets the hazard. -/
def executeWord (t : Tile) (h : Hazard) (w : Word) (s : State) : Result :=
  match decodeInsn t h w with
  | some i => exec i s
  | none => .next (s.illegalAt t)

end Sys2Proof.Machine
end

