-- ==== Sys2Proof/Safety.lean ====
section
/-! DEFINITION. What holds of every state that a run can reach: the canonical form of the memories and of the register file,
and the bounds that the spec's rules give. Below it, the conditions on a state and its operands that the statements name. -/

namespace Sys2Proof.Machine

open Sys2Proof

/-- The canonical form of the memories: strictly rising addresses, and no entry equal to what an unlisted one reads as. -/
def Memory.wf (m : Memory) : Bool :=
  FMap.canon 0 m.near && FMap.canon 0 m.far && FMap.canon 0 m.host && FMap.canon false m.bad && FMap.sorted m.cache &&
    FMap.canon [] m.lines

/-- The canonical form of the register file: rising offsets, and no register listed at its reset value. -/
def regsWf (m : FMap Word) : Bool := FMap.sorted m && m.all fun x => x.2 ≠ resetAt x.1

/-- The bounds and promises that every command keeps. -/
structure State.Inv (s : State) : Prop where
  /-- Equal memories are equal data. -/
  mem : s.mem.wf
  /-- Equal register files are equal data. -/
  regs : regsWf s.regs
  /-- Each tile and each context is listed once. -/
  tiles : FMap.sorted s.tiles
  ctxs : FMap.sorted s.ctxs
  /-- The error ring holds at most 1,024 records and the retained area 16 (R494). -/
  ring : s.safety.ring.length ≤ 1024
  retained : s.safety.retained.length ≤ 16
  /-- The commanded state is Running or Stowed, entering or leaving it (Table 16-1). -/
  phase : s.power.phase = 1 ∨ s.power.phase = 2 ∨ s.power.phase = 4 ∨ s.power.phase = 5
  /-- The boundary-scan lands leave their service function only while `BN_RESET_N` is low (R537). -/
  pins : s.dbg.pins ≠ .service → s.start.resetLow = true
  /-- A fuse write in progress raises the minimum version (R408). -/
  fuse : ∀ v, s.sec.cmd = some (.svn v) → s.sec.fused ≤ v

/-- A scalar access of `n` bytes at address `a` by context `c` lies in one part, here on this node; `s1` is the state after
translation. -/
def State.reachesOne (s : State) (c : Nat) (a : Word) (n : Nat) (k : Touch) (s1 : State) (p : Part) : Prop :=
  ∃ o, scalarAddr a n = .ok o ∧ s.operandParts c o 0 n k = (s1, .ok [p]) ∧ ∀ nd off, p.place ≠ .node nd off

/-- As `reachesOne`, for tile `t`: the part is sound Near memory at physical address `x`, and the way to it is not interrupted (R492). -/
def State.reachesNear (s : State) (t c : Nat) (a : Word) (n : Nat) (k : Touch) (x : Nat) : Prop :=
  ∃ s1 p, s.reachesOne c a n k s1 p ∧ p.place = .pa x ∧ p.len = n ∧ tierOf x = .near ∧ s.flaw x n = none ∧
    s.flaw (x / 64 * 64) 64 = none ∧ s1.partsReached t [p] = true

/-- The `n` bytes at a physical address as Helm cores see them (R30). -/
def State.helmBytes (s : State) (x n : Nat) : List Byte := (List.range n).map fun i => s.helm8 (x + i)

/-- A scalar access names another node of the domain: node, offset and the state after the address check. -/
def State.reachesNode (s : State) (c : Nat) (a : Word) (n : Nat) (k : Touch) (s1 : State) (nd off : Nat) : Prop :=
  ∃ o p, scalarAddr a n = .ok o ∧ s.operandParts c o 0 n k = (s1, .ok [p]) ∧ p.place = .node nd off

/-- A tensor instruction passes the first three checks of R548: encoding, tile set, signal word. -/
def State.tensorSet (s : State) (t n : Nat) (i : TensorInsn) (op : TensorOp) (set : Nat × Nat × Nat) (sig : Option (Nat × Nat)) : Prop :=
  let z := (s.tile t).slot n
  encodingOk i op.vars (op.tb i.var.toNat) = true ∧ tileSet t (z.rg i.gs) = some set ∧ signalOf i z = .ok sig

/-- A tensor instruction passes every check of R548 and forms the records `rs`, each with its executing tile. -/
def State.formsPieces (s : State) (t n : Nat) (i : TensorInsn) (op : TensorOp) (set : Nat × Nat × Nat) (rs : List (Nat × Rec)) : Prop :=
  let z := (s.tile t).slot n
  ∃ sig param d a b, s.tensorSet t n i op set sig ∧ paramOf (op.tb i.var.toNat) i z = some param ∧
    Desc.read (z.desc i.td.toNat) = some d ∧ Desc.read (z.desc i.ta.toNat) = some a ∧
    (if op.tb i.var.toNat = .desc then (Desc.read (z.desc i.tb.toNat)).map some else some none) = some b ∧
    formRecords op ⟨s.generationOf z, set.1⟩ (baseRecord t z i op.code op.engine sig) set i.var.toNat param d a b = some rs

/-- Every record of an instruction of tile `t` is accepted at once: those of the tile itself by its inbox (R31), those of another tile by
the crossing into it (R447). -/
def State.takesPieces (s : State) (t : Nat) (rs : List (Nat × Rec)) : Prop :=
  (t ∈ rs.map (·.1) → s.pathClear t t = true ∧ (s.tile t).work.inbox.length + rs.countP (fun p => p.1 = t) ≤ inboxDepth) ∧
  ∀ u, u ≠ t → s.mail.channel.countP (fun p => p.1 = u) + rs.countP (fun p => p.1 = u) ≤ crossingDepth

/-- The parts of a piece's operands resolve, and its A operand is read: A's lines, the parts of B and D, the state after. -/
def State.fetchesA (s : State) (r : Rec) (ia : List (List Byte)) (pb pd : List (List Part)) (s' : State) : Prop :=
  ∃ s1 pa, s.allParts r = (s1, .ok (pa, pb, pd)) ∧ s1.readLines r.ctx.toNat pa = (s', .ok ia)

/-- As `fetchesA`, and B is read too. -/
def State.fetchesAB (s : State) (r : Rec) (ia ib : List (List Byte)) (pd : List (List Part)) (s' : State) : Prop :=
  ∃ s1 pb, s.fetchesA r ia pb pd s1 ∧ s1.readLines r.ctx.toNat pb = (s', .ok ib)

/-- A host write of register `a` reaches its action: the package is on and not safe, the link up, it comes through PF0, the window is
open at the stage and not held by a fix, its size is legal, and it reaches a field; `v` is the value in place and `m` its mask. -/
def State.accepts (s : State) (a : Nat) (w : Wr) (v m : Word) : Prop :=
  s.safety.safe = false ∧ s.linkUp = true ∧ s.start.boot ≠ .off ∧ w.fn.val = 0 ∧ s.open a = true ∧
    (s.fixed = true → runsInFix a = true) ∧ wrPart w = some (v, m) ∧ reachesField a m = true

end Sys2Proof.Machine
end

