-- ==== Sys2Proof/Certificates/Slice0/Obligations.lean ====
section
/-! DEFINITION. The statements for the provers. Each names the rules it rests on; a statement over a command says when exec answers a
next state, what that state holds, and what stays. A hypothesis `s.accepts a w v m` says that a host write reaches register `a` with
value `v` under mask `m`. -/

open Sys2Proof Sys2Proof.Machine

/-- (1) A step takes the command at the front of the queue and runs it on the state with the queue's rest. (2) With no command
waiting, one nanosecond passes (the model's choice, log 1). (3) In a nanosecond the Chronometer counts, but not with the package
off or its reference clock lost, the time of the islands' running counts while they run, and the bits that hardware set before it
are no longer fresh (R10). A package whose tiles hold nothing, whose ports have no block and negotiate nothing, at which no
request has landed and which loads no table does nothing else (the model's choice of what happens at a tick, log 1). Rests on R10,
R248. -/
def Obligations.StepRunsFrontCommand : Prop :=
  (∀ (s : State) (c : Instr) (rest : List Instr), s.pending = c :: rest → step s = exec c { s with pending := rest }) ∧
  (∀ s : State, s.pending = [] → step s = .next s.nanosecond) ∧
  (∀ s : State,
    let later := fun u : State => { u with
      chron := if s.powered && ! s.safety.causes.contains 0xF006 then s.chron + 1 else s.chron
      marks := { u.marks with fresh := [], ran := if s.moving then u.marks.ran + 1 else u.marks.ran } }
    s.nanosecond.chron = (later s).chron ∧ s.nanosecond.marks.fresh = [] ∧ s.nanosecond.marks.ran = (later s).marks.ran ∧
    (s.tiles = [] → s.light.forwards = [] → s.tables.cmd = none → s.marks.ran.toNat < 2 ^ 40 →
      (∀ p < 8, (s.port p).waiting = [] ∧ (s.port p).frame = [] ∧ s.portState p ≠ portExchange) →
      s.nanosecond = later s))

/-- (1) Whatever the front command does, the rest of the queue stays as it was. (2) Every well-formed command, of every row of the
table, completes in every state: its meaning answers a next state, with the queue as it was and the invariant kept. A command
whose operands are not of its row's range is refused by name, and no other is. The model's choices: log 84 (which operands a row
refuses). Rests on R5, R95, R248. -/
def Obligations.CommandsLeaveTheQueue : Prop :=
  (∀ (s t : State) (c : Instr) (rest : List Instr), s.pending = c :: rest → step s = .next t → t.pending = rest) ∧
  (∀ (s : State) (c : Instr),
    (c.wf = true → ∃ t, exec c s = .next t ∧ t.pending = s.pending ∧ (s.Inv → t.Inv)) ∧
    (c.wf = false → exec c s = .refused .illFormed))

/-- Right after reset every register reads its Reset column, the package is held in reset with stage HELD, no context lives, every
home slot and queue is empty, every light port is Off and holds no block, no fix is in force, and the memories list nothing. The
model's choices: log 9 (memory that nothing has written), log 18 (registers without a reset number), log 19 (state without a reset
value). Rests on R11, R455, R463. -/
def Obligations.ResetLeaves : Prop :=
  (∀ a, State.reset.reg a = resetAt a) ∧ State.reset.stage = 0 ∧ State.reset.chron = 0 ∧
  State.reset.ctxs = [] ∧ (∀ t, State.reset.tile t = .empty) ∧ (∀ t n, State.reset.slotCtx t n = none) ∧
  (∀ p < 8, State.reset.portState p = 0 ∧ (State.reset.port p).held = [] ∧ (State.reset.port p).waiting = []) ∧
  State.reset.fixed = false ∧ State.reset.safety.safe = false ∧ State.reset.mem = .empty ∧ State.reset.pending = []

/-- The state right after reset keeps the bounds and the canonical forms. Rests on R494, R420, R537, R408. -/
def Obligations.ResetKeepsTheInvariant : Prop :=
  State.reset.Inv

/-- Every step keeps the canonical form of the memories and of the register file, the bounds of the error ring and of the retained
area, the legal power phases, the boundary lands and the rising security version. Rests on R494, R420, R537, R408. -/
def Obligations.EveryStepKeepsTheInvariant : Prop :=
  ∀ s t : State, s.Inv → step s = .next t → t.Inv

/-- The fused minimum security version never falls. Rests on R408. -/
def Obligations.FusedMinimumNeverFalls : Prop :=
  ∀ s t : State, s.Inv → step s = .next t → s.sec.fused ≤ t.sec.fused

/-- Whatever the step does, and in every state, the safe state is left only by a cold reset or by the removal of power. Rests on
R489, R491. -/
def Obligations.SafeStateStays : Prop :=
  ∀ s t : State, s.safety.safe = true → step s = .next t → (∀ cause rest, s.pending ≠ .coldReset cause :: rest) →
    (∀ rest, s.pending ≠ .powerRemoved :: rest) → t.safety.safe = true

/-- (1) The nineteen integer operations on two registers. (2) `g0` reads zero and ignores writes; every other `g` register reads
what was written to it and a write leaves the others. (3) Retiring an instruction changes its slot as the instruction says, moves
the program counter past it, and leaves every other slot, the memories, the contexts and the messages as they were. Rests on R67,
R68, R97. -/
def Obligations.IntegerArithmetic : Prop :=
  (∀ (s : State) (t : Tile) (n : Nat), s.core t = some n → ∀ rd ra rb : RegNo,
    let z := (s.tile t).slot n
    let a := z.rg ra
    let b := z.rg rb
    let gives := fun (i : Instr) (v : Word) => exec i s = .next (s.retire t n 4 fun y => y.wg rd v)
    gives (.add t rd ra rb) (BitVec.ofInt 64 (a.toInt + b.toInt)) ∧
    gives (.sub t rd ra rb) (BitVec.ofInt 64 (a.toInt - b.toInt)) ∧
    gives (.and t rd ra rb) (a &&& b) ∧
    gives (.or t rd ra rb) (a ||| b) ∧
    gives (.xor t rd ra rb) (a ^^^ b) ∧
    gives (.sll t rd ra rb) (BitVec.ofNat 64 (a.toNat * 2 ^ (b.toNat % 64))) ∧
    gives (.srl t rd ra rb) (BitVec.ofNat 64 (a.toNat / 2 ^ (b.toNat % 64))) ∧
    gives (.sra t rd ra rb) (BitVec.ofInt 64 (a.toInt / 2 ^ (b.toNat % 64))) ∧
    gives (.mul t rd ra rb) (BitVec.ofInt 64 (a.toInt * b.toInt)) ∧
    gives (.mulh t rd ra rb) (BitVec.ofInt 64 (a.toInt * b.toInt / 2 ^ 64)) ∧
    gives (.mulhu t rd ra rb) (BitVec.ofNat 64 (a.toNat * b.toNat / 2 ^ 64)) ∧
    gives (.div t rd ra rb) (if b = 0 then 0 else BitVec.ofInt 64 (a.toInt.tdiv b.toInt)) ∧
    gives (.divu t rd ra rb) (if b = 0 then 0 else BitVec.ofNat 64 (a.toNat / b.toNat)) ∧
    gives (.rem t rd ra rb) (if b = 0 then a else BitVec.ofInt 64 (a.toInt.tmod b.toInt)) ∧
    gives (.remu t rd ra rb) (if b = 0 then a else BitVec.ofNat 64 (a.toNat % b.toNat)) ∧
    gives (.slt t rd ra rb) (if a.toInt < b.toInt then 1 else 0) ∧
    gives (.sltu t rd ra rb) (if a.toNat < b.toNat then 1 else 0) ∧
    gives (.min t rd ra rb) (BitVec.ofInt 64 (min a.toInt b.toInt)) ∧
    gives (.max t rd ra rb) (BitVec.ofInt 64 (max a.toInt b.toInt))) ∧
  (∀ (z : Slot) (r q : RegNo) (v : Word),
    z.rg 0 = 0 ∧ z.wg 0 v = z ∧ ((z.wg r v).rg q = if q = r ∧ r ≠ 0 then v else z.rg q)) ∧
  (∀ (s : State) (t n len : Nat) (f : Slot → Slot),
    let r := s.retire t n len f
    let z := (s.tile t).slot n
    (r.tile t).slot n = { f z with pc := z.pc + BitVec.ofNat 48 len } ∧
    (∀ m, m ≠ n → (r.tile t).slot m = (s.tile t).slot m) ∧ (∀ u, u ≠ t → r.tile u = s.tile u) ∧
    { r.tile t with slots := [] } = { s.tile t with slots := [] } ∧
    r = { s with tiles := r.tiles, regs := r.regs, outside := r.outside, marks := { s.marks with fresh := r.marks.fresh } })

/-- Immediates, immediate shifts and the long constants. SHI with shift code 3 or non-zero reserved bits, LIH and SETTAG with
non-zero reserved bits raise `ILLEGAL_INSTRUCTION` (`0x2001`). Rests on R68, R95, R97 and Tables 4-2 to 4-4. -/
def Obligations.ImmediatesAndConstants : Prop :=
  ∀ (s : State) (t : Tile) (n : Nat), s.core t = some n → ∀ (rd ra : RegNo) (imm : BitVec 15) (k : BitVec 48),
    let z := (s.tile t).slot n
    let a := z.rg ra
    let x := imm.toInt
    let gives := fun (i : Instr) (len : Nat) (v : Word) => exec i s = .next (s.retire t n len fun y => y.wg rd v)
    let illegal := fun (i : Instr) => exec i s = .next (s.raise t n 0x2001 z.pc)
    gives (.addi t rd ra imm) 4 (BitVec.ofInt 64 (a.toInt + x)) ∧
    gives (.andi t rd ra imm) 4 (a &&& BitVec.ofInt 64 x) ∧
    gives (.ori t rd ra imm) 4 (a ||| BitVec.ofInt 64 x) ∧
    gives (.xori t rd ra imm) 4 (a ^^^ BitVec.ofInt 64 x) ∧
    gives (.slti t rd ra imm) 4 (if a.toInt < x then 1 else 0) ∧
    (imm.extractLsb' 8 7 = 0 → imm.extractLsb' 6 2 = 0 →
      gives (.shi t rd ra imm) 4 (BitVec.ofNat 64 (a.toNat * 2 ^ (imm.extractLsb' 0 6).toNat))) ∧
    (imm.extractLsb' 8 7 = 0 → imm.extractLsb' 6 2 = 1 →
      gives (.shi t rd ra imm) 4 (BitVec.ofNat 64 (a.toNat / 2 ^ (imm.extractLsb' 0 6).toNat))) ∧
    (imm.extractLsb' 8 7 = 0 → imm.extractLsb' 6 2 = 2 →
      gives (.shi t rd ra imm) 4 (BitVec.ofInt 64 (a.toInt / 2 ^ (imm.extractLsb' 0 6).toNat))) ∧
    (imm.extractLsb' 8 7 ≠ 0 ∨ imm.extractLsb' 6 2 = 3 → illegal (.shi t rd ra imm)) ∧
    gives (.li t rd k) 8 (BitVec.ofInt 64 k.toInt) ∧
    (k.extractLsb' 16 32 = 0 → gives (.lih t rd k) 8 (k.extractLsb' 0 16 ++ (z.rg rd).extractLsb' 0 48)) ∧
    (k.extractLsb' 16 32 ≠ 0 → illegal (.lih t rd k)) ∧
    (k.extractLsb' 0 16 = 0 →
      exec (.settag t k) s = .next (s.retire t n 8 fun y => { y with layop := k.extractLsb' 16 32 })) ∧
    (k.extractLsb' 0 16 ≠ 0 → illegal (.settag t k))

/-- (1) Branches and jumps, relative to the address of the branch itself; the link register takes the address after the
instruction. An illegal condition raises `0x2001`; a misaligned register target raises `0x2002` at the jump. (2) Words written out
from Tables 4-1 to 4-6 decode to the instructions they stand for: the worked TMM word of R103, and words of every format; what
follows a 32-bit instruction does not count. The all-zero word, an unlisted opcode or function value and a non-zero reserved bit
decode to none. (3) The core executes the words at its program counter: an instruction that they spell, or the exception of those
that spell none (`ILLEGAL_INSTRUCTION`). The model's choices: log 31 (the 48 bits of a target). Rests on R94 to R96 and Table 4-2.
-/
def Obligations.BranchesAndJumps : Prop :=
  (∀ (s : State) (t : Tile) (n : Nat), s.core t = some n → ∀ (cond : BitVec 3) (rd ra rb : RegNo) (o12 : BitVec 12) (o20 : BitVec 20)
      (imm : BitVec 15),
    let z := (s.tile t).slot n
    let a := z.rg ra
    let b := z.rg rb
    let taken : Bool := match cond.toNat with
      | 0 => a = b | 1 => a ≠ b | 2 => a.toInt < b.toInt | 3 => b.toInt ≤ a.toInt | 4 => a.toNat < b.toNat | _ => b.toNat ≤ a.toNat
    let link := fun y : Slot => y.wg rd ((z.pc + 4).setWidth 64)
    (cond.toNat < 6 → taken = true →
      exec (.bCond t cond ra rb o12) s = .next (s.retireTo t n id (z.pc + BitVec.ofInt 48 (4 * o12.toInt)))) ∧
    (cond.toNat < 6 → taken = false → exec (.bCond t cond ra rb o12) s = .next (s.retire t n 4 id)) ∧
    (6 ≤ cond.toNat → exec (.bCond t cond ra rb o12) s = .next (s.raise t n 0x2001 z.pc)) ∧
    exec (.jal t rd o20) s = .next (s.retireTo t n link (z.pc + BitVec.ofInt 48 (4 * o20.toInt))) ∧
    ((BitVec.ofInt 64 (a.toInt + imm.toInt)).toNat % 4 = 0 →
      exec (.jalr t rd ra imm) s = .next (s.retireTo t n link (BitVec.ofInt 48 (a.toInt + imm.toInt)))) ∧
    ((BitVec.ofInt 64 (a.toInt + imm.toInt)).toNat % 4 ≠ 0 →
      exec (.jalr t rd ra imm) s = .next (s.raise t n 0x2002 z.pc))) ∧
  (∀ (t : Tile) (h : Hazard),
    let is := fun (w : Word) (i : Instr) => decodeInsn t h w = some i
    is 0x005A0429042653A1 (.tmm t ⟨7, 5, 3, 1, 2, 0, true, false, 10, 1, true, false, 11, 0⟩) ∧
    is 0x00041182 (.add t 3 1 2) ∧ is 0xFFFFFFFF00041182 (.add t 3 1 2) ∧ is 0x038C5202 (.remu t 4 5 6) ∧
    is 0xFFFE0084 (.addi t 1 0 0x7FFF) ∧ is 0x0010239C (.ld t 7 2 8 h) ∧ is 0xFFF823A4 (.sw t 7 2 0x7FFC h) ∧
    is 0xFFD220B0 (.bCond t 1 1 2 0xFFD) ∧ is 0x00002FB2 (.jal t 31 2) ∧ is 0x488620C0 (.fmul t ⟨1, 1⟩ 1 2 3) ∧
    is 0x024620D0 (.amoCas t 1 2 3 h) ∧ is 0x00060558 (.twait t 5 6) ∧ is 0x0001FF5A (.tsigi t 255 1) ∧
    is 0x00800060 (.fenceD t) ∧ is 0x00000064 (.stepend t) ∧ is 0x018000E6 (.rdst t 1 6) ∧ is 0x008041F4 (.tset t 3 4 2) ∧
    is 0x00401170 (.tld t 2 1 32 h) ∧ is 0x0000000001230103 (.li t 2 0x123) ∧ is 0xABCD12340000000D (.settag t 0xABCD12340000) ∧
    is 0xFFFFFFF800004187 (.ldl t 3 4 0xFFFFFFF8 h) ∧
    ∀ w ∈ [0, 0x1E, 0x04C00002, 0x000000E4, 0x000605D8, 0x0B], decodeInsn t h w = none) ∧
  (∀ (s : State) (t : Tile) (h : Hazard) (w : Word),
    (∀ i, decodeInsn t h w = some i → executeWord t h w s = exec i s) ∧
    (decodeInsn t h w = none → ∀ n, s.core t = some n →
      executeWord t h w s = .next (s.raise t n 0x2001 ((s.tile t).slot n).pc)))

/-- (1) The sixteen floating-point operations, for every legal precision and rounding: operands as the precision reads them, one
rounding, the canonical NaN. An illegal precision, rounding or operand field raises `0x2001`. (2) A floating-point instruction
with an illegal precision or rounding, a move in binary32, and FSQRT, FABS or FNEG with a second operand, raise
`ILLEGAL_INSTRUCTION`. Rests on R69, R70, R98. -/
def Obligations.FloatingPointOperations : Prop :=
  (∀ (s : State) (t : Tile) (n : Nat), s.core t = some n → ∀ (m : FpMode) (r : Rnd) (rd ra rb : RegNo),
    let z := (s.tile t).slot n
    let e := if m.prec = 1 then Enc.fp32 else .b64
    let x := readF m.prec (z.rf ra)
    let y := readF m.prec (z.rf rb)
    let toF := fun (i : Instr) (v : Machine.Num) =>
      exec i s = .next (s.retire t n 4 fun q => q.wf rd (BitVec.ofNat 64 (Enc.b64.encode (e.fit r v))))
    let toG := fun (i : Instr) (v : Word) => exec i s = .next (s.retire t n 4 fun q => q.wg rd v)
    let less := ! x.isNan && ! y.isNan && Machine.Num.lt x y
    let same := ! x.isNan && ! y.isNan && Machine.Num.eqv x y
    m.prec.toNat ≤ 1 → rndOf m.rnd = some r →
    toF (.fadd t m rd ra rb) (Machine.Num.add r x y) ∧
    toF (.fsub t m rd ra rb) (Machine.Num.add r x y.neg) ∧
    toF (.fmul t m rd ra rb) (Machine.Num.mul x y) ∧
    toF (.fdiv t m rd ra rb) (e.div r x y) ∧
    toF (.fmin t m rd ra rb) (if x.isNan then y else if y.isNan then x else if Machine.Num.below x y then x else y) ∧
    toF (.fmax t m rd ra rb) (if x.isNan then y else if y.isNan then x else if Machine.Num.below x y then y else x) ∧
    toG (.fcvtI t m rd ra rb) (toInt64 r x) ∧
    toF (.fcvtF t m rd ra rb) (Machine.Num.ofInt (z.rg ra).toInt) ∧
    toG (.feq t m rd ra rb) (if same then 1 else 0) ∧
    toG (.flt t m rd ra rb) (if less then 1 else 0) ∧
    toG (.fle t m rd ra rb) (if less || same then 1 else 0) ∧
    (rb.val = 0 →
      exec (.fsqrt t m rd ra rb) s =
        .next (s.retire t n 4 fun q => q.wf rd (BitVec.ofNat 64 (Enc.b64.encode (e.sqrt r x)))) ∧
      toF (.fabs t m rd ra rb) x.abs ∧ toF (.fneg t m rd ra rb) x.neg) ∧
    (m.prec = 0 → toG (.fmvG t m rd ra rb) (z.rf ra) ∧
      exec (.fmvF t m rd ra rb) s = .next (s.retire t n 4 fun q => q.wf rd (z.rg ra)))) ∧
  (∀ (s : State) (t : Tile) (n : Nat), s.core t = some n → ∀ (m : FpMode) (rd ra rb : RegNo),
    let ill := fun (i : Instr) => exec i s = .next (s.raise t n 0x2001 ((s.tile t).slot n).pc)
    (2 ≤ m.prec.toNat ∨ 5 ≤ m.rnd.toNat →
      ∀ i ∈ [Instr.fadd t m rd ra rb, .fsub t m rd ra rb, .fmul t m rd ra rb, .fdiv t m rd ra rb, .fsqrt t m rd ra rb,
        .fmin t m rd ra rb, .fmax t m rd ra rb, .fcvtI t m rd ra rb, .fcvtF t m rd ra rb, .fmvG t m rd ra rb, .fmvF t m rd ra rb,
        .feq t m rd ra rb, .flt t m rd ra rb, .fle t m rd ra rb, .fabs t m rd ra rb, .fneg t m rd ra rb], ill i) ∧
    (rb.val ≠ 0 → ∀ i ∈ [Instr.fsqrt t m rd ra rb, .fabs t m rd ra rb, .fneg t m rd ra rb], ill i) ∧
    (m.prec ≠ 0 → ∀ i ∈ [Instr.fmvG t m rd ra rb, .fmvF t m rd ra rb], ill i))

/-- Descriptor words, and the context state that RDST reads and WRST writes; unlisted function codes and register fields raise
`0x2001`. Rests on R67, R95, R96 and Table 3-2. -/
def Obligations.DescriptorsAndContextState : Prop :=
  ∀ (s : State) (t : Tile) (n : Nat), s.core t = some n → ∀ (rd ra td : RegNo) (fn : BitVec 10),
    let z := (s.tile t).slot n
    let gives := fun (i : Instr) (f : Slot → Slot) => exec i s = .next (s.retire t n 4 f)
    let illegal := fun (i : Instr) => exec i s = .next (s.raise t n 0x2001 z.pc)
    (td.val < 16 → fn.toNat < 4 →
      gives (.tset t td ra fn) (fun y => y.wt td fn.toNat (z.rg ra)) ∧ gives (.tget t rd td fn) (fun y => y.wg rd (z.rt td fn.toNat))) ∧
    (16 ≤ td.val ∨ 4 ≤ fn.toNat → illegal (.tset t td ra fn) ∧ illegal (.tget t rd td fn)) ∧
    (fn.toNat < 8 → gives (.rdst t rd fn) fun y => y.wg rd (match fn.toNat with
      | 0 => z.stepno.setWidth 64 | 1 => z.layop.setWidth 64 | 2 => z.deadline | 3 => z.ctx.setWidth 64
      | 4 => z.job.setWidth 64 | 5 => z.excstat.setWidth 64 | 6 => s.chron | _ => BitVec.ofNat 64 t)) ∧
    (8 ≤ fn.toNat → illegal (.rdst t rd fn)) ∧
    (fn = 1 → gives (.wrst t ra fn) fun y => { y with layop := (z.rg ra).extractLsb' 0 32 }) ∧
    (fn = 2 → gives (.wrst t ra fn) fun y => { y with deadline := z.rg ra }) ∧
    (fn ≠ 1 → fn ≠ 2 → illegal (.wrst t ra fn))

/-- (1) Every load form completes at sound Near memory, also where a cache or memory error was corrected; what the tile's router
has accepted is performed first (`u`): the register takes the bytes that Helm cores see there, sign- or zero-extended as the form
says, the program counter moves past the instruction, no byte of memory and no other slot changes. (2) With no accepted write of
the tile waiting, the core's turn to memory changes nothing (R85, R86). Rests on R30, R85, R86, R99, R101. -/
def Obligations.LoadsFromNearMemory : Prop :=
  (∀ (s : State) (t : Tile) (n : Nat),
    let u := s.turn t
    u.core t = some n → ∀ (rd ra td : RegNo) (imm : BitVec 15) (disp : BitVec 32),
    ∀ h ∈ [Hazard.none, .cacheCorrected, .corrected, .farError, .farDenied],
    let z := (u.tile t).slot n
    let loads := fun (i : Instr) (len size : Nat) (addr : Word) (f : Nat → List Byte → Slot → Slot) =>
      ∀ x, u.reachesNear t z.ctx.toNat addr size .read x → ∃ r, exec i s = .next r ∧ r.mem = u.mem ∧
        (r.tile t).slot n = { f (ofBytes (u.helmBytes x size)) (u.helmBytes x size) z with pc := z.pc + BitVec.ofNat 48 len } ∧
        ∀ v m, (v, m) ≠ (t.val, n) → (r.tile v).slot m = (u.tile v).slot m
    let at15 := z.rg ra + imm.signExtend 64
    loads (.lb t rd ra imm h) 4 1 at15 (fun v _ y => y.wg rd ((BitVec.ofNat 8 v).signExtend 64)) ∧
    loads (.lbu t rd ra imm h) 4 1 at15 (fun v _ y => y.wg rd (BitVec.ofNat 64 v)) ∧
    loads (.lh t rd ra imm h) 4 2 at15 (fun v _ y => y.wg rd ((BitVec.ofNat 16 v).signExtend 64)) ∧
    loads (.lhu t rd ra imm h) 4 2 at15 (fun v _ y => y.wg rd (BitVec.ofNat 64 v)) ∧
    loads (.lw t rd ra imm h) 4 4 at15 (fun v _ y => y.wg rd ((BitVec.ofNat 32 v).signExtend 64)) ∧
    loads (.lwu t rd ra imm h) 4 4 at15 (fun v _ y => y.wg rd (BitVec.ofNat 64 v)) ∧
    loads (.ld t rd ra imm h) 4 8 at15 (fun v _ y => y.wg rd (BitVec.ofNat 64 v)) ∧
    loads (.fld t rd ra imm h) 4 8 at15 (fun v _ y => y.wf rd (BitVec.ofNat 64 v)) ∧
    loads (.flw t rd ra imm h) 4 4 at15 (fun v _ y => y.wf rd (codeF (Enc.fp32.decode v))) ∧
    loads (.ldl t rd ra disp h) 8 8 (z.rg ra + disp.signExtend 64) (fun v _ y => y.wg rd (BitVec.ofNat 64 v)) ∧
    (td.val < 16 → loads (.tld t td ra imm h) 4 32 at15 (fun _ bs y =>
      (((y.wt td 0 (BitVec.ofNat 64 (ofBytes (bs.take 8)))).wt td 1 (BitVec.ofNat 64 (ofBytes ((bs.drop 8).take 8)))).wt td 2
        (BitVec.ofNat 64 (ofBytes ((bs.drop 16).take 8)))).wt td 3 (BitVec.ofNat 64 (ofBytes (bs.drop 24)))))) ∧
  (∀ (s : State) (t : Tile), s.nextWrite t = none → s.turn t = s)

/-- (1) Every store form completes at sound Near memory, on the state `u` after the tile's accepted writes: Helm cores then see
the stored bytes there and every other byte as before; the register file stays and the program counter moves past the instruction.
(2) Every 64-bit atomic completes at sound Near memory in one step, on the state `u` after the tile's accepted writes: the old
value goes to the register, memory takes the operation's result and every other byte stays. Rests on R30, R86, R99 to R101. -/
def Obligations.StoresAndAtomics : Prop :=
  (∀ (s : State) (t : Tile) (n : Nat),
    let u := s.turn t
    u.core t = some n → ∀ (rs ra ts : RegNo) (imm : BitVec 15) (disp : BitVec 32),
    ∀ h ∈ [Hazard.none, .cacheCorrected, .corrected, .farError, .farDenied],
    let z := (u.tile t).slot n
    let stores := fun (i : Instr) (len size : Nat) (addr : Word) (bs : List Byte) =>
      ∀ x, u.reachesNear t z.ctx.toNat addr size .write x → ∃ r, exec i s = .next r ∧
        (∀ a, r.helm8 a = if x ≤ a ∧ a < x + size then bs.getD (a - x) 0 else u.helm8 a) ∧
        { (r.tile t).slot n with dirty := z.dirty } = { z with pc := z.pc + BitVec.ofNat 48 len } ∧
        ∀ v m, (v, m) ≠ (t.val, n) → (r.tile v).slot m = (u.tile v).slot m
    let at15 := z.rg ra + imm.signExtend 64
    stores (.sb t rs ra imm h) 4 1 at15 (bytesOf 1 (z.rg rs).toNat) ∧
    stores (.sh t rs ra imm h) 4 2 at15 (bytesOf 2 (z.rg rs).toNat) ∧
    stores (.sw t rs ra imm h) 4 4 at15 (bytesOf 4 (z.rg rs).toNat) ∧
    stores (.sd t rs ra imm h) 4 8 at15 (bytesOf 8 (z.rg rs).toNat) ∧
    stores (.fsd t rs ra imm h) 4 8 at15 (bytesOf 8 (z.rf rs).toNat) ∧
    stores (.fsw t rs ra imm h) 4 4 at15 (bytesOf 4 (Enc.fp32.encode (readF 1 (z.rf rs)))) ∧
    stores (.sdl t rs ra disp h) 8 8 (z.rg ra + disp.signExtend 64) (bytesOf 8 (z.rg rs).toNat) ∧
    (ts.val < 16 → stores (.tst t ts ra imm h) 4 32 at15
      (bytesOf 8 (z.rt ts 0).toNat ++ bytesOf 8 (z.rt ts 1).toNat ++ bytesOf 8 (z.rt ts 2).toNat ++ bytesOf 8 (z.rt ts 3).toNat))) ∧
  (∀ (s : State) (t : Tile) (n : Nat),
    let u := s.turn t
    u.core t = some n → ∀ (rd ra rb : RegNo) (x : Nat),
    ∀ h ∈ [Hazard.none, .cacheCorrected, .corrected, .farError, .farDenied],
    let z := (u.tile t).slot n
    u.reachesNear t z.ctx.toNat (z.rg ra) 8 .atomic x →
    let old : Word := BitVec.ofNat 64 (ofBytes (u.helmBytes x 8))
    let b := z.rg rb
    let amo := fun (i : Instr) (v : Word) => ∃ r, exec i s = .next r ∧
      (∀ a, r.helm8 a = if x ≤ a ∧ a < x + 8 then (bytesOf 8 v.toNat).getD (a - x) 0 else u.helm8 a) ∧
      { (r.tile t).slot n with dirty := z.dirty } = { z.wg rd old with pc := z.pc + 4 } ∧
      ∀ v m, (v, m) ≠ (t.val, n) → (r.tile v).slot m = (u.tile v).slot m
    amo (.amoAdd t rd ra rb h) (BitVec.ofInt 64 (old.toInt + b.toInt)) ∧ amo (.amoSwap t rd ra rb h) b ∧
    amo (.amoAnd t rd ra rb h) (old &&& b) ∧ amo (.amoOr t rd ra rb h) (old ||| b) ∧ amo (.amoXor t rd ra rb h) (old ^^^ b) ∧
    amo (.amoMin t rd ra rb h) (BitVec.ofInt 64 (min old.toInt b.toInt)) ∧
    amo (.amoMax t rd ra rb h) (BitVec.ofInt 64 (max old.toInt b.toInt)) ∧
    amo (.amoMinu t rd ra rb h) (BitVec.ofNat 64 (min old.toNat b.toNat)) ∧
    amo (.amoMaxu t rd ra rb h) (BitVec.ofNat 64 (max old.toNat b.toNat)) ∧
    amo (.amoCas t rd ra rb h) (if old = z.rg rd then b else old))

/-- (1) What a scalar address that is wrong raises, before any memory is touched: a kind or high bits that are not legal
`CVA_UNMAPPED` (`0x3012`), else a misaligned address `MISALIGNED_ACCESS` (`0x2002`). An error of the core's datapath raises a
status of class `0x5`; which one is free (the model's choice, log 126). (2) A scalar exception stops the code at the instruction
and records its status in `EXCSTAT`, `HC_EXC` and `HC_EXC_PC`. For a context that is not live here nothing else of the tile's
slots changes. (3) What an 8-byte load of Near memory meets on its way: an uncorrectable error of the Helm core's cache, of the
memory block, or an answer that does not come in time, each raise `HC_CACHE_UNCORRECTABLE` (`0x5002`); a page-table entry with a
wrong parity raises `CVA_UNMAPPED`. A load of far memory that the node's grants refuse raises `LANDING_DENIED` (`0x3020`), and an
error that the node reports `0x5002`, as every load of it does while port F is down (R304). A store that has no answer in time
raises `0x5002` too, applied or not (R302); and an access whose way is interrupted waits (R492). (4) An uncorrectable error of a
Helm core's cache sets its bit of `HC_CACHE_ERR` and invalidates the line; a dirty line's copy in the Near tier is fenced, in the
first free entry of `MT_LOST`, with `MT_ERR[6]`. The model's choices: log 90 (which dirty bytes a cache error loses). Rests on
R57, R90, R99 to R101, R298, R300 and Table 3-7. -/
def Obligations.ScalarExceptions : Prop :=
  (∀ (s : State) (t : Tile) (n : Nat),
    let u := s.turn t
    u.core t = some n → ∀ (rd ra rb : RegNo) (imm : BitVec 15) (disp : BitVec 32) (h : Hazard),
    let z := (u.tile t).slot n
    let checks := fun (i : Instr) (size : Nat) (a : Word) =>
      let legal : Prop := (a.toNat / 2 ^ 48 = 0) ∨ (a.toNat / 2 ^ 56 = 128)
      (h = .datapath → ∃ st : Status, classOf st = 5 ∧ exec i s = .next (u.draw.2.raise t n st z.pc)) ∧
      (h ≠ .datapath → ¬ legal → exec i s = .next (u.raise t n 0x3012 z.pc)) ∧
      (h ≠ .datapath → legal → a.toNat % size ≠ 0 → exec i s = .next (u.raise t n 0x2002 z.pc))
    let at15 := z.rg ra + imm.signExtend 64
    let at32 := z.rg ra + disp.signExtend 64
    (∀ i ∈ [Instr.lb t rd ra imm h, .lbu t rd ra imm h, .sb t rd ra imm h], checks i 1 at15) ∧
    (∀ i ∈ [Instr.lh t rd ra imm h, .lhu t rd ra imm h, .sh t rd ra imm h], checks i 2 at15) ∧
    (∀ i ∈ [Instr.lw t rd ra imm h, .lwu t rd ra imm h, .sw t rd ra imm h, .flw t rd ra imm h, .fsw t rd ra imm h], checks i 4 at15) ∧
    (∀ i ∈ [Instr.ld t rd ra imm h, .sd t rd ra imm h, .fld t rd ra imm h, .fsd t rd ra imm h], checks i 8 at15) ∧
    (rd.val < 16 → ∀ i ∈ [Instr.tld t rd ra imm h, .tst t rd ra imm h], checks i 32 at15) ∧
    (∀ i ∈ [Instr.ldl t rd ra disp h, .sdl t rd ra disp h], checks i 8 at32) ∧
    (∀ i ∈ [Instr.amoAdd t rd ra rb h, .amoSwap t rd ra rb h, .amoAnd t rd ra rb h, .amoOr t rd ra rb h, .amoXor t rd ra rb h,
      .amoMin t rd ra rb h, .amoMax t rd ra rb h, .amoMinu t rd ra rb h, .amoMaxu t rd ra rb h, .amoCas t rd ra rb h], checks i 8 (z.rg ra))) ∧
  (∀ (s : State) (t : Tile) (n : Nat) (st : Status) (pc : BitVec 48),
    let z := (s.tile t).slot n
    s.ctx? z.ctx.toNat = none → recorded st = false →
    let r := s.raise t n st pc
    (r.tile t).slot n = { z with excstat := st, code := false, stall := .none } ∧
    (∀ u m, (u, m) ≠ (t.val, n) → (r.tile u).slot m = (s.tile u).slot m) ∧
    r.treg t 0x8A0 = BitVec.ofNat 64 (z.ctx.toNat * 2 ^ 16 + st.toNat) ∧ r.treg t 0x8A8 = pc.setWidth 64 ∧ r.mem = s.mem) ∧
  (∀ (s : State) (t : Tile) (n : Nat),
    let u := s.turn t
    u.core t = some n → ∀ (rd ra : RegNo) (imm : BitVec 15) (s1 : State) (p : Part),
    let z := (u.tile t).slot n
    u.reachesOne z.ctx.toNat (z.rg ra + imm.signExtend 64) 8 .read s1 p →
    let meets := fun (h : Hazard) (s2 : State) (st : Status) => exec (.ld t rd ra imm h) s = .next (s2.except t n st)
    (s1.partsReached t [p] = false → ∀ h, h ≠ .datapath → exec (.ld t rd ra imm h) s = .next u) ∧
    (s1.partsReached t [p] = true →
      (∀ x, p.place = .pa x → tierOf x = .near →
        meets .cacheTag ((s1.cacheError t z.ctx.toNat (x / 64) true).blame [p]) 0x5002 ∧
        meets .cacheData ((s1.cacheError t z.ctx.toNat (x / 64) false).blame [p]) 0x5002 ∧
        meets .timeout (((s1.countLate 0).timedOutOpen t).blame [p]) 0x5002 ∧ meets .parity s1 0x3012 ∧
        (p.len = 8 → x % 8 = 0 → ∃ s2, meets .uncorrectable s2 0x5002 ∧ FMap.get false s2.mem.bad (x / 64) = true)) ∧
      (∀ nd a, p.place = .far nd a →
        (s1.farUp = true → meets .farDenied s1 0x3020 ∧
          meets .farError ((s1.noteFlaw (s1.farPa p) 0x5020).blame [p]) 0x5002) ∧
        (s1.farUp = false → ∀ h, h ≠ .datapath → meets h (s1.blame [p]) 0x5002))) ∧
    (∀ s3 q, u.reachesOne z.ctx.toNat (z.rg ra + imm.signExtend 64) 8 .write s3 q → s3.partsReached t [q] = true →
      ∀ x, q.place = .pa x → tierOf x = .near → ∃ s4 : State, exec (.sd t rd ra imm .timeout) s = .next (s4.except t n 0x5002))) ∧
  (∀ (s : State) (t : Tile) (c line i : Nat) (tag : Bool), s.Inv → c < 4096 →
    let r := s.cacheError t c line tag
    tst (r.treg t 0x890) (if tag then 1 else 2) = true ∧ FMap.find? r.mem.lines line = none ∧
    (∀ k < 64, FMap.find? r.mem.cache (line * 64 + k) = none) ∧
    ((FMap.find? s.mem.lines line).isSome → i < 64 → tst (s.reg (mtBase + 0x200 + 8 * i)) 63 = false →
      (∀ j < i, tst (s.reg (mtBase + 0x200 + 8 * j)) 63 = true) →
      r.reg (mtBase + 0x200 + 8 * i) = BitVec.ofNat 64 (2 ^ 63 + c * 2 ^ 44 + line % 2 ^ 38 * 64) ∧ tst (r.reg (mtBase + 0x050)) 6 = true))

/-- (1) TWAIT: on a satisfied target it completes, on a target exactly 2^31 ahead it raises `TOKEN_DISTANCE`, else the slot waits;
with no counter set to allocate it raises `COUNTER_SETS_FULL`. The waiting slot goes on once its target is satisfied. (2) TSIGI
adds to the counter at once and TSIG waits for the earlier stores of its slot, whose dirty lines it writes back; it then sends the
signal that its word names. A tile from 640 to 1,021 raises `TILE_SET_INVALID` and TSIGI of 0 is illegal. A slot that has posted a
write to host memory waits for one of the host interface's reads, and a link that is down ends its wait with `HOST_LINK_DOWN`
(`0x6101`, R364, R542). (3) A fence writes back every Near line that its slot's stores made dirty and holds the slot; it completes
at tile and package scope at once, at domain scope once every other node has acknowledged the slot's stores. The fence of a slot
that has posted a write to host memory begins once the host interface has a read free, and a link that is down ends it with
`HOST_LINK_DOWN` (R364, R542). The model's choices: log 38 (when a fence is done), log 39 (when a set is allocated). Rests on R46,
R47, R49, R80, R82, R87, R102. -/
def Obligations.TokenWaitsSignalsAndFences : Prop :=
  (∀ (s : State) (t : Tile) (n : Fin 16) (k : BitVec 8) (rs : RegNo),
    let z := (s.tile t).slot n
    let c := z.ctx.toNat
    let s1 := s.allocSet t c
    let v := s1.counter t c k.toNat
    let target := (z.rg rs).extractLsb' 0 32
    (s.core t = some n.val → s.setRoom t c = true → (target - v).toNat ≠ 2 ^ 31 → (v - target).toNat < 2 ^ 31 →
      exec (.twait t k rs) s = .next (s1.retire t n 4 id)) ∧
    (s.core t = some n.val → s.setRoom t c = true → (target - v).toNat = 2 ^ 31 →
      exec (.twait t k rs) s = .next (s1.raise t n 0x2015 z.pc)) ∧
    (s.core t = some n.val → s.setRoom t c = true → (target - v).toNat ≠ 2 ^ 31 → 2 ^ 31 ≤ (v - target).toNat →
      exec (.twait t k rs) s = .next (s1.onTile t fun x => x.onSlot n fun y => { y with stall := .token k target })) ∧
    (s.core t = some n.val → s.setRoom t c = false → exec (.twait t k rs) s = .next (s.raise t n 0x4010 z.pc)) ∧
    (∀ goal, z.stall = .token k goal → s.moving = true → (s.counter t c k.toNat - goal).toNat < 2 ^ 31 →
      exec (.twaitRelease t n) s = .next (s.retire t n 4 fun y => { y with stall := .none }))) ∧
  (∀ (s : State) (t : Tile) (n : Fin 16) (k : BitVec 8) (rs : RegNo) (imm : BitVec 16),
    let z := (s.tile t).slot n
    let c := z.ctx.toNat
    let tile := ((z.rg rs).extractLsb' 0 10).toNat
    let incr := (z.rg rs).extractLsb' 10 16
    (s.core t = some n.val → s.setRoom t c = true → imm ≠ 0 → ∃ r, exec (.tsigi t k imm) s = .next r ∧
      r.counter t c k.toNat = (s.allocSet t c).counter t c k.toNat + imm.setWidth 32 ∧
      (∀ j, j ≠ k.toNat → r.counter t c j = (s.allocSet t c).counter t c j) ∧ r.mem = s.mem ∧
      (r.tile t).slot n = { z with pc := z.pc + 4 }) ∧
    (s.core t = some n.val → imm = 0 → exec (.tsigi t k imm) s = .next (s.raise t n 0x2001 z.pc)) ∧
    (s.core t = some n.val → s.setRoom t c = false → imm ≠ 0 → exec (.tsigi t k imm) s = .next (s.raise t n 0x4010 z.pc)) ∧
    (s.core t = some n.val → s.setRoom t c = false → tile < 640 ∨ 1021 < tile → incr ≠ 0 →
      exec (.tsig t k rs) s = .next (s.raise t n 0x4010 z.pc)) ∧
    (s.core t = some n.val → 640 ≤ tile → tile ≤ 1021 → exec (.tsig t k rs) s = .next (s.raise t n 0x2004 z.pc)) ∧
    (s.core t = some n.val → tile < 640 ∨ 1021 < tile → incr = 0 → exec (.tsig t k rs) s = .next (s.retire t n 4 id)) ∧
    (s.core t = some n.val → tile < 640 ∨ 1021 < tile → incr ≠ 0 → s.setRoom t c = true → z.posted = true → s.hostReadFree = false →
      exec (.tsig t k rs) s = .next s) ∧
    (s.core t = some n.val → tile < 640 ∨ 1021 < tile → incr ≠ 0 → s.setRoom t c = true → z.posted = false ∨ s.hostReadFree = true →
      ∃ r, exec (.tsig t k rs) s = .next r ∧
      ((r.tile t).slot n).stall = .tsig k (BitVec.ofNat 10 (if tile < 640 then tile else t)) incr ∧
      ((r.tile t).slot n).dirty = [] ∧ ((r.tile t).slot n).pc = z.pc) ∧
    (∀ dest inc, z.stall = .tsig k dest inc → s.moving = true → z.posted = true → s.linkUp = false →
      exec (.scalarFenceDone t n) s = .next (s.raise t n 0x6101 z.pc)) ∧
    (∀ dest inc, z.stall = .tsig k dest inc → s.moving = true → z.posted = false ∨ s.linkUp = true → s.storesAcked t n = true →
      ∃ r, exec (.scalarFenceDone t n) s = .next r ∧
      r.mail.signals = s.mail.signals ++ [⟨c, z.stepno.setWidth 2, t, dest.toNat, k, inc, t⟩] ∧
      (r.tile t).slot n = { z with pc := z.pc + 4, stall := .none, posted := false })) ∧
  (∀ (s : State) (t : Tile) (n : Fin 16),
    let z := (s.tile t).slot n
    let holds := fun (i : Instr) (scope : BitVec 2) => s.core t = some n.val →
      (z.posted = true → s.hostReadFree = false → exec i s = .next s) ∧
      (z.posted = false ∨ s.hostReadFree = true → ∃ r, exec i s = .next r ∧
        ((r.tile t).slot n).stall = .fence scope ∧ ((r.tile t).slot n).dirty = [] ∧ ((r.tile t).slot n).pc = z.pc ∧
        (∀ l ∈ z.dirty, FMap.find? r.mem.lines l = none))
    holds (.fenceT t) 0 ∧ holds (.fenceP t) 1 ∧ holds (.fenceD t) 2 ∧
    (∀ scope, z.stall = .fence scope → s.moving = true → z.posted = true → s.linkUp = false →
      exec (.scalarFenceDone t n) s = .next (s.raise t n 0x6101 z.pc)) ∧
    (∀ scope, z.stall = .fence scope → s.moving = true → z.posted = false ∨ s.linkUp = true → scope ≠ 2 ∨ s.storesAcked t n = true →
      exec (.scalarFenceDone t n) s = .next (s.retire t n 4 fun y => { y with stall := .none, posted := false })) ∧
    (z.stall = .fence 2 → z.posted = false ∨ s.linkUp = true → s.storesAcked t n = false → exec (.scalarFenceDone t n) s = .next s))

/-- (1) STEPEND ends the step's code: the slot runs no more and the step is marked ended. (2) The core turns to an occupied home
slot whose code can run. The slot's state is untouched, and turning to a slot other than the last counts one switch. (3) Code
starts, after a waypoint without save copies and again after a restore, at the step's entry: `g1` its argument, `DEADLINE`,
`STEPNO`, LAYOP all ones, every other `g` register and every `f` and `t` register as it was; the step is in flight from its first
start. A replay's counts begin anew, and a step aborted with an earlier one takes its waypoint counters anew. The model's choices:
log 27 (later steps of an abort), log 41 (when counters are saved). Rests on R29, R60, R61, R176, R377. -/
def Obligations.CodeStartsSwitchesAndEnds : Prop :=
  (∀ (s : State) (t : Tile) (n : Nat) (x : Ctx) (p : Step),
    let z := (s.tile t).slot n
    s.core t = some n → s.ctx? z.ctx.toNat = some x → p ∈ x.steps → p.stepno = z.stepno → ∃ r y, exec (.stepend t) s = .next r ∧
      (r.tile t).slot n = { z with code := false, pc := z.pc + 4 } ∧ r.core t = none ∧
      r.ctx? z.ctx.toNat = some y ∧ { p with ended := true } ∈ y.steps ∧ y.steps.length = x.steps.length ∧ r.mem = s.mem) ∧
  (∀ (s : State) (t : Tile) (n : Fin 16),
    let z := (s.tile t).slot n
    s.moving = true → (s.treg t 0x808).getLsbD 0 = false → (s.slotCtx t n).isSome = true → z.code = true → z.stall = .none →
    (s.tile t).active ≠ some n.val → ∃ r, exec (.homeSlotSwitch t n) s = .next r ∧
      (r.tile t).active = some n.val ∧ (r.tile t).last = some n.val ∧ r.core t = some n.val ∧ (∀ m, (r.tile t).slot m = (s.tile t).slot m) ∧
      r.mem = s.mem ∧
      ((s.tile t).last = some n.val → r.regs = s.regs) ∧
      ((s.tile t).last ≠ some n.val → tst (s.treg t 0x8C8) 63 = false → bits (s.treg t 0x8C8) 0 48 < 2 ^ 48 - 1 →
        bits (r.treg t 0x8C8) 0 48 = bits (s.treg t 0x8C8) 0 48 + 1)) ∧
  (∀ (s : State) (c : CtxId) (t n : Nat) (p : Step), s.moving = true → s.homeOf c.toNat = some (t, n) →
    s.step? c.toNat p.stepno = some p → p.watch.fallback = false →
    let z := (s.tile t).slot n
    let started := fun r : State =>
      (r.tile t).slot n = { z with
        g := ((r.tile t).slot n).g, pc := BitVec.ofNat 48 (recEntry p.words), stepno := p.stepno, layop := 0xFFFFFFFF#32
        deadline := recDeadline p.words, code := true, stall := .none } ∧
      ((r.tile t).slot n).rg 1 = BitVec.ofNat 64 (recArg p.words) ∧ (∀ k, k ≠ 1 → ((r.tile t).slot n).rg k = z.rg k) ∧ r.mem = s.mem
    (s.startable c.toNat = some p → p.wp.saves = [] → ∃ r p', exec (.waypointSaved c) s = .next r ∧ started r ∧
      r.step? c.toNat p.stepno = some p' ∧ p'.phase = .running ∧ p'.ended = false ∧ p'.tally = p.tally ∧ p'.seqs = p.seqs ∧
      p'.codeStart = some (p.codeStart.getD s.chron) ∧ p'.watch.start = s.chron ∧ p'.wp.counters = s.takeCounters c.toNat) ∧
    (s.restorable c.toNat = some p → p.seqs = [] → ∃ r p', exec (.replayRestart c) s = .next r ∧ started r ∧
      r.step? c.toNat p.stepno = some p' ∧ p'.phase = .running ∧ p'.tally.issued = 0 ∧ p'.tally.received = 0 ∧ p'.tally.tiles = [] ∧
      p'.tally.replays = p.tally.replays ∧ p'.generation = p.generation + 1 ∧ p'.ended = false ∧ p'.rerun = false ∧
      p'.wp.counters = (if p.rerun = true then s.takeCounters c.toNat else p.wp.counters)))

/-- (1) Every tensor instruction with descriptors, once its checks pass, sends its pieces' records in order, those of its own tile
to the tile's inbox (R31) and the others on the mesh command channel; where all of them find room (R79, R447; the depth of a
crossing is a constant of log 114) it writes their count to its `g` register, counts them in its step, and goes on after its eight
bytes. Piece `m` goes to tile `first + (m mod count) * stride`, and every record carries the command code, engine, context, job,
step tag and deadline. Where the first finds none, the slot waits with all of them. (2) TTOKEN and TFENCE send one record to each
tile of the set, for the engine that `tb` names, with no operand; they retire once all are accepted, on an idle command channel
with a place in the tile's own inbox. (3) The order of the checks of a tensor instruction: the first that fails gives the
exception, and nothing issues. Rests on R74 to R79, R103 to R109, R548. -/
def Obligations.TensorInstructionsSendPieces : Prop :=
  (∀ (s : State) (t : Tile) (n : Nat) (i : TensorInsn), s.core t = some n →
    let z := (s.tile t).slot n
    ∀ q ∈ [(Instr.tmm t i, opMatrix, 0x10#8, 0#4), (.tscore t i, opScore, 0x11, 0), (.tread t i, opRead, 0x12, 0),
      (.tvop t i, opVop, 0x20, 1), (.tcvt t i, opCvt, 0x21, 1), (.tsfn t i, opSfn, 0x22, 1), (.tstat t i, opStat, 0x23, 1),
      (.tnorm t i, opNorm, 0x24, 1), (.tsmax t i, opSmax, 0x25, 1), (.troute t i, opRoute, 0x26, 1), (.tcomb t i, opComb, 0x27, 1),
      (.tpld t i, opLoad, 0x30, 2), (.tgath t i, opGather, 0x31, 2), (.tstw t i, opStow, 0x38, 6), (.tscat t i, opScatter, 0x39, 6),
      (.tatom t i, opAtom, 0x3A, 6), (.tcred t i, opReduce, 0x40, 8), (.tcgath t i, opCollect, 0x41, 8), (.tcrow t i, opRowStats, 0x42, 8)],
    ∀ set rs, s.formsPieces t n i q.2.1 set rs →
      (∀ p ps, rs = p :: ps → s.acceptsPiece t p.1 = false → exec q.1 s =
        .next (s.onTile t fun x => x.onSlot n fun y => { y with stall := .issue rs i.gd rs.length })) ∧
      (s.takesPieces t rs → ∃ r, exec q.1 s = .next r ∧
      r.mail = { s.mail with channel := s.mail.channel ++ rs.filter fun p => p.1 ≠ t.val } ∧
      (r.tile t).work.inbox = (s.tile t).work.inbox ++ (rs.filter fun p => p.1 = t.val).map (·.2) ∧
      (r.tile t).slot n = { z.wg i.gd (BitVec.ofNat 64 rs.length) with pc := z.pc + 8 } ∧
      (∀ u m, (u, m) ≠ (t.val, n) → (r.tile u).slot m = (s.tile u).slot m) ∧ r.mem = s.mem ∧
      (∀ p, s.step? z.ctx.toNat z.stepno = some p → ∃ p', r.step? z.ctx.toNat z.stepno = some p' ∧
        p'.tally.issued = p.tally.issued + rs.length ∧ p'.phase = p.phase) ∧
      ∀ m (h : m < rs.length), rs[m].1 = set.1 + m % set.2.1 * set.2.2 ∧ rs[m].2.code = q.2.2.1 ∧ rs[m].2.engine = q.2.2.2 ∧
        rs[m].2.variant = i.var.setWidth 4 ∧ rs[m].2.ctx = z.ctx ∧ rs[m].2.job = z.job ∧ rs[m].2.home = BitVec.ofNat 10 t ∧
        rs[m].2.tag = z.stepno.setWidth 2 ∧ rs[m].2.deadline = z.deadline)) ∧
  (∀ (s : State) (t : Tile) (n : Nat) (i : TensorInsn), s.core t = some n →
    let z := (s.tile t).slot n
    ∀ q ∈ [(Instr.ttoken t i, 1, 1#8), (.tfence t i, 3, 2#8)], ∀ set sig,
      encodingOk i q.2.1 .engine = true → tileSet t (z.rg i.gs) = some set → signalOf i z = .ok sig →
      s.mail.channel = [] → s.pathClear t t = true → (s.tile t).work.inbox.length < 256 →
      ∃ (r : State) (rs : List (Nat × Rec)), exec q.1 s = .next r ∧ r.mail = { s.mail with channel := rs.filter fun p => p.1 ≠ t.val } ∧
        (r.tile t).work.inbox = (s.tile t).work.inbox ++ (rs.filter fun p => p.1 = t.val).map (·.2) ∧ rs.length = set.2.1 ∧
        (r.tile t).slot n = { z.wg i.gd (BitVec.ofNat 64 set.2.1) with pc := z.pc + 8 } ∧ r.mem = s.mem ∧
        ∀ m (h : m < rs.length), rs[m].1 = set.1 + m % set.2.1 * set.2.2 ∧ rs[m].2.code = q.2.2 ∧ rs[m].2.engine = i.tb ∧
          rs[m].2.ctx = z.ctx ∧ rs[m].2.a = .absent ∧ rs[m].2.b = .absent ∧ rs[m].2.d = .absent ∧ rs[m].2.signals = sig.isSome) ∧
  (∀ (s : State) (t : Tile) (n : Nat) (i : TensorInsn), s.core t = some n →
    let z := (s.tile t).slot n
    let raises := fun (c : Instr) (st : Status) => exec c s = .next (s.raise t n st z.pc)
    ∀ q ∈ [(Instr.tmm t i, opMatrix), (.tscore t i, opScore), (.tread t i, opRead), (.tvop t i, opVop), (.tcvt t i, opCvt),
      (.tsfn t i, opSfn), (.tstat t i, opStat), (.tnorm t i, opNorm), (.tsmax t i, opSmax), (.troute t i, opRoute), (.tcomb t i, opComb),
      (.tpld t i, opLoad), (.tgath t i, opGather), (.tstw t i, opStow), (.tscat t i, opScatter), (.tatom t i, opAtom),
      (.tcred t i, opReduce), (.tcgath t i, opCollect), (.tcrow t i, opRowStats)],
    let k := q.2.tb i.var.toNat
    (encodingOk i q.2.vars k = false → raises q.1 0x2001) ∧
    (encodingOk i q.2.vars k = true → tileSet t (z.rg i.gs) = none → raises q.1 0x2004) ∧
    (encodingOk i q.2.vars k = true → (tileSet t (z.rg i.gs)).isSome = true → i.se = true → i.sr = true →
      640 ≤ ((z.rg i.sv.toNat).extractLsb' 0 10).toNat → ((z.rg i.sv.toNat).extractLsb' 0 10).toNat ≤ 1021 → raises q.1 0x2004) ∧
    (∀ set sig, s.tensorSet t n i q.2 set sig → paramOf k i z = none → raises q.1 0x2003) ∧
    (∀ set sig, s.tensorSet t n i q.2 set sig → Desc.read (z.desc i.td.toNat) = none ∨ Desc.read (z.desc i.ta.toNat) = none ∨
      (k = .desc ∧ Desc.read (z.desc i.tb.toNat) = none) → raises q.1 0x2003))

/-- (1) A tile set: the value zero names the home tile; otherwise first tile, count and stride, which must stay on tiles 0 to 639;
anything else, and any value with a reserved bit set, is refused. (2) A matrix instruction of one batch member forms a piece for
every 128 output columns and 1,024 rows, and the pieces cover every row and column of the result once. Rests on R75, R76, R77. -/
def Obligations.TileSetsAndPieces : Prop :=
  (∀ (home : Nat) (w : Word),
    let first := bits w 0 10
    let count := bits w 10 10
    let stride := bits w 20 10
    (w = 0 → tileSet home w = some (home, 1, 0)) ∧
    (w ≠ 0 → bits w 30 34 = 0 → 1 ≤ count → count ≤ 640 → (stride ≠ 0 ∨ count = 1) → first + (count - 1) * stride ≤ 639 →
      tileSet home w = some (first, count, stride)) ∧
    (w ≠ 0 → bits w 30 34 ≠ 0 ∨ count = 0 ∨ 640 < count ∨ (stride = 0 ∧ count ≠ 1) ∨ 639 < first + (count - 1) * stride →
      tileSet home w = none)) ∧
  (∀ (d a b : Desc) (m : Nat) (ps : List Piece), formMatrix d a b m = some ps →
    ps.length = (d.cols + 127) / 128 * ((d.rows + 1023) / 1024) ∧
    (∀ p ∈ ps, p.rows ≤ 1024 ∧ p.cols ≤ 128 ∧ p.extent = a.cols) ∧
    ∀ r c, r < d.rows → c < d.cols → ∃! p, p ∈ ps ∧ ∃ x, p.d = some x ∧ x.r0 ≤ r ∧ r < x.r0 + x.nr ∧ x.c0 ≤ c ∧ c < x.c0 + x.nc)

/-- (1) A record on the command channel reaches its tile's inbox, in order, while the inbox has a place; the code of its flits
corrects an error (`TL_ERR[6]`), and a message with an error that it does not correct (`TL_ERR[7]`, recorded once) stays on the
channel (the model's choice, log 93). (2) Parked records that have returned go first. `parity` says that the region table is read
with a wrong parity (Table 18-7). Else the first record of the inbox that can move leaves it: past its checks it enters its queue
with the next entry number and its wait as the counters stand; a check that fails ends it with that status, reported to its home
tile. A returned record enters with the next entry number too, and a partition of another context denies it. On a Faulted tile the
first record ends with `TILE_FAULTED` (`0x6011`). (3) The order of the checks at queue entry; the region table read with a wrong
parity fails the sixth of a record that names a scratchpad. Rests on R43, R44, R111, R112, R260, R261. -/
def Obligations.RecordsReachTheirQueues : Prop :=
  (∀ (s : State) (t : Tile) (f : Flits) (x : Rec) (before after : List (Nat × Rec)),
    s.moving = true → (s.tile t).work.inbox.length < 256 → s.mail.channel = before ++ (t.val, x) :: after →
    (∀ p ∈ before, p.1 ≠ t.val) → s.fromHome x.ctx.toNat t = true →
    (f ≠ .uncorrectable → ∃ r, exec (.commandArrival t f) s = .next r ∧
      r.mail = { s.mail with channel := before ++ after } ∧ (r.tile t).work = { (s.tile t).work with inbox := (s.tile t).work.inbox ++ [x] } ∧
      (∀ u, u ≠ t.val → r.tile u = s.tile u) ∧ r.mem = s.mem ∧
      tst (r.treg t 0x018) 6 = (f = .corrected || tst (s.treg t 0x018) 6)) ∧
    (let s1 := s.orReg (tileBase t + 0x018) 0x80
     exec (.commandArrival t .uncorrectable) s = .next (if tst (s.treg t 0x018) 7 then s1 else s1.log (tileFault 0 2 t 0 0xFFF 0)))) ∧
  (∀ (s : State) (t : Tile) (parity : Bool),
    let w := (s.tile t).work
    let report := fun (x : Rec) (st : Status) => (⟨x.home.toNat, x.ctx.toNat, x.tag, st, w.target x, t, x.layop, true, (0, 0)⟩ : Report)
    let enters := fun (r : State) (x : Entry) =>
      (r.tile t).work.queue (w.target x.cmd) = w.queue (w.target x.cmd) ++ [x] ∧
      (∀ e, e ≠ w.target x.cmd → (r.tile t).work.queue e = w.queue e) ∧ (r.tile t).work.nextOrd = w.nextOrd + 1 ∧
      r.mail = s.mail ∧ r.mem = s.mem
    let stays := fun (p : Parked) => p.entry = returning → s.canMove t p.ent.cmd = false
    s.moving = true →
    (∀ (x : Rec) (before after : List Rec), w.inbox = before ++ x :: after → s.faultedTile t = false → (∀ p ∈ w.parked, stays p) →
      (∀ y ∈ before, s.canMove t y = false) → s.canMove t x = true →
      (s.entryStatus t x parity = none → s.parkEntry t x = none → ∃ r, exec (.queueEntry t parity) s = .next r ∧
        enters r ⟨x, w.nextOrd, ! x.waits || decide ((s.counter t x.ctx.toNat x.waitK.toNat - x.target).toNat < 2 ^ 31)⟩ ∧
        (r.tile t).work.inbox = before ++ after) ∧
      (∀ st, s.entryStatus t x parity = some st → ∃ r, exec (.queueEntry t parity) s = .next r ∧
        (r.tile t).work = { w with inbox := before ++ after } ∧ r.mem = s.mem ∧
        r.mail = { s.mail with reports := s.mail.reports ++ [report x st] })) ∧
    (∀ (p : Parked) (before after : List Parked), w.parked = before ++ p :: after → s.faultedTile t = false → (∀ q ∈ before, stays q) →
      p.entry = returning → s.canMove t p.ent.cmd = true →
      (s.partitioned t = true → s.partOwner t ≠ p.ent.cmd.ctx.toNat → ∃ r, exec (.queueEntry t parity) s = .next r ∧
        (r.tile t).work = { w with parked := before ++ after } ∧ r.mem = s.mem ∧
        r.mail = { s.mail with reports := s.mail.reports ++ [report p.ent.cmd 0x3061] }) ∧
      (s.partitioned t = false ∨ s.partOwner t = p.ent.cmd.ctx.toNat → s.parkEntry t p.ent.cmd = none →
        ∃ r, exec (.queueEntry t parity) s = .next r ∧ enters r { p.ent with ord := w.nextOrd } ∧
          (r.tile t).work.parked = before ++ after ∧ (r.tile t).work.inbox = w.inbox)) ∧
    (∀ (x : Rec) (after : List Rec), w.inbox = x :: after → s.faultedTile t = true → ∃ r, exec (.queueEntry t parity) s = .next r ∧
      (r.tile t).work = { w with inbox := after } ∧
      r.mail = { s.mail with reports := s.mail.reports ++ [{ report x 0x6011 with eng := x.engine.toNat }] })) ∧
  (∀ (s : State) (t : Nat) (x : Rec),
    let c := x.ctx.toNat
    let inRange := x.scratch.all fun p => p.1 < 640 && p.2.1 + p.2.2 ≤ 0x3000000
    let near := ! x.waits || decide ((x.target - s.counter t c x.waitK.toNat).toNat ≠ 2 ^ 31)
    let mine := ! s.partitioned t || s.partOwner t = c
    let regions := x.scratch.all fun p => s.inRegions t p.1 c p.2.1 p.2.2
    (x.valid = false → s.entryStatus t x = some 0x2005) ∧
    (x.valid = true → 1024 < x.rows.toNat → s.entryStatus t x = some 0x2013) ∧
    (x.valid = true → x.rows.toNat ≤ 1024 → inRange = false → s.entryStatus t x = some 0x2012) ∧
    (x.valid = true → x.rows.toNat ≤ 1024 → inRange = true → near = false → s.entryStatus t x = some 0x2015) ∧
    (x.valid = true → x.rows.toNat ≤ 1024 → inRange = true → near = true → mine = false → s.entryStatus t x = some 0x3061) ∧
    (x.valid = true → x.rows.toNat ≤ 1024 → inRange = true → near = true → mine = true → regions = false →
      s.entryStatus t x = some 0x3011) ∧
    (x.valid = true → x.rows.toNat ≤ 1024 → inRange = true → near = true → mine = true → x.scratch ≠ [] →
      s.entryStatus t x true = some 0x3011) ∧
    (x.valid = true → x.rows.toNat ≤ 1024 → inRange = true → near = true → mine = true → regions = true → s.setRoom t c = false →
      s.entryStatus t x = some 0x4010) ∧
    (x.valid = true → x.rows.toNat ≤ 1024 → inRange = true → near = true → mine = true → regions = true → s.setRoom t c = true →
      s.entryStatus t x = none))

/-- (1) Deadline order: apart from a floor selection, the engine picks an eligible command that none precedes: lowest deadline,
compared as an unsigned 64-bit number, so that the all-ones deadline comes last and one that has passed ranks as its value; then
higher priority, then earlier entry. A floor selection comes once in `F` and takes the first entry of the next context after the
one it took last. (2) An engine that is free starts the command it picks: it leaves its queue and runs with the status of its
selection checks. Rests on R255, R256, R258. -/
def Obligations.EnginesSelectByDeadline : Prop :=
  (∀ (w : Work) (e F : Nat) (xs : List Entry) (x : Entry) (floor : Bool), w.pickOf e F xs = some (x, floor) →
    x ∈ xs ∧ (floor = true ↔ (FMap.get 0 w.sel e + 1) % F = 0) ∧
    (floor = false → ∀ y ∈ xs, x.cmd.deadline.toNat < y.cmd.deadline.toNat ∨ (x.cmd.deadline = y.cmd.deadline ∧
      (w.prio y.cmd.ctx.toNat < w.prio x.cmd.ctx.toNat ∨ (w.prio y.cmd.ctx.toNat = w.prio x.cmd.ctx.toNat ∧ x.ord ≤ y.ord)))) ∧
    (floor = true → xs.find? (fun y => decide (y.cmd.ctx = x.cmd.ctx)) = some x) ∧
    (floor = true → ∀ last, FMap.find? w.lastFloor e = some last →
      (∀ y ∈ xs, last < y.cmd.ctx.toNat → last < x.cmd.ctx.toNat ∧ x.cmd.ctx.toNat ≤ y.cmd.ctx.toNat) ∧
      ((∀ y ∈ xs, y.cmd.ctx.toNat ≤ last) → ∀ y ∈ xs, x.cmd.ctx.toNat ≤ y.cmd.ctx.toNat))) ∧
  (∀ (s : State) (t : Tile) (e : EngineNo) (x : Entry) (floor : Bool),
    let w := (s.tile t).work
    s.moving = true → (s.treg t 0x008).getLsbD 0 = false → (s.tile t).engineFree e = true →
    w.pickOf e (bits (s.treg t 0x728) 0 7) ((w.queue e).filter (s.eligible t e)) = some (x, floor) → s.traceStalls t = false →
    ∃ r st, exec (.engineSelect t e) s = .next r ∧ st = s.selectStatus t x.cmd ∧
      (r.tile t).work = { w with
        queues := FMap.put [] w.queues e ((w.queue e).filter fun y => y.ord != x.ord)
        running := w.running ++ [⟨x.cmd, e, x.ord, st != 0, st, [], [], none, (0, 0), false, s.chron, .none, 0, 0⟩]
        sel := FMap.put 0 w.sel e (FMap.get 0 w.sel e + 1)
        lastFloor := if floor then FMap.put 4095 w.lastFloor e x.cmd.ctx.toNat else w.lastFloor } ∧
      r.mail = s.mail ∧ r.mem = s.mem ∧ ∀ u, u ≠ t.val → r.tile u = s.tile u)

/-- (1) A piece whose work is over completes: it leaves its engine, its home tile is told, and it signals unless it failed, was
flushed or its tile is Faulted. A piece that has not been issued, in its engine's queue, parked, in the inbox or on the command
channel, 10 ms past its deadline, ends with `STALLED_PAST_DEADLINE` and no effect. (2) TOKEN completes at its selection and
applies its signal, unless its tile is Faulted (R480). FENCE begins to hold later commands of its context, and completes, with its
signal, once every earlier command of its context in the queues it covers is complete. Rests on R78, R84, R134 to R137. -/
def Obligations.PiecesComplete : Prop :=
  (∀ (s : State) (t : Tile) (e : EngineNo) (i : Nat), s.moving = true →
    let w := (s.tile t).work
    (∀ x, s.run? t e i = some x → x.formed = true → x.reqs = [] → x.cmd.code ≠ 1 → x.cmd.code ≠ 2 → x.suppressed = false →
      s.nwEntry t x.cmd = none → ∃ r, exec (.pieceCompletion t e i) s = .next r ∧
        (r.tile t).work = { w with running := w.running.filter fun y => y.ord != x.ord } ∧ r.mem = s.mem ∧
        r.mail.notices ++ r.mail.reports = (if classOf x.status = 0 then s.mail.notices ++
            [⟨x.cmd.home.toNat, x.cmd.ctx.toNat, x.cmd.tag, x.status, x.eng, t, x.cmd.layop, true, x.spot⟩] ++ s.mail.reports
          else s.mail.notices ++ s.mail.reports ++
            [⟨x.cmd.home.toNat, x.cmd.ctx.toNat, x.cmd.tag, x.status, x.eng, t, x.cmd.layop, true, x.spot⟩]) ∧
        r.mail.signals = s.mail.signals ++ (if classOf x.status ≤ 1 ∧ s.faultedTile t = false ∧ x.cmd.signals ∧ x.cmd.incr ≠ 0
          then [⟨x.cmd.ctx.toNat, x.cmd.tag, x.cmd.home.toNat, x.cmd.sigTile.toNat, x.cmd.sigK, x.cmd.incr, t⟩] else [])) ∧
    (∀ x, (s.unissued t e)[i]? = some x → x.deadline ≠ BitVec.allOnes 64 → x.deadline.toNat + 10000000 ≤ s.chron.toNat →
      ∃ r, exec (.stalledPastDeadline t e i) s = .next r ∧ r.mem = s.mem ∧ r.unissued t e = (s.unissued t e).erase x ∧
        r.mail.reports = s.mail.reports ++ [⟨x.home.toNat, x.ctx.toNat, x.tag, 0x8002, e, t, x.layop, true, (0, 0)⟩])) ∧
  (∀ (s : State) (t : Tile) (e : EngineNo) (i : Nat) (x : Run),
    let w := (s.tile t).work
    s.moving = true → s.run? t e i = some x → x.suppressed = false →
    let ends := fun r : State =>
      (r.tile t).work = { w with running := w.running.filter fun y => y.ord != x.ord } ∧
      r.mail = { s.mail with
        notices := s.mail.notices ++ [⟨x.cmd.home.toNat, x.cmd.ctx.toNat, x.cmd.tag, 0, x.eng, t, x.cmd.layop, true, x.spot⟩]
        signals := s.mail.signals ++ (if x.cmd.signals ∧ x.cmd.incr ≠ 0 ∧ s.faultedTile t = false
          then [⟨x.cmd.ctx.toNat, x.cmd.tag, x.cmd.home.toNat, x.cmd.sigTile.toNat, x.cmd.sigK, x.cmd.incr, t⟩] else []) } ∧ r.mem = s.mem
    (x.cmd.code = 1 → ∃ r, exec (.token t e i) s = .next r ∧ ends r) ∧
    (x.cmd.code = 2 → ∃ r, exec (.fence t e i) s = .next r ∧ r.mail = s.mail ∧ r.mem = s.mem ∧
      (r.tile t).work = { w with running := w.running.map fun y => if y.ord = x.ord then { y with formed := true } else y }) ∧
    (x.cmd.code = 2 → x.formed = true →
      (∀ q ∈ fenceCovers x.eng, ∀ y ∈ w.queue q, y.cmd.ctx = x.cmd.ctx → x.ord < y.ord) →
      (∀ y ∈ w.running, y.eng ∈ fenceCovers x.eng → y.cmd.ctx = x.cmd.ctx → x.ord ≤ y.ord) →
      ∃ r, exec (.fenceCmdDone t e i) s = .next r ∧ ends r))

/-- (1) A matrix piece computes each output as the sum over depth groups of 32 of products of its operands' elements, block scales
applied in the FP32 accumulator, from zero or from the kept result (ADD); with KEEP the result stays in the accumulator, with what
its checksum cells hold, else D takes it, rounded to nearest even in its format, masked scores as minus infinity. A word of the
accumulator that a fault strikes enters the results and the checks. A check that fails, of the residues or of a row's or column's
checksum, ends it with `MATRIX_CHECK` (`0x5010`) and writes nothing. (2) A matrix piece whose operands are not reached over the
tile's links waits (R492). (3) The row and column check of the matrix engine, for `g` roundings of a chain: it fails just where
every value is finite and the checksum of the results differs from the sum of the products by more than the bound of R477. The
model's choices: log 110 (which rows and columns are checked, and their tree of sums). Rests on R34, R115 to R117, R154 to R157,
R477. -/
def Obligations.MatrixPieces : Prop :=
  (∀ (s s3 s6 : State) (t : Tile) (u : Upset) (x : Run) (ga gb gd : Geo) (ia ib : List (List Byte)) (pd : List (List Part)) (m : Measure),
    let r := x.cmd
    let code := r.code.toNat
    let narrow := (2 ≤ r.fa.toNat ∧ r.fa.toNat ≤ 8) ∧ ((2 ≤ r.fb.toNat ∧ r.fb.toNat ≤ 8) ∨ r.fb.toNat = 10)
    let bf := ! decide narrow
    let at_ := fun (n k : Nat) => if code = 0x12 then (k, n) else (n, k)
    let el := fun i n k => Machine.Num.mul (edge r.fa ga ia i k) (edge r.fb gb ib (at_ n k).1 (at_ n k).2)
    let sc := fun i n k => scaleExp r.fa ga ia i k + scaleExp r.fb gb ib (at_ n k).1 (at_ n k).2
    let kept := if r.adds then (s3.tile t).work.kept else none
    let old := fun i n => match kept with | some k => (k.data.getD i []).getD n 0 | none => 0
    let sound := tabulate r.rows.toNat r.cols.toNat fun i n => accumulate bf r.extent.toNat (el i n) (sc i n) (old i n)
    let acc := match u with | .cell i n v => sound.modify i fun row => row.set n v | _ => sound
    let zero : Machine.Num × Machine.Num := (.fin false 0 0, .fin false 0 0)
    let sums := matrixSums r ga gb ia ib at_ fun i n => match kept with | some k => (k.sums.getD i []).getD n zero | none => zero
    let groups := (match kept with | some k => k.groups | none => 0) + (r.extent.toNat + 31) / 32
    let failing := checksFail (if bf then groups + 5 else groups) r.cols.toNat acc sums
    let busy := matrixBusy r
    let counted := fun s' : State => (s'.tcount t 0x300 busy.1).tcount t 0x308 busy.2
    let finish := fun (s' : State) (st : Status) (m : Measure) => s'.onRun t x.ord fun y => ((y.done st m busy.1).post (s.written r)).confirm
    let hidden := fun (i n : Nat) => decide (code = 0x11 ∧ r.variant.getLsbD 0 = true ∧ r.param.toInt + i < n)
    let out := tabulate r.rows.toNat r.cols.toNat fun i n =>
      let v := (acc.getD i []).getD n 0
      if hidden i n then Machine.Num.inf true else f32 (if v = 0x80000000#32 then 0 else v)
    let quiet := (tabulate r.rows.toNat r.cols.toNat hidden).foldl (fun k l => k + l.countP id) 0
    s.moving = true → s.current t 0 code = some x → s.operandsReached t r = true → x.suppressed = false → r.geoA = some ga →
    r.geoB = some gb → (s.drain t).fetchesAB r ia ib pd s3 → (s3.tile t).upkeep.injChecksum = false → (s3.tile t).upkeep.injResidue = false →
    ∀ i : Instr, (i = .mmul t u ∧ code = 0x10) ∨ (i = .mscore t u ∧ code = 0x11) ∨ (i = .mread t u ∧ code = 0x12) →
    (u ≠ .checksum → u ≠ .residue → failing = false → r.geoD = none →
      exec i s = .next (finish ((counted s3).setKept t r acc sums groups) 0 .none)) ∧
    (u ≠ .checksum → u ≠ .residue → failing = false → r.geoD = some gd → (counted s3).writeOut r gd pd .rne out quiet = (s6, .ok m) →
      exec i s = .next (finish (s6.setKept t r acc sums groups) 0 m)) ∧
    (u = .checksum ∨ (u ≠ .residue ∧ failing = true) →
      exec i s = .next (finish (counted (s3.orReg (tileBase t + 0x018) 4)) 0x5010 .none)) ∧
    (u = .residue → exec i s = .next (finish (counted (s3.orReg (tileBase t + 0x018) 256)) 0x5010 .none))) ∧
  (∀ (s : State) (t : Tile) (u : Upset) (x : Run),
    ∀ q ∈ [(Instr.mmul t u, 0x10), (.mscore t u, 0x11), (.mread t u, 0x12)],
    s.current t 0 q.2 = some x → s.operandsReached t x.cmd = false → exec q.1 s = .next s) ∧
  (∀ (g : Nat) (els : List (BitVec 32)) (sums : List (Machine.Num × Machine.Num)),
    let p := treeSum 10 (els.map f32)
    let c := exactSum (sums.map (·.1))
    let m := exactSum (sums.map (·.2))
    lineFails g els sums = true ↔
      (∀ x ∈ els, (f32 x).isFin = true) ∧ p.isFin = true ∧ c.isFin = true ∧ m.isFin = true ∧
      Machine.Num.lt (Machine.Num.add .rne ((Machine.Num.mul (Machine.Num.ofInt (2 * g + 16)) m).shift (-24)) (.fin false 1 (-132)))
        (Machine.Num.add .rne p c.neg).abs = true)

/-- (1) What vector pieces with sound arithmetic write to D: VOP's element operations with B broadcast by its shape, VCVT's
conversion, VSFN's table, VSTAT's row records, VNORM and VSMAX by records; their status is 0, or `EMPTY_ROW` (`0x1010`) where a
row is empty. (2) VOP in INT32 works modulo 2^32 on the elements' codes, and measures nothing for the norm watch. (3) A lane whose
residue does not agree ends any vector piece with `0x5071` before it writes. Rests on R118 to R123, R183, R190 to R192, R198,
R479. -/
def Obligations.VectorPieces : Prop :=
  (∀ (s s2 s3 s4 : State) (t : Tile) (x : Run) (ga gb gd : Geo) (ia ib : List (List Byte)) (pb pd : List (List Part)) (m : Measure),
    let r := x.cmd
    let code := r.code.toNat
    let var := r.variant.toNat
    let function := code = 0x22 ∨ code = 0x25 ∨ ((code = 0x23 ∨ code = 0x24) ∧ var = 2)
    let n := (r.rows.toNat * r.extent.toNat + 63) / 64 + (if function then 12 else 0)
    let a := fun i c => ga.f32 ia i c
    let b := fun i c => gb.f32 ib (if r.bshape = 2 then 0 else i) (if r.bshape = 1 then 0 else c)
    let ends := fun (i : Instr) (s' : State) (st : Status) (m : Measure) =>
      exec i s = .next (s'.onRun t x.ord fun y => ((y.done st m n).post (s.written r)).confirm)
    let wide := fun f => tabulate ga.rows ga.cols f
    let stats := (wide a).map fun l => rowStat (expoOf (s2.compatTable t r)) var l
    let records := ib.map readStat
    let normed := ((wide a).zipIdx).map fun p =>
      let q := records.getD p.2 (.empty, 0)
      p.1.map fun v => if emptyNorm var q.1 then 0 else normValue (s3.compatTable t r) var q v
    let maxima := (wide a).map fun l => rowStat (expoOf (s2.compatTable t r)) 2 l
    let part := r.variant.getLsbD 0
    let soft := ((wide a).zip maxima).map fun p => smaxRow (s2.compatTable t r) part p.2 p.1
    let noRow := if ! part && maxima.any (fun q => q.n = 0) then 0x1010 else 0
    s.moving = true → s.current t 1 code = some x → s.operandsReached t r = true → x.suppressed = false → r.geoA = some ga →
    r.geoD = some gd → ((s.drain t).tile t).upkeep.injVector = false → ((s.drain t).tcount t 0x310 n).fetchesA r ia pb pd s2 →
    (code = 0x20 → r.allInt = false → 1 ≤ var → var ≤ 5 → r.geoB = some gb → s2.readLines r.ctx.toNat pb = (s3, .ok ib) →
      s3.write32 r gd pd (wide fun i c => match var with
        | 1 => vAdd (a i c) (b i c) | 2 => vSub (a i c) (b i c) | 3 => vMul (a i c) (b i c) | 4 => vMax (a i c) (b i c)
        | _ => vMin (a i c) (b i c)) 0 = (s4, .ok m) → ends (.vop t .none) s4 0 m) ∧
    (code = 0x20 → r.allInt = false → var = 0 ∨ 6 ≤ var → r.geoB = some gb →
      s2.write32 r gd pd (wide fun i c => match var with
        | 0 => a i c | 6 => codeF32 (f32 (a i c)).abs | _ => codeF32 (f32 (a i c)).neg) 0 = (s4, .ok m) → ends (.vop t .none) s4 0 m) ∧
    (code = 0x21 → s2.writeOut r gd pd (match var with | 0 => .rne | 1 => .rtz | 2 => .down | _ => .up)
        (tabulate ga.rows ga.cols fun i c => if ga.fmt = 11 then ga.value ia i c else f32 (a i c)) 0 = (s4, .ok m) →
      ends (.vcvt t .none) s4 0 m) ∧
    (∀ ws, code = 0x22 → s2.table t (r.param.toNat % 16) = some ws →
      s2.write32 r gd pd (wide fun i c => evalTable ws (a i c)) 0 = (s4, .ok m) → ends (.vsfn t .none) s4 0 m) ∧
    (code = 0x23 → let rs := stats.map fun q => (q, if var = 2 then 0 else epsCode r.param.toNat)
      s2.writeStats r.ctx.toNat pd rs = (s4, .ok ()) → ends (.vstat t .none) s4 0 (statMeasure rs)) ∧
    (code = 0x24 → s2.readLines r.ctx.toNat pb = (s3, .ok ib) → s3.write32 r gd pd normed 0 = (s4, .ok m) →
      ends (.vnorm t .none) s4 (if (records.take r.rows.toNat).any (fun q => emptyNorm var q.1) then 0x1010 else 0) m) ∧
    (code = 0x25 → part = false → s2.write32 r gd pd soft 0 = (s4, .ok m) → ends (.vsmax t .none) s4 noRow m) ∧
    (code = 0x25 → part = true → s2.write32 r gd pd soft 0 = (s3, .ok m) →
      s3.writeStats r.ctx.toNat pb (maxima.map fun q => (q, 0)) = (s4, .ok ()) →
      ends (.vsmax t .none) s4 0 { m with events := m.events.add (statMeasure (maxima.map fun q => (q, 0))).events })) ∧
  (∀ (s s2 s3 s4 : State) (t : Tile) (x : Run) (ga gb gd : Geo) (ia ib : List (List Byte)) (pb pd : List (List Part)),
    let r := x.cmd
    let var := r.variant.toNat
    let n := (r.rows.toNat * r.extent.toNat + 63) / 64
    let a := fun i c => BitVec.ofNat 32 (ga.code ia i c)
    let b := fun i c => BitVec.ofNat 32 (gb.code ib (if r.bshape = 2 then 0 else i) (if r.bshape = 1 then 0 else c))
    let words := tabulate ga.rows ga.cols fun i c => match var with
      | 0 => a i c
      | 1 => BitVec.ofInt 32 ((a i c).toInt + (b i c).toInt) | 2 => BitVec.ofInt 32 ((a i c).toInt - (b i c).toInt)
      | 3 => BitVec.ofInt 32 ((a i c).toInt * (b i c).toInt) | 4 => BitVec.ofInt 32 (max (a i c).toInt (b i c).toInt)
      | 5 => BitVec.ofInt 32 (min (a i c).toInt (b i c).toInt)
      | 6 => BitVec.ofInt 32 (a i c).toInt.natAbs | _ => BitVec.ofInt 32 (-(a i c).toInt)
    s.moving = true → s.current t 1 0x20 = some x → s.operandsReached t r = true → x.suppressed = false → r.geoA = some ga →
    r.geoB = some gb → r.geoD = some gd → ((s.drain t).tile t).upkeep.injVector = false →
    ((s.drain t).tcount t 0x310 n).fetchesA r ia pb pd s2 →
    r.fa = 11 → r.fd = 11 → var < 8 → (1 ≤ var → var ≤ 5 → r.fb = 11 ∧ s2.readLines r.ctx.toNat pb = (s3, .ok ib)) →
    (var = 0 ∨ 6 ≤ var → s3 = s2 ∧ ib = []) →
    s3.writeLines r.ctx.toNat pd (gd.image (words.map fun l => (l.map BitVec.toNat, []))) = (s4, .ok ()) →
    exec (.vop t .none) s = .next (s4.onRun t x.ord fun y => ((y.done 0 .none n).post (s.written r)).confirm)) ∧
  (∀ (s : State) (t : Tile) (x : Run),
    let r := x.cmd
    let function := r.code = 0x22 ∨ r.code = 0x25 ∨ ((r.code = 0x23 ∨ r.code = 0x24) ∧ r.variant = 2)
    let n := (r.rows.toNat * r.extent.toNat + 63) / 64 + (if function then 12 else 0)
    s.moving = true → s.current t 1 r.code.toNat = some x → s.operandsReached t r = true → x.suppressed = false →
    ((s.drain t).tile t).upkeep.injVector = false →
    ∀ q ∈ [(Instr.vop t .residue, 0x20#8), (.vcvt t .residue, 0x21), (.vsfn t .residue, 0x22), (.vstat t .residue, 0x23),
      (.vnorm t .residue, 0x24), (.vsmax t .residue, 0x25)], r.code = q.2 →
    exec q.1 s = .next (((s.drain t).tcount t 0x310 n).onRun t x.ord fun y => ((y.done 0x5071 .none n).post (s.written r)).confirm))

/-- (1) A pilot or stow piece, after the writes that its tile's router has accepted, once its pages, grants and index list have
been checked and its requests formed, runs with those requests, with what it zeroes waiting to land, and issues the first of them.
It waits where the way to what it reads is interrupted. (2) A piece whose forming fails, or that would write where a memory
refuses the write, ends with the failure's status and with no request. (3) A request is issued through the tables as they are now:
it takes the tile's next sequence number and the time, and one to another node forms a fabric request. A page that no longer
translates, or a Far request while port F is down (`0x6041`), ends the piece's work, and its requests not yet issued are dropped.
(4) A request of this package ends, when the way to its memory is open and it is in time, after the writes that its tile's router
accepted before it: a read's bytes wait to land in D with their piece, a write's bytes are written, a row of SSTOW or SSCAT of at
most 131,072 bytes as one unit, an atomic writes its result and puts the old value in its place; the request leaves its piece,
which settles when it was the last. (5) After its last request a piece settles: what it read lands in D as one, after the writes
accepted before it, or nothing of it where a write is refused. A piece that failed lands nothing, but where R126, R302, R330 or
R357 leave what came before. (6) A request that does not succeed: one past its tier's time limit ends with `TIER_TIMEOUT`
(`0x6040`), and its answer is discarded and counted; a late answer that still comes is counted then. One that meets a hazard ends
with the hazard's status; the piece keeps its first failure. One whose way to memory is interrupted waits. The model's choices:
log 29 (translations are not held), log 46 (a failed piece lands nothing). Rests on R85, R125 to R129, R242, R290, R298, R302,
R304, R364, R492. -/
def Obligations.MoverPieces : Prop :=
  (∀ (s s1 : State) (t : Tile) (e : EngineNo) (i : Nat) (x : Run) (reqs : List Req) (zeros : List (Nat × Nat × Nat)) (ev : Events),
    s.moving = true → s.run? t e i = some x → x.formed = false →
    ∀ q ∈ [(Instr.pload t e i, 0x30, State.formLoad), (.pgath t e i, 0x31, State.formGather), (.sstow t e i, 0x38, State.formStow),
      (.sscat t e i, 0x39, State.formScatter), (.satom t e i, 0x3A, State.formAtom)],
    x.cmd.code.toNat = q.2.1 →
    (s.formReached t x.cmd = false → exec q.1 s = .next s) ∧
    (s.formReached t x.cmd = true → q.2.2 (s.drain t) x.cmd = (s1, .ok (reqs, zeros, ev)) →
      (s1.checkWrites x.cmd.ctx.toNat reqs).2 = .ok () →
      exec q.1 s = .next ((State.issueSome 32 (s1.onRun t x.ord fun y =>
        { y with formed := true, reqs := reqs, got := (if zeros.isEmpty then [] else [(zeros, [])]), measure := ⟨ev, 0, 0, 0⟩ }) t e).settle
          t x.ord) ∧
      (zeros = [] → x.posted = none → ∃ r, exec q.1 s = .next r ∧ r.mem = s1.mem ∧ (r.tile t).sp = (s1.tile t).sp ∧ r.mail = s1.mail ∧
        ∀ y ∈ (r.tile t).work.running, y.ord = x.ord → y.formed = true ∧ ∀ z ∈ y.reqs, z.issued.isSome = false → z ∈ reqs))) ∧
  (∀ (s s1 s2 : State) (t : Tile) (e : EngineNo) (i : Nat) (x : Run) (f : Formed) (st : Status),
    s.moving = true → s.run? t e i = some x → x.formed = false → s.formReached t x.cmd = true →
    ∀ q ∈ [(Instr.pload t e i, 0x30, State.formLoad), (.pgath t e i, 0x31, State.formGather), (.sstow t e i, 0x38, State.formStow),
      (.sscat t e i, 0x39, State.formScatter), (.satom t e i, 0x3A, State.formAtom)],
    x.cmd.code.toNat = q.2.1 →
    (q.2.2 (s.drain t) x.cmd = (s1, .error st) ∨
      (q.2.2 (s.drain t) x.cmd = (s2, .ok f) ∧ s2.checkWrites x.cmd.ctx.toNat f.1 = (s1, .error st))) →
    exec q.1 s = .next (s1.onRun t x.ord fun y => { y with formed := true, status := st, reqs := [], spot := s1.marks.spot })) ∧
  (∀ (s s1 : State) (t : Nat) (r : Run) (q : Req) (ps : List Part) (st : Status),
    let c := r.cmd.ctx.toNat
    let i := r.reqs.findIdx fun x => x.issued.isNone
    let q1 := { q with seq := (s1.tile t).work.nextSeq, issued := some s1.chron, parts := ps }
    (s.freshParts c q.kind.touch q.parts = (s1, .ok ps) → (q1.far = false ∨ s1.farUp = true) → q1.node? = none →
      s.issueOne t r q = (s1.onWork t fun w => { w with nextSeq := w.nextSeq + 1 }).onRun t r.ord fun y => { y with reqs := y.reqs.set i q1 }) ∧
    (s.freshParts c q.kind.touch q.parts = (s1, .ok ps) → q1.far = true → s1.farUp = false →
      s.issueOne t r q = (s1.blame ps).spoilRun t r.ord 0x6041) ∧
    (s.freshParts c q.kind.touch q.parts = (s1, .error st) → s.issueOne t r q = s1.spoilRun t r.ord st)) ∧
  (∀ (s s1 s2 s3 s4 : State) (t : Tile) (e : EngineNo) (i : Nat) (x : Run) (q : Req) (data : List Byte) (ps : List Part),
    let c := x.cmd.ctx.toNat
    let self := fun z : Req => z.issued.isSome && z.seq = q.seq
    let ended := fun (s' : State) (bs : List Byte) => (s'.answerReqs t x.ord self (.ok bs)).onRun t x.ord fun y =>
      { y with reqs := y.reqs.filter fun z => ! self z }
    let var := x.cmd.variant.toNat
    let old : BitVec 32 := BitVec.ofNat 32 (ofBytes data)
    let a : BitVec 32 := BitVec.ofNat 32 (ofBytes (q.data.take 4))
    let b : BitVec 32 := BitVec.ofNat 32 (ofBytes (q.data.drop 4))
    let new : BitVec 32 := match var with
      | 0 => old + a | 1 => vAdd old a | 2 => BitVec.ofInt 32 (min old.toInt a.toInt) | 3 => BitVec.ofInt 32 (max old.toInt a.toInt)
      | 4 => a | _ => if old = a then b else old
    let ends := fun (s' : State) => ∃ u : State, exec (.pilotStowRequestDone t e i .none) s = .next (u.settle t x.ord) ∧ u.mem = s'.mem ∧
      (u.tile t).sp = (s'.tile t).sp ∧
      ∀ y ∈ (u.tile t).work.running, y.ord = x.ord → (∀ z ∈ y.reqs, z.issued.isSome = true → z.seq ≠ q.seq) ∧
        ((∀ y ∈ (s.tile t).work.running, y.ord = x.ord → y = x) →
          y.got = if q.kind = .read ∧ q.plan ≠ [] then x.got ++ [(q.plan, data)] else x.got)
    s.moving = true → ((s.tile t).work.issuedReqs e)[i]? = some (x, q) → s.req? t x.ord q.seq = some (x, q) → q.node? = none →
    s.partsReached t q.parts = true → q.lost = false → q.answer = none → (∀ k, q.tier? = some k → s.ageOf q < timeoutOf k) →
    (q.far = false ∨ s.farUp = true) → (∀ p, s.nextWrite t = some p → q.seq ≤ p.2.seq) → q.seq < (s.tile t).work.nextSeq →
    (q.kind = .read → s.readParts c false q.parts = (s1, .ok data) → ends s1) ∧
    (q.kind = .write → x.rowUnit q = false → s.writeParts c .write q.parts q.data = (s1, .ok ()) → ends s1) ∧
    (q.kind = .write → x.rowUnit q = true → s.rowParts c (x.rowReqs q) = (s1, .ok ps) →
      s1.writeParts c .write ps ((x.rowReqs q).flatMap (·.data)) = (s2, .ok ()) → ends s2) ∧
    (q.kind = .atomic → q.parts.findSome? (s.refuseWrite c) = none →
      ((q.parts.foldl (fun acc p => match p.place with | .pa a => acc.writeBack (a / 64) | _ => acc) s).touch c .atomic q.parts).fetchParts c
        true q.parts = (s1, .ok data) →
      s1.storeParts c q.parts (bytesOf 4 new.toNat) = (s2, .ok ()) →
      (ended s2 data).operandParts c x.cmd.b (4 * q.unit) 4 .write = (s3, .ok ps) → allHere [ps] = true →
      s3.writeParts c .write ps data = (s4, .ok ()) → ends s4)) ∧
  (∀ (s s2 : State) (t : Nat) (x : Run) (st : Status),
    let s1 := s.onRun t x.ord fun r => { r with got := [] }
    let r := s.settle t x.ord
    (s.tile t).work.running.find? (fun r => r.ord = x.ord) = some x → x.formed = true → x.reqs = [] →
    (x.got ≠ [] → (x.status = 0 ∨ landsAnyway x.status = true) → (s1.drain t).landGot x.cmd.ctx.toNat x.cmd.d x.got = (s2, .ok ()) →
      r.mem = s2.mem ∧ ∀ u, (r.tile u).sp = (s2.tile u).sp) ∧
    (x.got ≠ [] → (x.status = 0 ∨ landsAnyway x.status = true) → (s1.drain t).landGot x.cmd.ctx.toNat x.cmd.d x.got = (s2, .error st) →
      r.mem = s2.mem ∧ ((∀ y ∈ (s.tile t).work.running, y.ord = x.ord → y = x) →
        ∀ y ∈ (r.tile t).work.running, y.ord = x.ord → y.status = if x.status = 0 then st else x.status)) ∧
    (x.got = [] ∨ (x.status ≠ 0 ∧ landsAnyway x.status = false) → r.mem = s.mem ∧ (∀ u, (r.tile u).sp = (s.tile u).sp) ∧
      ∀ y ∈ (r.tile t).work.running, y.ord = x.ord → y.got = [])) ∧
  (∀ (s : State) (t : Tile) (e : EngineNo) (i : Nat) (x : Run) (q : Req) (h : Hazard),
    let fails := fun (r : State) (st : Status) => ∀ y ∈ (r.tile t).work.running, y.ord = x.ord →
      y.status = (if x.status = 0 then st else x.status) ∧ ∀ z ∈ y.reqs, z.issued.isSome = true ∧ z.seq ≠ q.seq
    let count := fun (r : State) => bits (r.reg (mtBase + 0x158)) 0 48
    s.moving = true →
    (((s.tile t).work.issuedReqs e)[i]? = none →
      ((s.tile t).upkeep.unanswered = 0 → exec (.pilotStowRequestDone t e i h) s = .next s) ∧
      ((s.tile t).upkeep.unanswered ≠ 0 → exec (.pilotStowRequestDone t e i h) s =
        .next ((s.onUpkeep t fun u => { u with unanswered := u.unanswered - 1 }).count (mtBase + 0x158) 1))) ∧
    (((s.tile t).work.issuedReqs e)[i]? = some (x, q) → q.node? = none → q.lost = false →
      (∀ y ∈ (s.tile t).work.running, y.ord = x.ord → y = x) →
      (s.partsReached t q.parts = true → (∃ k, q.tier? = some k ∧ timeoutOf k ≤ s.ageOf q) → ∃ u : State,
        exec (.pilotStowRequestDone t e i h) s = .next (u.settle t x.ord) ∧ fails u 0x6040 ∧ u.mem = s.mem ∧
        tst (u.reg (mtBase + 0x050)) 5 = true ∧
        (tst (s.reg (mtBase + 0x158)) 63 = false → count s + 2 < 2 ^ 48 → count u = count s + (if h = .timeout then 1 else 2)) ∧
        (u.tile t).upkeep.unanswered = (s.tile t).upkeep.unanswered + (if h = .timeout then 1 else 0)) ∧
      (s.partsReached t q.parts = true → (∃ k, q.tier? = some k ∧ s.ageOf q < timeoutOf k) →
        exec (.pilotStowRequestDone t e i .timeout) s = .next s) ∧
      (s.partsReached t q.parts = true → (∀ k, q.tier? = some k → s.ageOf q < timeoutOf k) → q.answer = none → h ≠ .timeout →
        s.req? t x.ord q.seq = some (x, q) → (∀ p, s.nextWrite t = some p → q.seq ≤ p.2.seq) →
        ∀ s1 st, s.meet t x.cmd.ctx.toNat false h q.kind.touch q.parts = (s1, some st) → ∃ u : State,
          exec (.pilotStowRequestDone t e i h) s = .next (u.settle t x.ord) ∧ fails u st ∧ u.mem = s1.mem) ∧
      (s.partsReached t q.parts = false → exec (.pilotStowRequestDone t e i h) s = .next s)))

/-- (1) VROUTE writes the bearing table of its scores, and its status says whether a choice was dropped (`0x1030`); VCOMB adds
each token's answers by weight and reports `EMPTY_ROW` (`0x1010`) where a token has none. The busy cycles are a free value below
the bound of R238 or R246. (2) A collective piece begins, after the writes that its tile's router has accepted: it keeps its own
contribution and sends it to every other member, over the mesh here and as fabric requests to another node, and takes the
contributions that came before it. A contribution that reaches its member joins the piece in progress, or waits for it; the last
one writes the result and the piece is done. A Faulted tile takes none; requests of another node that carried one are answered
with it. A lost member ends it with `0x6021`, and 10 ms past its deadline it ends with `0x8003`. The model's choices: log 36
(contributions that do not fit). Rests on R124, R130 to R133, R231 to R236, R244. -/
def Obligations.ExpertAndCollectivePieces : Prop :=
  (∀ (s s2 s3 s4 s5 : State) (t : Tile) (x : Run) (ga gd : Geo) (ia : List (List Byte)) (pa pb pd : List (List Part)) (m : Measure)
      (recs : List ReadRec) (rows : List (List (BitVec 32))),
    let r := x.cmd
    let T := r.rows.toNat
    let E := r.extent.toNat
    let k := r.routeK
    let u := s.drain t
    let ends := fun (i : Instr) (s' : State) (st : Status) (m' : Measure) (n : Nat) =>
      exec i s = .next (s'.onRun t x.ord fun y => ((y.done st m' n).post (s.written r)).confirm)
    let busyR := u.someCycles (T * ((k + 1) * cdiv E 64 + 4 * k) + cdiv (tableBytes T E r.routeCap k) 512 + 24)
    let busyC := u.someCycles (T * u.choicesOf r * (cdiv gd.cols 64 + 1) + 12)
    let table := bearing (r.b.addr.toNat % 2 ^ 32) E r.routeCap k (r.rowsA ia)
    s.moving = true → s.current t 1 r.code.toNat = some x → s.operandsReached t r = true → x.suppressed = false → r.geoA = some ga →
    r.geoD = some gd → (u.tile t).upkeep.injVector = false →
    (r.code = 0x26 → (busyR.2.tcount t 0x310 busyR.1).fetchesA r ia pb pd s2 →
      s2.writeBytes r.ctx.toNat r.d 0 .write table.1 = (s3, .ok ()) → 
      ∃ m', ends (.vroute t .none) s3 (if table.2 = 0 then 0 else 0x1030) m' busyR.1) ∧
    (r.code = 0x27 → (busyC.2.tcount t 0x310 busyC.1).allParts r = (s2, .ok (pa, pb, pd)) → s2.readBearing r ga = (s3, .ok (recs, 0)) →
      s3.combineRows r.ctx.toNat r.a ga r.param.toNat gd.cols recs = (s4, .ok rows) → s4.write32 r gd pd rows 0 = (s5, .ok m) →
      ends (.vcomb t .none) s5 (if recs.any (fun q => q.flags.testBit 2 && ! q.flags.testBit 0) then 0x1010 else 0) m busyC.1)) ∧
  (∀ (s s1 : State) (t : Tile) (i : Nat) (x : Run) (g : Group) (y : Coll) (data : List Byte) (st : Status), s.moving = true →
    (s.run? t 8 i = some x → x.formed = false → (∀ z ∈ (s.tile t).colls, z.ord ≠ x.ord) →
      s.partsReached t (s.ownParts x.cmd.ctx.toNat x.cmd.a x.cmd.geoA .read) = true →
      ∀ q ∈ [(Instr.cred t i, 0x40), (.cgath t i, 0x41), (.crow t i, 0x42)], x.cmd.code.toNat = q.2 →
      let mine := fun z : Contribution => decide (z.job = x.cmd.job ∧ z.inst = y.inst)
      let y1 := ((s1.tile t).early.filter mine).foldl (fun acc z => if acc.takes z then acc.give z else acc) y
      ((s.drain t).beginColl t x = (s1, .error st) → exec q.1 s = .next (s1.onRun t x.ord fun y =>
        { y with formed := true, status := st, reqs := [], spot := s1.marks.spot })) ∧
      ((s.drain t).beginColl t x = (s1, .ok (g, y, data)) →
        exec q.1 s = .next (((s1.onTile t fun z => { z with colls := z.colls ++ [y1], early := z.early.filter fun k => ! mine k }).contribute t
          x.cmd x.ord g data).tryColl t y1) ∧
        ((s1.tile t).early = [] → (∀ p ∈ g.members, p.2 = s1.node) → ∃ r, exec q.1 s = .next r ∧
          (r.tile t).colls = (s1.tile t).colls ++ [y] ∧ y.got = [(g.pos, data)] ∧ r.mem = s1.mem ∧
          r.mail.contribs = s1.mail.contribs ++ ((g.members.zipIdx.filter fun p => p.2 != g.pos).map fun p =>
            (t.val, p.1.1, ⟨x.cmd.job, g.inst, g.pos, data⟩))))) ∧
    (∀ (z : Contribution) (src : Nat) (before after : List (Nat × Nat × Contribution)),
      let s0 := { s with mail := { s.mail with contribs := before ++ after } }
      s.mail.contribs = before ++ (src, t.val, z) :: after → (∀ p ∈ before, ¬ (p.2.1 = t.val ∧ p.2.2 = z)) → s.pathClear src t = true →
      (s.faultedTile t = true → exec (.collectiveContribution t z) s = .next s0) ∧
      (s.faultedTile t = false → (s.tile t).colls.find? (fun k => k.cmd.job = z.job && k.inst = z.inst) = none →
        exec (.collectiveContribution t z) s = .next (s0.onTile t fun k => { k with early := k.early ++ [z] })) ∧
      (s.faultedTile t = false → (s.tile t).colls.find? (fun k => k.cmd.job = z.job && k.inst = z.inst) = some y → y.takes z = true →
        let y' := { y with got := FMap.put [] y.got z.pos z.data }
        let s2 := s0.setColl t y'
        (y'.got.length < y.members.length → exec (.collectiveContribution t z) s = .next s2) ∧
        (∀ ga gd s3 m, y.members.length ≤ y'.got.length → y.cmd.geoA = some ga → y.cmd.geoD = some gd →
          s2.partsReached t y.parts.flatten = true → ((s2.drain t).dropColl t y.ord).collResult y' ga gd = (s3, .ok m) →
          exec (.collectiveContribution t z) s =
            .next (s3.onRun t y.ord fun k => ((k.done 0 m 0).post y.parts.flatten).confirm)))) ∧
    (∀ z : Contribution, (∀ p ∈ s.mail.contribs, ¬ (p.2.1 = t.val ∧ p.2.2 = z ∧ s.pathClear p.1 t = true)) →
      (s.landedContribution z = none → exec (.collectiveContribution t z) s = .next s) ∧
      (∀ s2 fs, s.landedContribution z = some (s2, fs) →
        let answers := fun (s' : State) (st : Status) => fs.foldl (fun acc f => acc.respond f.req st []) s'
        (s.faultedTile t = true → exec (.collectiveContribution t z) s = .next (answers s2 0x6011)) ∧
        (s.faultedTile t = false → exec (.collectiveContribution t z) s = .next (answers (s2.deliver t z) 0)))) ∧
    (s.run? t 8 i = some x → y ∈ (s.tile t).colls → y.ord = x.ord →
      exec (.collectiveMemberLost t i) s = .next ((s.dropColl t x.ord).onRun t x.ord fun k =>
        { k with formed := true, status := 0x6021, reqs := [] }) ∧
      (x.cmd.deadline ≠ BitVec.allOnes 64 → x.cmd.deadline.toNat + 10000000 ≤ s.chron.toNat →
        exec (.collectivePastDeadline t i) s = .next ((s.dropColl t x.ord).onRun t x.ord fun k =>
          { k with formed := true, status := 0x8003, reqs := [] }))))

/-- (1) Every signal whose way to a tile is open is added to its counter, all in one step: a counter of a context with a set on
the tile grows by the sum of its signals' increments modulo 2^32, signals of a step under flush or restore apart, and they leave
the way. (2) A completion notice counts its piece against the step that its tag names; one that matches no step in flight is
discarded. (3) What the home tile does with the report of a running step: a status of class `0x1` sets its NOTED flag and the step
goes on; one of class `0x4`, `0x7` or `0x8` aborts the step, which takes the status; one of class `0x5` or `0x6` below the replay
limit aborts it for a replay. An aborted step's code stops and a flush goes to every tile that received a piece of it. (4) A flush
discards the step's commands at its tile, on the way, in the inbox, queued and parked, suppresses those that run, drops its
signals to the tile, restores the context's counters there to the waypoint and is confirmed. (5) Confirmations of a flush: the
home tile strikes the tile off, and with the last one an unreplayed step is complete. The model's choices: log 57 (a signal for a
step that is flushed or restored). Rests on R47, R83, R91, R92, R136, R169, R170. -/
def Obligations.HomeTileMessages : Prop :=
  (∀ (s : State) (t : Tile), s.moving = true → ∃ r, exec (.signalApply t) s = .next r ∧
    let arrives := fun g : Signal => g.tile = t.val && s.pathClear g.src t
    r.mail.signals = s.mail.signals.filter (fun g => ! arrives g) ∧ r.mem = s.mem ∧
    ∀ (c : Nat) (k : BitVec 8), ((s.tile t).work.set? c).isSome = true →
      r.counter t c k.toNat = s.counter t c k.toNat +
        BitVec.ofNat 32 (((s.mail.signals.filter fun g => arrives g && g.ctx = c && g.k = k && ! s.signalDead g).map fun g => g.incr.toNat).sum)) ∧
  (∀ (s : State) (t : Tile) (x : Report) (before after : List Report), s.moving = true → s.mail.notices = before ++ x :: after →
    x.home = t.val → s.pathClear x.tile t = true → (∀ y ∈ before, y.home ≠ t.val) →
    (∀ p, s.tagStep? x.ctx x.tag = some p → ∃ r p', exec (.completionNotice t) s = .next r ∧
      r.mail = { s.mail with notices := before ++ after } ∧ r.step? x.ctx p.stepno = some p' ∧
      p'.tally.received = p.tally.received + 1 ∧ p'.tally.status = p.tally.status ∧ p'.phase = p.phase) ∧
    (s.tagStep? x.ctx x.tag = none → exec (.completionNotice t) s = .next { s with mail := { s.mail with notices := before ++ after } })) ∧
  (∀ (s : State) (t : Tile) (x : Report) (p : Step), s.moving = true → s.mail.reports = [x] → x.home = t.val → x.piece = true →
    s.pathClear x.tile t = true → s.tagStep? x.ctx x.tag = some p → s.step? x.ctx p.stepno = some p → p.phase = .running →
    s.laterSteps x.ctx p.stepno = [] → p.tally.tiles ≠ [] →
    let flushes := fun replay => p.tally.tiles.map fun u => (⟨u, x.ctx, p.stepno.setWidth 2, replay⟩ : Flush)
    (x.status.toNat / 4096 = 1 → ∃ r p', exec (.pieceReport t) s = .next r ∧ r.step? x.ctx p.stepno = some p' ∧ r.mail.reports = [] ∧
      p'.phase = .running ∧ p'.tally.received = p.tally.received + 1 ∧ p'.tally.status = p.tally.status ∧
      p'.tally.noted = p.tally.noted ||| BitVec.ofNat 16 (2 ^ notedBit x.status) ∧ r.mail.flushes = s.mail.flushes ∧ r.mem = s.mem) ∧
    (x.status.toNat / 4096 = 4 ∨ x.status.toNat / 4096 = 7 ∨ x.status.toNat / 4096 = 8 → ∃ r p', exec (.pieceReport t) s = .next r ∧
      r.step? x.ctx p.stepno = some p' ∧ p'.phase = .flushing false ∧ p'.tally.status = x.status ∧ p'.tally.failTile = x.tile ∧
      p'.tally.failLayop = x.layop ∧ p'.tally.awaiting = p.tally.tiles ∧ r.mail.flushes = s.mail.flushes ++ flushes false ∧ r.mem = s.mem) ∧
    (x.status.toNat / 4096 = 5 ∨ x.status.toNat / 4096 = 6 → x.status ≠ 0x5010 → x.status ≠ 0x5071 → p.tally.replays < p.wp.limit →
      ∃ r p', exec (.pieceReport t) s = .next r ∧ r.step? x.ctx p.stepno = some p' ∧ p'.phase = .flushing true ∧
        p'.tally.replays = p.tally.replays + 1 ∧ p'.tally.cause = x.status ∧ p'.tally.status = p.tally.status ∧
        r.mail.flushes = s.mail.flushes ++ flushes true ∧ r.mem = s.mem)) ∧
  (∀ (s : State) (t : Tile) (x : Flush) (rest : List Flush), s.moving = true → s.mail.flushes = x :: rest → x.tile = t.val →
    s.fromHome x.ctx t = true → ∃ r, exec (.stepFlush t) s = .next r ∧
      let mine := fun c : Rec => c.ctx.toNat = x.ctx ∧ c.tag = x.tag
      r.mail.flushes = rest ∧ r.mail.confirms = s.mail.confirms ++ [x] ∧
      (∀ p ∈ r.mail.channel, p ∈ s.mail.channel ∧ ¬ (p.1 = t.val ∧ mine p.2)) ∧
      (∀ c ∈ (r.tile t).work.inbox, c ∈ (s.tile t).work.inbox ∧ ¬ mine c) ∧
      (∀ e, ∀ y ∈ (r.tile t).work.queue e, ¬ mine y.cmd) ∧ (∀ y ∈ (r.tile t).work.parked, ¬ mine y.ent.cmd) ∧
      (∀ y ∈ (r.tile t).work.running, mine y.cmd → y.suppressed = true) ∧
      (∀ g ∈ r.mail.signals, ¬ (g.ctx = x.ctx ∧ g.tag = x.tag ∧ g.tile = t.val)) ∧ r.mem = s.mem ∧
      ∀ p, s.tagStep? x.ctx x.tag = some p → ((s.tile t).work.set? x.ctx).isSome = true → ∀ k : BitVec 8,
        r.counter t x.ctx k.toNat = (FMap.find? p.wp.counters (256 * t + k.toNat)).getD 0) ∧
  (∀ (s : State) (t : Tile) (n : Nat) (x : Flush) (rest : List Flush) (p : Step), s.moving = true → s.mail.confirms = x :: rest →
    s.homeOf x.ctx = some (t.val, n) → s.pathClear x.tile t = true → s.confirmed x = true → s.tagStep? x.ctx x.tag = some p →
    s.step? x.ctx p.stepno = some p → p.phase = .flushing false →
    (p.tally.awaiting.erase x.tile ≠ [] → ∃ r p', exec (.flushConfirm t) s = .next r ∧ r.mail = { s.mail with confirms := rest } ∧
      r.step? x.ctx p.stepno = some p' ∧ p'.tally.awaiting = p.tally.awaiting.erase x.tile ∧ p'.phase = .flushing false) ∧
    (p.tally.awaiting.erase x.tile = [] → ∃ r p', exec (.flushConfirm t) s = .next r ∧ r.mail.confirms = rest ∧
      r.step? x.ctx p.stepno = some p' ∧ p'.phase = .complete ∧ p'.tally.status = p.tally.status ∧ r.mem = s.mem))

/-- (1) A norm-watch commit adds the step's pending counts to the entry's counters, and for a step that ended well takes the new
reference; the step's banks are gone. (2) Lodestar evaluates a watched step every 8 µs. A predicted miss moves a running step to
its fall-back entry by a replay, within the replay limit; a step that is already being flushed or restored for a replay takes its
fall-back entry in that replay, counted once; otherwise only the time of the next evaluation moves. (3) A watched step still
running at the end of its grace is aborted with `DEADLINE_MISSED` (`0x8001`) and not replayed; one that is being flushed or
restored for a replay is not replayed either. Rests on R168, R272, R273, R276. -/
def Obligations.WatchesOnSteps : Prop :=
  (∀ (s : State) (t : Tile) (x : Commit) (rest : List Commit) (b : Bank), s.moving = true → s.mail.commits = x :: rest → x.tile = t.val →
    s.fromHome x.ctx t = true → b.entry < 16 →
    ((s.tile t).work.banks.filter fun y => y.tag = x.tag && bits (s.nwCfg t y.entry) 16 12 = x.ctx) = [b] →
    (∀ q ∈ [(0x10, b.sat), (0x18, b.zero), (0x20, b.nonfin), (0x28, b.jumps)],
      tst (s.treg t (0x400 + 0x30 * b.entry + q.1)) 63 = false ∧
        bits (s.treg t (0x400 + 0x30 * b.entry + q.1)) 0 48 + q.2 < 2 ^ 48) → ∃ r, exec (.nwCommit t) s = .next r ∧
      r.mail = { s.mail with commits := rest } ∧ r.mem = s.mem ∧
      (∀ q ∈ [(0x10, b.sat), (0x18, b.zero), (0x20, b.nonfin), (0x28, b.jumps)],
        bits (r.treg t (0x400 + 0x30 * b.entry + q.1)) 0 48 = bits (s.treg t (0x400 + 0x30 * b.entry + q.1)) 0 48 + q.2) ∧
      r.treg t (0x408 + 0x30 * b.entry) = (if x.valid = true ∧ b.n ≠ 0 then nwRef (s.nwCfg t b.entry) (s.treg t (0x408 + 0x30 * b.entry)) b
        else s.treg t (0x408 + 0x30 * b.entry)) ∧
      ∀ y ∈ (r.tile t).work.banks, ¬ (y.tag = x.tag ∧ bits (s.nwCfg t y.entry) 16 12 = x.ctx)) ∧
  (∀ (s : State) (c : CtxId) (t n : Nat) (p : Step), s.moving = true → s.homeOf c.toNat = some (t, n) → s.evaluated c.toNat = some p →
    let prog := (s.counter t c.toNat (recKp p.words) - p.watch.p0).toNat
    let miss := missAhead s.chron.toNat p.watch.start.toNat (recDeadline p.words).toNat (recP p.words) prog
      (microUnits ((s.treg t (0xA08 + 0x20 * n)).setWidth 32)) (microUnits ((s.treg t (0xA10 + 0x20 * n)).setWidth 32))
    let falls := miss = true ∧ p.phase.movable = true ∧ recFallback p.words ≠ 0 ∧ p.watch.fallback = false ∧ p.tally.replays < p.wp.limit
    (¬ falls → exec (.lodestarCheck c) s = .next (s.onStep c.toNat p.stepno fun q =>
      { q with watch := { q.watch with next := q.watch.next + 8000 } })) ∧
    (falls → p.phase ≠ .running → s.step? c.toNat p.stepno = some p → p.seqs = [] →
      ∃ r p', exec (.lodestarCheck c) s = .next r ∧ r.step? c.toNat p.stepno = some p' ∧ p'.phase = p.phase ∧
        p'.watch.fallback = true ∧ p'.tally.replays = p.tally.replays + (if p.rerun = true then 1 else 0) ∧
        p'.watch.next = p.watch.next + 8000 ∧ r.mem = s.mem ∧ r.mail = s.mail) ∧
    (falls → p.phase = .running → s.step? c.toNat p.stepno = some p → p.seqs = [] → p.tally.tiles ≠ [] → s.laterSteps c.toNat p.stepno = [] →
      ∃ r p', exec (.lodestarCheck c) s = .next r ∧ r.step? c.toNat p.stepno = some p' ∧ p'.phase = .flushing true ∧
        p'.watch.fallback = true ∧ p'.tally.replays = p.tally.replays + 1 ∧ p'.watch.next = p.watch.next + 8000 ∧ r.mem = s.mem ∧
        r.mail.flushes = s.mail.flushes ++ p.tally.tiles.map fun u => ⟨u, c.toNat, p.stepno.setWidth 2, true⟩)) ∧
  (∀ (s : State) (c : CtxId) (p : Step), s.moving = true → s.missed c.toNat = some p → s.step? c.toNat p.stepno = some p →
    (p.phase = .running → p.tally.tiles ≠ [] → s.laterSteps c.toNat p.stepno = [] →
    ∃ r p', exec (.deadlineMissed c) s = .next r ∧ r.step? c.toNat p.stepno = some p' ∧ p'.phase = .flushing false ∧
      p'.tally.status = 0x8001 ∧ p'.tally.replays = p.tally.replays ∧ r.mem = s.mem ∧
      r.mail.flushes = s.mail.flushes ++ p.tally.tiles.map fun u => ⟨u, c.toNat, p.stepno.setWidth 2, false⟩) ∧
    (p.phase = .flushing true ∨ p.phase = .restoring → ∃ r p', exec (.deadlineMissed c) s = .next r ∧ r.step? c.toNat p.stepno = some p' ∧
      p'.phase = (if p.phase = .restoring then .complete else .flushing false) ∧ p'.tally.status = 0x8001 ∧ r.mem = s.mem ∧ r.mail = s.mail))

/-- (1) The first of the due lines is read. A sweep read that succeeds updates every swept context of its line: a new tail makes
the interval 2 µs, the 32nd unchanged one in a row doubles it up to 64 µs; one that fails is counted and changes no context. (2)
Every 64 µs the sweep demand is shown in thousands a second, with a stretch of 1 within the budget and demand over budget beyond
it. (3) A fetch asks for the records up to the tail, at most 8 and none past the ring's end; when it ends they wait in ring order
with their indices, and `fetched` moves past them. The eighth failure in a row faults the context with `0x6100`. The model's
choices: log 54 (how the stretch is rounded). Rests on R249 to R252, R376, R546. -/
def Obligations.SweepsAndFetches : Prop :=
  (∀ (s : State) (line : Fin 512), FMap.sorted s.ctxs = true → s.sweeps = true → s.lineDue line = true → s.lineFirst line = true →
    s.hostReadFree = true →
    let a := (s.reg 0x00018).toNat + 64 * line.val
    (s.refusesAny pf0Space a 64 = false → ∃ r, exec (.sweepRead line true) s = .next r ∧ FMap.find? r.mgmt.swept line.val = some s.chron ∧
      ∀ c x, s.ctx? c = some x → x.swept = true → c / 8 = line.val →
        let tail := BitVec.ofNat 32 (ofBytes (s.hostRead pf0Space (a + 8 * (c % 8)) 4))
        (tail - x.ring.fetched).toNat ≤ 2 ^ x.cr.ringLog →
        r.ctx? c = some { x with ring := { x.ring with
          hold := false, tail := tail
          interval := if tail ≠ x.ring.tail then 2 else if 31 ≤ x.ring.unchanged then min 64 (2 * x.ring.interval) else x.ring.interval
          unchanged := if tail ≠ x.ring.tail then 0 else if 31 ≤ x.ring.unchanged then 0 else x.ring.unchanged + 1 } }) ∧
    (∃ r, exec (.sweepRead line false) s = .next r ∧ r.ctxs = s.ctxs ∧ r.mem = s.mem ∧ r.mail = s.mail ∧ r.tiles = s.tiles ∧
      r.mgmt = { s.mgmt with swept := FMap.insert s.mgmt.swept line.val s.chron })) ∧
  (∀ s : State, s.sweeps = true → s.due 14 64000 = true →
    let st := if s.demand ≤ s.budget then 0x3F800000#32 else codeF32 (Enc.fp32.div .rne (Machine.Num.ofInt s.demand) (Machine.Num.ofInt s.budget))
    exec .sweepStretch s = 
      .next ((s.acted 14).setReg 0x00050 (BitVec.ofNat 64 (s.demand / 1000 * 2 ^ 32 + st.toNat)))) ∧
  (∀ (s : State) (c : CtxId) (x : Ctx), s.ctx? c.toNat = some x →
    let size := 2 ^ x.cr.ringLog
    let left := (x.ring.tail - x.ring.fetched).toNat
    let at_ := (x.cr.ring + 64 * (x.ring.fetched.toNat % size)) % 2 ^ 47
    let space := hostSpace x.cr.fn.toNat x.cr.pasid.toNat
    (s.sweeps = true → s.hostReadFree = true → x.swept = true → x.home.isSome = true → x.ring.fetching = none → x.ring.waiting = [] → x.ring.hold = false →
      left ≠ 0 → left ≤ size → exec (.recordFetch c) s = .next (s.onCtx c.toNat fun x => { x with ring := { x.ring with
        fetching := some (min 8 (min left (size - x.ring.fetched.toNat % size))) } })) ∧
    (∀ n, x.ring.fetching = some n → s.moving = true → s.linkUp = true → s.refusesAny space at_ (64 * n) = false →
      ∃ r y, exec (.recordFetchDone c true) s = .next r ∧ r.ctx? c.toNat = some y ∧ y.ring.fetching = none ∧
        y.ring.fetched = x.ring.fetched + BitVec.ofNat 32 n ∧ y.ring.fails = 0 ∧
        y.ring.waiting = x.ring.waiting ++ (List.range n).map (fun i => ((x.ring.fetched.toNat + i) % 2 ^ 32,
          wordsOf 8 (s.hostRead space ((x.cr.ring + 64 * ((x.ring.fetched.toNat + i) % size)) % 2 ^ 47) 64))) ∧ r.mem = s.mem) ∧
    (∀ n, x.ring.fetching = some n → s.moving = true → ∃ r y, exec (.recordFetchDone c false) s = .next r ∧ r.ctx? c.toNat = some y ∧
      y.ring.fetching = none ∧ y.ring.hold = true ∧ y.ring.fails = x.ring.fails + 1 ∧
      (7 ≤ x.ring.fails → x.st ≠ .faulted → y.st = .faulted ∧ y.faultStatus = 0x6100) ∧ (x.ring.fails < 7 → y.st = x.st)))

/-- (1) Admission. A legal record without sequences, chart and waypoint list becomes the newest step, numbered next, its saves
running; a record that fails its first check ends with `0x2102` and faults its context; a general record that passes every check
is the state its checks and their application leave. (2) KV records and NOP at the front of a context's records complete in ring
order with a status of their own: OPEN of a free slot makes it Open and empty, with its fall-back bit clear, and reads that bit's
byte before it writes anything; FORK and CANCEL as their operation leaves the pool; an illegal operation ends with `0x2042`. Rests
on R222, R377, R385, R546. -/
def Obligations.RecordsAreAdmitted : Prop :=
  (∀ (s : State) (c : CtxId) (x : Ctx) (i : Nat) (ws : List Word) (home : Nat × Nat),
    FMap.sorted s.ctxs = true → s.nextRecord c.toNat = some (x, i, ws) → x.home = some home →
    let s1 := (s.tookRecord c.toNat).onCtx c.toNat fun x =>
      { x with nextStep := x.nextStep + 1, steps := x.steps ++ [newStep x.nextStep i ws (s.resolved x ws)] }
    (recOk ws = true → s.sequences ≤ 8192 → recSeqs ws = 0 → recChart ws = 0xFF → recFallback ws = 0 →
      bits (s.treg home.1 (0x900 + 8 * home.2)) 0 48 = 0 → ∃ r y p, exec (.stepAdmission c) s = .next r ∧ r.ctx? c.toNat = some y ∧
        y.steps.length = x.steps.length + 1 ∧ y.steps.getLast? = some p ∧ p.stepno = x.nextStep ∧ p.index = i ∧ p.words = ws ∧
        p.phase = .saving ∧ p.wp.limit = 2 ∧ p.wp.saves = [] ∧ p.wp.counters = s.takeCounters c.toNat ∧ p.seqs = [] ∧
        p.chart = none ∧ p.codeStart = none ∧ p.tally = Tally.start ∧ p.watch.fallback = false ∧ y.nextStep = x.nextStep + 1 ∧ y.ring.waiting = x.ring.waiting.drop 1 ∧ r.mem = s.mem) ∧
    (recType ws = 1 → recOk ws = false → x.steps = [] → ∃ r y p, exec (.stepAdmission c) s = .next r ∧ r.ctx? c.toNat = some y ∧
        y.st = .faulted ∧ y.faultStatus = 0x2102 ∧ y.steps.getLast? = some p ∧ p.tally.status = 0x2102 ∧ p.phase = .complete) ∧
    (∀ s2 a s3, recType ws = 1 → s1.admitChecks c.toNat x home ws = (s2, .ok a) →
      s2.applyAdmission c.toNat x x.nextStep ws a = (s3, .ok ()) → exec (.stepAdmission c) s = .next s3)) ∧
  (∀ (s : State) (c : CtxId) (x : Ctx) (i : Nat) (ws : List Word) (p : Pool), s.nextRecord c.toNat = some (x, i, ws) →
    x.cr.pool = some p →
    let s1 := s.tookRecord c.toNat
    let done := fun (s' : State) (st : Status) => s'.putCompletion c.toNat i
      (completionWords (recType ws) st 0 0 0 i 0 0 s'.chron 0 0 0xFFFFFFFF#32 0) (recIrq ws)
    (∀ s2 s3 s4 s5 e v, recType ws = 2 → kvOp ws = 1 → kvLegal p ws = true → s1.kvEntry c.toNat p (kvTarget ws) = (s2, .ok e) →
      kvState e = 0 → s2.devGet c.toNat (s2.fallbackAt c.toNat (kvTarget ws)) 1 = (s3, .ok v) →
      s3.devPut c.toNat (p.entryAt (kvTarget ws)) 8 (2 ^ 62) = (s4, .ok ()) →
      s4.putFallback c.toNat false (kvTarget ws) v = (s5, .ok ()) → exec (.kvOpen c) s = .next (done s5 0)) ∧
    (∀ s2 s3 e st, recType ws = 2 → kvOp ws = 1 → kvLegal p ws = true → s1.kvEntry c.toNat p (kvTarget ws) = (s2, .ok e) →
      kvState e = 0 → s2.devGet c.toNat (s2.fallbackAt c.toNat (kvTarget ws)) 1 = (s3, .error st) →
      exec (.kvOpen c) s = .next (done s3 st)) ∧
    (∀ s2, recType ws = 2 → kvOp ws = 2 → kvLegal p ws = true →
      s1.kvForkSlot c.toNat p (kvSource ws) (kvTarget ws) (kvP ws) = (s2, .ok ()) → exec (.kvFork c) s = .next (done s2 0)) ∧
    (∀ s2 s3 e, recType ws = 2 → kvOp ws = 3 → kvLegal p ws = true → s1.kvEntry c.toNat p (kvTarget ws) = (s2, .ok e) → kvState e = 2 →
      s2.devPut c.toNat (p.entryAt (kvTarget ws)) 8 (2 ^ 63 + 2 ^ 61 + kvPages e * 2 ^ 24 + kvLength e) = (s3, .ok ()) →
      exec (.kvCancel c) s = .next (done s3 0)) ∧
    (∀ s2, recType ws = 2 → kvOp ws = 3 → kvLegal p ws = true → s1.kvCancelSlot c.toNat p (kvTarget ws) = (s2, .ok ()) →
      exec (.kvCancel c) s = .next (done s2 0)) ∧
    (recType ws = 2 → kvOp ws ≠ 2 → kvOp ws ≠ 3 → kvLegal p ws = false → exec (.kvOpen c) s = .next (done s1 0x2042)) ∧
    (recType ws = 3 → exec (.nop c) s = .next (done s1 0)))

/-- Steps complete in ring order: while the oldest step of a context is not finished, or has missed its deadline and its grace, no
completion record of the context is written. The oldest step, once it has ended and every piece is in, leaves the context: its
commits go to its tiles, valid for a step that ended well, and its completion record stands in the ring's place for its index.
Rests on R62, R168, R378. -/
def Obligations.StepsComplete : Prop :=
  ∀ (s : State) (c : CtxId) (x : Ctx) (p : Step) (rest : List Step), s.moving = true → s.ctx? c.toNat = some x → x.destroying = false →
    x.steps = p :: rest →
    (p.finished = false → exec (.stepCompletion c) s = .next s) ∧
    (p.overdue s.chron = true → exec (.stepCompletion c) s = .next s) ∧
    (p.finished = true → p.overdue s.chron = false → p.seqs = [] → p.chart = none →
    let space := hostSpace x.cr.fn.toNat x.cr.pasid.toNat
    let a := (x.cr.cring + 64 * (p.index % 2 ^ x.cr.ringLog)) % 2 ^ 47
    let line := x.cr.sline % 2 ^ 47
    let valid := decide (p.tally.status.toNat < 8192)
    ∃ r y, exec (.stepCompletion c) s = .next r ∧ r.ctx? c.toNat = some y ∧ y.steps = rest ∧
      r.mail = { s.mail with commits := s.mail.commits ++ p.tally.tiles.map fun t => ⟨t, c.toNat, p.stepno.setWidth 2, valid⟩ } ∧
      (s.linkUp = true → x.cr.fn.toNat ∉ s.outside.ats → s.refusesAny space a 64 = false → (line + 64 ≤ a ∨ a + 64 ≤ line) →
        ∃ noted, (wordsOf 8 (r.hostRead space a 64)).take 4 = [BitVec.ofNat 64 (recType p.words * 2 ^ 56 + p.tally.status.toNat * 2 ^ 32 +
          min 255 p.tally.further * 2 ^ 24 + p.tally.replays * 2 ^ 21 + noted),
          BitVec.ofNat 64 (p.index * 2 ^ 32 + (if recType p.words = 1 then p.stepno.toNat else 0)), p.codeStart.getD 0, s.chron] ∧ noted < 2 ^ 16))

/-- (1) A region entry: a valid one over granules of the scratchpad that no other valid entry covers takes them for its context,
and those that another context owned are zeroed first; a bad range or an overlap is refused with `0x2011`. (2) TL_CTRL: HOLD is
written at once, but that of a Faulted tile and that of a tile in its self-test stay; the partition fields change only with every
queue empty (`0x2014`) and no region of another context (`0x3061`). (3) When zeroing ends, the granules of the entry that were
being zeroed, and those that no valid entry covers, read zero and correct, no other byte changes, and the entry's busy bit clears.
The model's choices: log 95 (an entry is not compared with itself). Rests on R40, R41, R261. -/
def Obligations.TileControlAndRegions : Prop :=
  (∀ (s : State) (t : Tile) (n : Fin 16) (w : Wr) (v m : Word),
    let a := tileBase t + 0x100 + 8 * n
    let new := (s.reg a &&& ~~~ m) ||| (v &&& m)
    let c := bits new 0 12
    let base := bits new 12 8
    let count := bits new 20 8
    let clash := ∃ i, i < 16 ∧ i ≠ n.val ∧ (s.treg t (0x100 + 8 * i)).getLsbD 28 = true ∧
      base < bits (s.treg t (0x100 + 8 * i)) 12 8 + bits (s.treg t (0x100 + 8 * i)) 20 8 ∧
      bits (s.treg t (0x100 + 8 * i)) 12 8 < base + count ∧ bits (s.treg t (0x100 + 8 * i)) 20 8 ≠ 0
    s.accepts a w v m →
    (new.getLsbD 28 = true → 192 < base + count ∨ count = 0 ∨ clash → exec (.tlSpregWrite t n w) s = .next (s.record a 0x2011)) ∧
    (new.getLsbD 28 = true → base + count ≤ 192 → count ≠ 0 → ¬ clash → ∃ r, exec (.tlSpregWrite t n w) s = .next r ∧
      bits (r.reg a) 0 29 = 2 ^ 28 + count * 2 ^ 20 + base * 2 ^ 12 + c ∧ (r.tile t).sp.bytes = (s.tile t).sp.bytes ∧ r.mem = s.mem ∧
      ∀ g, base ≤ g → g < base + count → FMap.get none (r.tile t).sp.owners g = some c ∧
        (∀ o, FMap.get none (s.tile t).sp.owners g = some o → o ≠ c →
          g ∈ (r.tile t).sp.zeroing ∧ (r.reg a).getLsbD 29 = true)) ∧
    (new.getLsbD 28 = false → exec (.tlSpregWrite t n w) s =
      .next (s.setReg a (BitVec.ofNat 64 (b2n ((s.reg a).getLsbD 29) * 2 ^ 29 + count * 2 ^ 20 + base * 2 ^ 12 + c))))) ∧
  (∀ (s : State) (t : Tile) (w : Wr) (v m : Word),
    let a := tileBase t + 0x008
    let old := s.reg a
    let new := (old &&& ~~~ m) ||| (v &&& m)
    let keeps := s.faultedTile t = true ∨ s.start.tileReset = some t.val
    let held := s.setField a 0 1 (if s.keepsHold t then bits old 0 1 else bits new 0 1)
    let same := bits new 1 13 = bits old 1 13
    let idle := ∀ e, (s.tile t).work.queue e = []
    let quiet : Prop := ∀ q ∈ (s.tile t).work.queues, q.2 = []
    let others := ∃ i, i < 16 ∧ (s.treg t (0x100 + 8 * i)).getLsbD 28 = true ∧ bits (s.treg t (0x100 + 8 * i)) 0 12 ≠ bits new 2 12
    s.accepts a w v m →
    (s.keepsHold t = true ↔ keeps) ∧
    (same → exec (.tlCtrlWrite t w) s = .next held) ∧
    (¬ same → ¬ idle → exec (.tlCtrlWrite t w) s = .next (held.record a 0x2014)) ∧
    (¬ same → quiet → new.getLsbD 1 = true → others → exec (.tlCtrlWrite t w) s = .next (held.record a 0x3061)) ∧
    (¬ same → quiet → new.getLsbD 1 = false ∨ ¬ others → exec (.tlCtrlWrite t w) s = .next (held.setField a 1 13 (bits new 1 13)))) ∧
  (∀ (s : State) (t : Tile) (n : Fin 16),
    let e := s.treg t (0x100 + 8 * n)
    let covers := fun i g => (s.treg t (0x100 + 8 * i)).getLsbD 28 = true ∧ bits (s.treg t (0x100 + 8 * i)) 12 8 ≤ g ∧
      g < bits (s.treg t (0x100 + 8 * i)) 12 8 + bits (s.treg t (0x100 + 8 * i)) 20 8
    let done := fun g => g ∈ (s.tile t).sp.zeroing ∧ (covers n.val g ∨ ∀ i, i < 16 → ¬ covers i g)
    s.moving = true → e.getLsbD 29 = true → ∃ r, exec (.granuleZeroingDone t n) s = .next r ∧
      (r.treg t (0x100 + 8 * n)).getLsbD 29 = false ∧ r.mem = s.mem ∧
      (∀ off, done (off / 0x40000) → FMap.get 0 (r.tile t).sp.bytes off = 0 ∧ FMap.get false (r.tile t).sp.bad (off / 8) = false) ∧
      (∀ off, off / 0x40000 ∉ (s.tile t).sp.zeroing → FMap.get 0 (r.tile t).sp.bytes off = FMap.get 0 (s.tile t).sp.bytes off) ∧
      ∀ g, done g → g ∉ (r.tile t).sp.zeroing)

/-- (1) Scrubbing, clears, halt, the cache flush, and the norm-watch and Lodestar entries of a tile. (2) A flit mismatch on a seam
link asks for a re-send; the eighth failed re-send in a row takes the link down, records `0x6010`, and after that the link carries
nothing; requests whose way leads over it are lost. A port that is no seam, or a link that is down, does nothing. The model's
choices: log 97 (which of two statuses of a watch entry), log 49 (which requests a lost link holds). Rests on R42, R51, R171,
R179, R271, R281. -/
def Obligations.TileService : Prop :=
  (∀ (s : State) (t : Tile) (n : Fin 16) (w : Wr) (v m : Word),
    let at_ := fun o => tileBase t + o
    let new := fun o => (s.reg (at_ o) &&& ~~~ m) ||| (v &&& m)
    let cfg := 0x400 + 0x30 * n.val
    let ls := 0xA00 + 0x20 * n.val
    (∀ word, word < 0x600000 → s.moving = true → FMap.get false (s.tile t).sp.bad word = false →
      exec (.spScrub t word true) s = .next ((s.orReg (at_ 0x018) 1).tcount t 0x350 1)) ∧
    (∀ word, word < 0x600000 → s.moving = true → (s.treg t 0x018).getLsbD 1 = false → ∃ r, exec (.spScrub t word false) s = .next r ∧
      FMap.get false (r.tile t).sp.bad word = true ∧ (r.treg t 0x018).getLsbD 1 = true ∧
      r.treg t 0x020 = BitVec.ofNat 64 (2 ^ 31 + 8 * word) ∧ (r.tile t).sp.bytes = (s.tile t).sp.bytes) ∧
    (s.accepts (at_ 0x3F8) w v m → v.getLsbD 0 = true → ∃ r, exec (.tlCntClear t w) s = .next r ∧
      r = { s with regs := r.regs, marks := r.marks } ∧ (∀ o ∈ [0x318, 0x330, 0x338, 0x340, 0x348], r.viewTile t o = 0) ∧
      (∀ i, i < 10 → r.treg t (0x300 + 8 * i) = 0) ∧ ∀ o ∈ [0x350, 0x358, 0x7C0, 0x7C8, 0x7D0, 0x7D8], r.treg t o = 0) ∧
    (s.accepts (at_ 0x808) w v m → exec (.hcCtrlHalt t w) s = .next (s.setReg (at_ 0x808) (BitVec.ofNat 64 (bits (new 0x808) 0 1)))) ∧
    (s.accepts (at_ 0x898) w v m → v.getLsbD 0 = true →
      exec (.hcCacheFlush t w) s = .next (s.onTile t fun x => { x with flushing := true })) ∧
    (s.moving = true → (s.tile t).flushing = true → ∃ r, exec (.hcCacheFlushDone t) s = .next r ∧ (r.tile t).flushing = false ∧
      ∀ p ∈ (s.tile t).slots, ∀ l ∈ p.2.dirty, FMap.find? r.mem.lines l = none) ∧
    (s.accepts (at_ cfg) w v m → (new cfg).getLsbD 63 = true → (∃ i, i < 16 ∧ i ≠ n.val ∧ (s.treg t (0x400 + 0x30 * i)).getLsbD 63 = true ∧
      bits (s.treg t (0x400 + 0x30 * i)) 0 28 = bits (new cfg) 0 28) → exec (.tlNwCfgWrite t n w) s = .next (s.record (at_ cfg) 0x201B)) ∧
    (s.accepts (at_ cfg) w v m → (new cfg).getLsbD 63 = true → bits (new cfg) 44 6 = 0 → (∀ i, i < 16 → i ≠ n.val →
      (s.treg t (0x400 + 0x30 * i)).getLsbD 63 = false) → exec (.tlNwCfgWrite t n w) s = .next (s.record (at_ cfg) 0x2006)) ∧
    (s.accepts (at_ cfg) w v m → (new cfg).getLsbD 63 = false ∨ (bits (new cfg) 44 6 ≠ 0 ∧ ∀ i, i < 16 → i ≠ n.val →
      (s.treg t (0x400 + 0x30 * i)).getLsbD 63 = false) → exec (.tlNwCfgWrite t n w) s = .next (((s.setReg (at_ cfg) (new cfg)).setReg
        (at_ (cfg + 8)) 0).onWork t fun x => { x with banks := x.banks.filter fun b => b.entry != n.val })) ∧
    (s.accepts (at_ 0x720) w v m → v.getLsbD n.val = true → ∃ r, exec (.tlNwClear t w) s = .next r ∧
      r = { s with regs := r.regs, marks := r.marks } ∧
      (∀ i, i < 4 → r.treg t (cfg + 0x10 + 8 * i) = 0) ∧ (r.treg t 0x700).getLsbD n.val = false ∧
      (v.getLsbD 16 = true → ∀ i, i < 3 → r.treg t (0x708 + 8 * i) = 0)) ∧
    (s.accepts (at_ ls) w v m → exec (.hcLsCfgWrite t n w) s =
      .next ((((s.setReg (at_ ls) (BitVec.ofNat 64 (bits (new ls) 0 32))).setTreg t (ls + 8) 0).setTreg t (ls + 0x10)
        ((toF32 (Machine.Num.ofInt (bits (new ls) 0 32))).setWidth 64)).onTile t fun x => x.onSlot n fun z => { z with learnt := false }))) ∧
  (∀ (s : State) (t : Tile) (port : Fin 4) (same : Bool), s.moving = true →
    let n := if same then FMap.get 0 (s.tile t).upkeep.resends port + 1 else 0
    let asked := (s.orReg (tileBase t + 0x018) 32).onUpkeep t fun u => { u with resends := FMap.put 0 u.resends port n }
    let down := asked.onUpkeep t fun u => { u with linkDown := u.linkDown ++ [port.val], resends := FMap.put 0 u.resends port 0 }
    let logged := down.log (tileFault 0x6010 2 t port 0xFFF 0)
    (port.val ∉ (s.tile t).upkeep.linkDown → seamPort t port = true → n < 8 → exec (.seamResend t port same) s = .next asked) ∧
    (port.val ∉ (s.tile t).upkeep.linkDown → seamPort t port = true → 8 ≤ n → ∃ r, exec (.seamResend t port same) s = .next r ∧
      r = (logged.tiles.map (·.1)).foldl (fun acc u => acc.loseRequests (.link t port) u 0x6010) logged ∧
      r.linkOpen t port = false ∧ port.val ∈ (r.tile t).upkeep.linkDown ∧ (r.treg t 0x018).getLsbD 5 = true) ∧
    (port.val ∈ (s.tile t).upkeep.linkDown → exec (.seamResend t port same) s = .next s) ∧
    (seamPort t port = false → exec (.seamResend t port same) s = .next s))

/-- (1) A SPILL order that passes the checks of its table is accepted: the tile is busy with it and the victim's commands on the
region leave their queues. When its copy ends, the entry passes from the victim to the beneficiary, is recorded in TL_SPSAVE, and
its granules read zero; a failed copy, also that of a record parked while the copy ran, leaves the region with the victim. (2) A
RESTORE order gives the saved region back to its context; when its copy ends, the save entry clears, the region holds what the
save area held, its kept result is there again, and the parked records are read back and set out for their queues; where a copy
met an error, they fail instead. Rests on R264, R265, R267, R268. -/
def Obligations.SpillsAndRestores : Prop :=
  (∀ (s : State) (t : Tile) (w : Wr) (v m : Word) (o : Order),
    let en := fun k => s.treg t (0x100 + 8 * k)
    let n := bits v 56 4
    let vic := bits (en n) 0 12
    let legal := (s.tile t).work.order = none ∧ (en n).getLsbD 28 = true ∧ (en n).getLsbD 29 = false ∧
      (en (bits v 52 4)).getLsbD 28 = false ∧ (s.treg t (0x740 + 8 * bits v 52 4)).getLsbD 63 = false ∧
      (∃ x, s.ctx? (bits v 40 12) = some x ∧ x.destroying = false ∧ s.prioOf vic < x.cr.prio.toNat) ∧ bits v 40 12 ≠ vic ∧
      (s.treg t 0x008).getLsbD 1 = false ∧ 1 ≤ bits v 0 24 ∧
      bits v 0 24 * 0x10000 + bits (en n) 20 8 * 0x40000 + 0x90000 ≤ s.reserveSize vic
    let base := bits (en o.n) 12 8
    let count := bits (en o.n) 20 8
    let inside := fun off => base ≤ off / 0x40000 ∧ off / 0x40000 < base + count
    (s.accepts (tileBase t + 0x730) w v m → bits v 60 4 = 1 → legal → ∃ r, exec (.spill t w) s = .next r ∧
      (r.tile t).work.order = some ⟨false, n, bits v 52 4, bits v 40 12, bits v 0 24, vic, 0, 0⟩ ∧ r.treg t 0x738 = 1 ∧
      (r.tile t).sp = (s.tile t).sp ∧ r.treg t (0x100 + 8 * n) = en n) ∧
    (s.accepts (tileBase t + 0x730) w v m → bits v 60 4 = 1 → (s.tile t).work.order.isSome = true →
      exec (.spill t w) s = .next (s.setTreg t 0x738 (BitVec.ofNat 64 (0x4063 * 2 ^ 16 + 1)))) ∧
    (s.moving = true → (s.tile t).work.order = some o → o.restore = false → o.failed = 0 → o.n < 16 → o.m < 16 → o.n ≠ o.m → o.bene < 4096 → o.victim < 4096 → o.off < 2 ^ 24 →
      s.victimRuns t o = false → (s.tile t).work.kept = none → (s.tile t).work.parkedFor o.n < 2048 → ∀ s1, s.spillCopy t o = (s1, .ok ()) → s1.tiles = s.tiles →
        (∀ k, k < 0x1000 → s1.treg t k = s.treg t k) → ∃ r, exec (.spillDone t) s = .next r ∧ (r.tile t).work.order = none ∧
        r.treg t 0x738 = 0 ∧ (r.treg t (0x100 + 8 * o.n)).getLsbD 28 = false ∧
        bits (r.treg t (0x100 + 8 * o.m)) 0 30 = 2 ^ 28 + count * 2 ^ 20 + base * 2 ^ 12 + o.bene ∧
        (r.treg t (0x740 + 8 * o.n)).getLsbD 63 = true ∧ r.mem = s1.mem ∧
        (∀ off, inside off → FMap.get 0 (r.tile t).sp.bytes off = 0) ∧
        (∀ off, ¬ inside off → FMap.get 0 (r.tile t).sp.bytes off = FMap.get 0 (s.tile t).sp.bytes off)) ∧
    (s.moving = true → (s.tile t).work.order = some o → o.restore = false → o.failed ≠ 0 →
      exec (.spillDone t) s = .next (s.undoSpill t o o.failed)) ∧
    (∀ st, s.moving = true → (s.tile t).work.order = some o → o.restore = false → ∃ r, exec (.spillFailed t st) s = .next r ∧
      (r.tile t).work.order = none ∧ r.treg t 0x738 = BitVec.ofNat 64 (st.toNat * 2 ^ 16) ∧ (r.tile t).sp = (s.tile t).sp ∧
      r.mem = s.mem ∧ ∀ k, k ≠ 0x738 → r.treg t k = s.treg t k)) ∧
  (∀ (s : State) (t : Tile) (w : Wr) (v m : Word) (o : Order),
    let n := bits v 56 4
    let save := fun k => s.treg t (0x740 + 8 * k)
    let base := bits (save n) 35 8
    let count := bits (save n) 43 8
    let c := bits (save n) 51 12
    let clash := ∃ i, i < 16 ∧ (s.treg t (0x100 + 8 * i)).getLsbD 28 = true ∧
      base < bits (s.treg t (0x100 + 8 * i)) 12 8 + bits (s.treg t (0x100 + 8 * i)) 20 8 ∧
      bits (s.treg t (0x100 + 8 * i)) 12 8 < base + count ∧ bits (s.treg t (0x100 + 8 * i)) 20 8 ≠ 0 ∧ count ≠ 0
    (s.accepts (tileBase t + 0x730) w v m → bits v 60 4 = 2 → (s.tile t).work.order = none → (save n).getLsbD 63 = true → ¬ clash →
      ∃ r, exec (.restore t w) s = .next r ∧ (r.tile t).work.order = some ⟨true, n, 0, 0, bits (save n) 0 24, c, 0, 0⟩ ∧
        r.treg t 0x738 = 1 ∧ bits (r.treg t (0x100 + 8 * n)) 0 29 = 2 ^ 28 + count * 2 ^ 20 + base * 2 ^ 12 + c ∧ r.mem = s.mem) ∧
    (s.accepts (tileBase t + 0x730) w v m → bits v 60 4 = 2 → (s.tile t).work.order = none → (save n).getLsbD 63 = false ∨ clash →
      exec (.restore t w) s = .next (s.setTreg t 0x738 0x20600000)) ∧
    (s.moving = true → (s.tile t).work.order = some o → o.restore = true → o.n < 16 →
      let saved := FMap.find? (s.tile t).work.accSave o.n
      let area := s.reserve o.victim + o.off * 0x10000 + bits (save o.n) 43 8 * 0x40000
      let places := ((s.tile t).work.parked.filter fun p => p.entry = o.n).map (·.place)
      (saved.isSome = true → ∀ k, (s.tile t).work.kept = some k → k.ctx = o.victim) →
      ∀ s1 e1 s2 k e2 s3 e3, s.restoreCopy t o (bits (save o.n) 35 8) (bits (save o.n) 43 8) = (s1, e1) →
        s1.restoreKept o.victim area saved = (s2, k, e2) →
        doAll s2 (fun s' i => s'.restoreParked t o.n (area + 0x80000) i) places = (s3, e3) →
        ∃ r, exec (.restoreDone t) s = .next r ∧ (r.tile t).work.order = none ∧ r.treg t 0x738 = 0 ∧ r.treg t (0x740 + 8 * o.n) = 0 ∧
          (r.treg t (0x100 + 8 * o.n)).getLsbD 29 = false ∧ (r.tile t).sp = (s3.tile t).sp ∧ r.mem = s3.mem ∧
          (r.tile t).work.kept = (if k.isSome = true then k else (s.tile t).work.kept) ∧
          FMap.find? (r.tile t).work.accSave o.n = none ∧
          (e1 = none → e2 = none → e3 = none → (r.tile t).work.parked = (s3.tile t).work.parked.map fun p =>
            if p.entry = o.n then { p with entry := returning } else p) ∧
          (¬ (e1 = none ∧ e2 = none ∧ e3 = none) → (r.tile t).work.parked = (s3.tile t).work.parked.filter fun p => p.entry != o.n)))

/-- Loading a function table: a write of LOAD of a slot that holds no table makes the command busy; when the image has arrived it
is checked in order, and what passes waits for the exhaustive pass; the pass refuses it or hands it to every tile; a tile
activates the slot at a vector boundary, and the last one ends the command with the slot shown in the registers. Rests on R185,
R186, R188, R189. -/
def Obligations.TableLoads : Prop :=
  ∀ (s : State) (t : Tile) (n : Fin 16) (w : Wr) (v m : Word) (c : FtCmd) (ws : List Word),
    let a := bnBase + 0xC08
    (s.accepts a w v m → bits v 0 2 = 1 → s.tables.cmd = none → FMap.find? s.tables.images (bits v 4 4) = none →
      exec (.ftLoad w) s = .next
        { s.setField (bnBase + 0xC10) 0 1 1 with
          tables := { s.tables with
            cmd := some ⟨bits v 4 4, true, [], [], false, s.chron⟩ } }) ∧
    (s.moving = true → s.safety.safe = false → s.tables.cmd = some c → c.load = true → c.image = [] → c.awaiting = [] →
      s.hostReads ≤ 768 → ∀ s1,
      (s.ftFetch = (s1, none) → exec .ftLoadDone s = .next (s1.tableFailed c).ftPass) ∧
      (s.ftFetch = (s1, some ws) →
        (headerLegal ws = false ∨ valuesLegal ws = false → exec .ftLoadDone s = .next (s1.ftFail 0x2030 none).ftPass) ∧
        (headerLegal ws = true → valuesLegal ws = true → breaksLegal ws = false →
          exec .ftLoadDone s = .next (s1.ftFail 0x2031 none).ftPass) ∧
        (∀ p, headerLegal ws = true → valuesLegal ws = true → breaksLegal ws = true → badSeam ws = some p →
          exec .ftLoadDone s = .next (s1.ftFail 0x2033 (some p)).ftPass) ∧
        (headerLegal ws = true → valuesLegal ws = true → breaksLegal ws = true → badSeam ws = none →
          exec .ftLoadDone s = .next
            (State.ftPass { s1 with
              tables := { s1.tables with
                cmd := some { c with image := ws } } })))) ∧
    (∀ st p, (s.ftFail st p).ftPass = s.ftFail st p) ∧
    (s.accepts a w v m → bits v 0 2 = 0 ∨ bits v 0 2 = 3 → exec (.ftLoad w) s = .next (s.record a 0x2006)) ∧
    (s.accepts a w v m → bits v 0 2 = 1 → s.tables.cmd = none → (FMap.find? s.tables.images (bits v 4 4)).isSome = true →
      exec (.ftLoad w) s = .next (s.ftFail 0x2034 none)) ∧
    (s.accepts a w v m → bits v 0 2 = 1 ∨ bits v 0 2 = 2 → s.tables.cmd.isSome = true →
      exec (if bits v 0 2 = 1 then .ftLoad w else .ftUnload w) s = .next (s.record a 0x4030)) ∧
    (s.accepts a w v m → bits v 0 2 = 2 → s.tables.cmd = none → exec (.ftUnload w) s = .next
      { s.setField (bnBase + 0xC10) 0 1 1 with
        tables := { s.tables with
          cmd := some ⟨bits v 4 4, false, [], List.range 640, false, s.chron⟩ } }) ∧
    (s.moving = true → s.tables.cmd = some c → c.load = true → c.awaiting = [] → c.image ≠ [] → tablePass c.image = none →
      exec .ftLoadDone s = .next
        { s with
          tables := ⟨FMap.insert s.tables.images c.slot c.image, some { c with awaiting := List.range 640 }⟩ }) ∧
    (∀ st k x, s.moving = true → s.tables.cmd = some c → c.load = true → c.awaiting = [] → c.image ≠ [] → tablePass c.image = some (st, k, x) →
      exec .ftLoadDone s = .next (s.ftFail st (some (k, x)))) ∧
    (s.moving = true → s.tables.cmd = some c → c.slot = n.val → t.val ∈ c.awaiting → s.vectorBoundary t = true →
      ∃ r, exec (.ftSlotActivate t n) s = .next r ∧ (n.val ∈ (r.tile t).upkeep.ftValid ↔ c.load = true) ∧
        n.val ∉ (r.tile t).upkeep.ftDamaged ∧ r.mem = s.mem ∧
        ((∃ u ∈ c.awaiting, u ≠ t.val) → r.tables.cmd = some { c with awaiting := c.awaiting.filter (· ≠ t.val) }) ∧
        ((∀ u ∈ c.awaiting, u = t.val) → r.tables.cmd = none ∧
          r.reg (bnBase + 0xC10) = (if c.abandoned = true then 0xB0300000 else 0) ∧
          r.tables.images = (if c.load = true then s.tables.images else FMap.erase s.tables.images n.val) ∧
          ((r.reg (bnBase + 0xC20 + 8 * n)).getLsbD 63 = true ↔ c.load = true))) ∧
    (s.moving = true → exec (.ftRewriteDone t n) s = .next (s.onUpkeep t fun u => { u with ftDamaged := u.ftDamaged.filter (· ≠ n.val) }))

/-- (1) The host cap and the control bits: beyond 5,600 W rejected, below 4,400 W refused in fixed-frequency mode (`0x2131`),
below 1,200 W held at 1,200 W with its flag (`0x9001`); FIXED holds both watches at point 5. (2) The rack lease: a newer plain
line with a legal cap renews the lease, an older one changes nothing, any other is `0x2132`; after 30 s without one the rack cap
is 3,360 W (`0x9003`). The status line is written each millisecond. The model's choices: log 77 (the order of the checks, and FP32
gains). Rests on R426 to R429, R436, R437. -/
def Obligations.PowerCaps : Prop :=
  (∀ (s : State) (w : Wr) (v m : Word),
    let cap := bits ((s.reg (pwBase + 0x018) &&& ~~~ m) ||| (v &&& m)) 0 16
    let new := (s.reg (pwBase + 0x028) &&& ~~~ m) ||| (v &&& m)
    let fixed := (s.reg (pwBase + 0x028)).getLsbD 0
    let ok := fun o => s.accepts (pwBase + o) w v m
    (ok 0x018 → m &&& 0xFFFF#64 = 0 → exec (.pwCapWrite w) s = .next s) ∧
    (ok 0x018 → m &&& 0xFFFF#64 ≠ 0 → 5600 < cap → exec (.pwCapWrite w) s = .next (s.record pwBase 0x2006)) ∧
    (ok 0x018 → m &&& 0xFFFF#64 ≠ 0 → cap < 4400 → fixed = true → exec (.pwCapWrite w) s = .next (s.record pwBase 0x2131)) ∧
    (ok 0x018 → m &&& 0xFFFF#64 ≠ 0 → cap ≤ 5600 → (fixed = false ∨ 4400 ≤ cap) → ∃ r, exec (.pwCapWrite w) s = .next r ∧
      r.reg (pwBase + 0x018) = BitVec.ofNat 64 (max 1200 cap) ∧ (cap < 1200 → (r.reg (pwBase + 0x038)).getLsbD 0 = true ∧
        bits (r.reg (pwBase + 0x010)) 16 16 = 0x9001) ∧
      (1200 ≤ cap → s.power.lowRack = false → (r.reg (pwBase + 0x038)).getLsbD 0 = false) ∧ r.mem = s.mem ∧ r.tiles = s.tiles) ∧
    (ok 0x028 → m &&& 3#64 ≠ 0 → new.getLsbD 0 = true → fixed = false → max 1200 (min (bits (s.reg (pwBase + 0x018)) 0 16) s.power.rackCap) < 4400 →
      ∃ r, exec (.pwCtrlWrite w) s = .next r ∧ bits (r.reg (pwBase + 0x010)) 16 16 = 0x2131 ∧ (r.reg (pwBase + 0x028)).getLsbD 0 = false ∧
        (r.reg (pwBase + 0x028)).getLsbD 1 = new.getLsbD 1) ∧
    (ok 0x028 → m &&& 3#64 ≠ 0 → new.getLsbD 0 = true → fixed = true ∨ 4400 ≤ s.effCap → ∃ r, exec (.pwCtrlWrite w) s = .next r ∧
      r.reg (pwBase + 0x028) = new &&& 3#64 ∧ bits (r.reg (pwBase + 0x030)) 0 4 = 5 ∧ bits (r.reg (pwBase + 0x030)) 8 4 = 5 ∧ r.mem = s.mem) ∧
    (ok 0x028 → m &&& 3#64 ≠ 0 → new.getLsbD 0 = false → exec (.pwCtrlWrite w) s = .next (s.setReg (pwBase + 0x028) (new &&& 3#64))) ∧
    (ok 0x0F8 → v.getLsbD 0 = true → exec (.pwCntClear w) s = .next (s.setReg (pwBase + 0x048) 0)) ∧
    (s.accepts (sxBase + 0x3F8) w v m → v.getLsbD 0 = true → ∃ r, exec (.sxCntClear w) s = .next r ∧ r = { s with regs := r.regs } ∧
      ∀ i, i < 9 → r.reg (sxBase + 0x300 + 8 * i) = 0)) ∧
  (∀ (s : State) (line : List Word) (s1 : State) (bs : List Byte),
    let x := s1.reg (sxBase + 0x018)
    let seq := bits (line.getD 0 0) 0 32
    let cap := bits (line.getD 1 0) 0 16
    let plain := bits (line.getD 0 0) 32 32 = 0 ∧ bits (line.getD 1 0) 16 48 = 0 ∧ ∀ i, i < 6 → line.getD (2 + i) 0 = 0
    let ahead := (seq + 2 ^ 32 - bits x 32 32) % 2 ^ 32
    let reads := s.rackRuns = true ∧ s.due 2 5000 = true ∧ tierOf s.rackLine = .near ∧ line = wordsOf 8 bs ∧
      (s.acted 2).readPart 0xFFF true ⟨.pa s.rackLine, 64, none, 0, 0⟩ = (s1, .ok bs)
    (reads → ahead = 0 ∨ 2 ^ 31 ≤ ahead → exec .rackLineRead s = .next s1) ∧
    (reads → ahead ≠ 0 → ahead < 2 ^ 31 → ¬ plain ∨ 5600 < cap → exec .rackLineRead s =
      .next (((s1.setField (sxBase + 0x018) 32 32 seq).record pwBase 0x2132).count (sxBase + 0x338) 1)) ∧
    (reads → ahead ≠ 0 → ahead < 2 ^ 31 → plain → cap ≤ 5600 → ∃ r, exec .rackLineRead s = .next r ∧ r.power.rackCap = max 1200 cap ∧
      r.power.lease = some s1.chron ∧ r.power.rackSeen = true ∧ (r.power.lowRack = true ↔ cap < 1200) ∧
      bits (r.reg (sxBase + 0x018)) 32 32 = seq ∧ bits (r.reg (sxBase + 0x018)) 16 16 = max 1200 cap ∧
      bits (r.reg (sxBase + 0x018)) 0 13 = 2 * 3000 + 1 ∧ (cap < 4400 → (r.reg (pwBase + 0x028)).getLsbD 0 = false) ∧ r.mem = s1.mem) ∧
    (s.rackRuns = true → s.due 3 1000000 = true → tierOf (s.rackLine + 64) = .near → exec .rackStatusWrite s =
      .next ((s.acted 3).writeLine (s.rackLine + 64) [BitVec.ofNat 64 (bits (s.reg (sxBase + 0x018)) 32 32), BitVec.ofNat 64 s.effCap,
        BitVec.ofNat 64 (bits (s.reg sxBase) 0 16), BitVec.ofNat 64 (bits (s.reg (pwBase + 0x038)) 0 6), s.chron, 0, 0, 0])) ∧
    (∀ a, s.power.lease = some a → s.sextant = true → (s.reg (sxBase + 0x010)).getLsbD 63 = true → 30000000000 ≤ (s.chron - a).toNat →
      ∃ r, exec .capLeaseExpired s = .next r ∧ r.power.rackCap = 3360 ∧ r.power.lease = none ∧ (r.reg (pwBase + 0x038)).getLsbD 2 = true ∧
        (r.reg (sxBase + 0x018)).getLsbD 0 = false ∧ (r.reg (pwBase + 0x028)).getLsbD 0 = false ∧ r.mem = s.mem))

/-- (1) The Sextant's cycle and the clamp: each microsecond the caps, the duty and the tiles' points follow, and TL_ISLAND shows
the clocks of a tile's point, the arithmetic and Helm clocks halved in a droop; while the clamp acts each watch above the target
falls one point per 20 µs; once a millisecond the watches share the cap, each moving by at most one point. In fixed-frequency mode
both watches are at point 5 whenever the clamp does not act (the model's choice, log 77). (2) SX_WB_SET: six values within their
limits change the bill as one change, with a new epoch, and the bill line is written where it lies in the Near tier; values beyond
a limit are rejected. Once per period with AUTO set, while the Sextant runs, the watches' backlogs move each band by at most one.
The model's choices: log 59 (an equal bill is no change). Rests on R278, R279, R425, R432 to R434, R450. -/
def Obligations.SextantCycles : Prop :=
  (∀ (s : State) (t : Tile), s.sextant = true →
    let pt := fun (r : State) (k : Nat) => bits (r.reg (pwBase + 0x030)) (8 * k) 4
    let kept := fun (r : State) (p : Nat) => if s.isFixedFreq = true ∧ r.clampActs = false then 5 else p
    let u := (s.tile t).upkeep
    let step := if u.point < u.wanted then u.point + 1 else u.point - 1
    let fits := ∀ p n, p < 4 → neighbour t p = some n → near120 step (s.tile n).upkeep.point = true
    (s.due 0 1000 = true → ∃ r, exec .sextantCycle s = .next r ∧
      r.reg (pwBase + 0x020) = BitVec.ofNat 64 (s.power.rackCap * 2 ^ 32 + bits (s.reg (pwBase + 0x018)) 0 16 * 2 ^ 16 + s.effCap) ∧
      r.power.estN = s.power.estN + 1 ∧ pt r 0 = kept r (pt s 0) ∧ pt r 1 = kept r (pt s 1) ∧ r.mem = s.mem ∧
      bits (r.reg (pwBase + 0x030)) 16 8 = bits (r.reg (pwBase + 0x030)) 24 8) ∧
    (s.clampActs = true → s.due 1 20000 = true → ∃ r, exec .clampPointStep s = .next r ∧ r.mem = s.mem ∧ r.tiles = s.tiles ∧
      ∀ k, k < 2 → pt r k = kept r (if s.targetPoint s.effCap < pt s k then pt s k - 1 else pt s k)) ∧
    (s.moving = true → u.point ≠ u.wanted → step < 8 → (fits → ∃ r, exec (.pointChangeDone t) s = .next r ∧ (r.tile t).upkeep.point = step ∧
      r.mem = s.mem ∧
      ∀ q, q ≠ t.val → r.tile q = s.tile q) ∧ (¬ fits → exec (.pointChangeDone t) s = .next s)) ∧
    (s.running = true → s.normal = true → u.point < 8 →
      let half := if (FMap.find? s.power.droops (dieOf t)).isSome = true then 2 else 1
      s.viewTile t 0x098 = BitVec.ofNat 64 (pointRouter u.point * 2 ^ 32 + pointHelm u.point / half * 2 ^ 16 + pointArith u.point / half)) ∧
    (s.stage = 6 → s.isFixedFreq = false → s.due 5 1000000 = true → ∃ r,
      exec .capShare s = .next r ∧ r.mem = s.mem ∧ r.tiles = s.tiles ∧
      ∀ k, k < 2 → pt r k ≤ pt s k + 1 ∧ pt s k ≤ pt r k + 1)) ∧
  (∀ (s : State) (w : Wr) (v m : Word),
    let cur := s.reg (sxBase + 0x420)
    let lim := s.reg (sxBase + 0x410)
    let ds := bands v 4 4 0
    let legal := ∀ b, b < 6 → bits lim (8 * b) 4 ≤ bits v (4 * b) 4 ∧ bits v (4 * b) 4 ≤ bits lim (8 * b + 4) 4
    (s.accepts (sxBase + 0x418) w v m → legal → ds = bands cur 4 4 0 → exec (.sxWbSet w) s = .next s) ∧
    (s.accepts (sxBase + 0x418) w v m → legal → ds ≠ bands cur 4 4 0 → tierOf (bits (s.reg (sxBase + 0x400)) 0 48) ≠ .near →
      ∃ r, exec (.sxWbSet w) s = .next r ∧ r.mem = s.mem ∧
        r.power = { s.power with decode := { s.power.decode with g := 0 }, prefill := { s.power.prefill with g := 0 } } ∧ r.reg (sxBase + 0x420) = BitVec.ofNat 64 ((bits cur 24 32 + 1) % 2 ^ 32 * 2 ^ 24 + bits v 0 24)) ∧
    (s.accepts (sxBase + 0x418) w v m → legal → ds ≠ bands cur 4 4 0 → tierOf (bits (s.reg (sxBase + 0x400)) 0 48) = .near →
      ∃ r, exec (.sxWbSet w) s = .next r ∧ r.mem = (s.writeLine (bits (s.reg (sxBase + 0x400)) 0 48) r.billLine).mem ∧
        r.reg (sxBase + 0x420) = BitVec.ofNat 64 ((bits cur 24 32 + 1) % 2 ^ 32 * 2 ^ 24 + bits v 0 24)) ∧
    (s.accepts (sxBase + 0x418) w v m → ¬ legal → exec (.sxWbSet w) s = .next (s.record sxBase 0x2006)) ∧
    ((s.reg (sxBase + 0x408)).getLsbD 0 = false → exec .watchBillAdjust s = .next s) ∧
    (s.sextant = true → (s.reg (sxBase + 0x408)).getLsbD 0 = true →
      bits (s.reg (sxBase + 0x408)) 24 16 * 1000000 ≤ (s.chron - s.power.billAt).toNat →
      ∃ r, exec .watchBillAdjust s = .next r ∧ r.power.billAt = s.chron ∧ ∀ b, b < 6 →
        bits (r.reg (sxBase + 0x420)) (4 * b) 4 ≤ bits cur (4 * b) 4 + 1 ∧ bits cur (4 * b) 4 ≤ bits (r.reg (sxBase + 0x420)) (4 * b) 4 + 1))

/-- (1) The tier's command registers: while one command runs another is refused with `MT_BUSY` (`0x4071`); else an invalidation is
busy until no request in flight uses an invalidated entry, a harvest until its done event, a lost-line clear empties its entries,
a counter clear the counters. (2) A harvested page of a mapped, dirty-tracked leaf: its map goes to the host buffer and the leaf's
map is zero afterwards. (3) Far windows: a write of a valid slice makes it pending and unusable until the far node answers; the
answer gives the lower of the node's level and the configured one, level 0 leaves it invalid (`0x2071`), no answer within 1 ms is
`FAR_NODE_UNREACHABLE`, and a later answer is none. (4) Late requests are counted once; a request without an answer ends with
`TIER_TIMEOUT` (`0x6040`) after 1 ms, or 10 ms for far memory, and a write or atomic may have been applied all the same; its
answer may still come. (5) A Near stack or Mid group that fails is absent from then on; losing the light of port F takes the far
tier down; the patrol scrubber corrects and counts a single error and marks any other block uncorrectable. The model's choices:
log 64 (when a harvest copies), log 65 (a window while the level is asked), log 84 (a unit past those of the part). Rests on R287,
R290, R295, R300 to R304, R307, R309. -/
def Obligations.MemoryTiers : Prop :=
  (∀ (s : State) (w : Wr) (v m : Word),
    let status := fun (s' : State) (busy : Nat) (j : Option Bool) =>
      { s'.setField (mtBase + 0x020) 0 1 busy with
        mem := { s'.mem with
          job := j } }
    (s.mem.job.isSome = true →
      (s.accepts (mtBase + 0x418) w v m → exec (.mtXlatInv w) s = .next (s.record (mtBase + 0x418) 0x4071)) ∧
      (s.accepts (mtBase + 0x410) w v m → exec (.harvest w) s = .next (s.record (mtBase + 0x410) 0x4071)) ∧
      (s.accepts (mtBase + 0x400) w v m → exec (.mtLostClear w) s = .next (s.record (mtBase + 0x400) 0x4071)) ∧
      (s.accepts (mtBase + 0x420) w v m → exec (.mtCntClear w) s = .next (s.record (mtBase + 0x420) 0x4071))) ∧
    (s.mem.job = none →
      (s.accepts (mtBase + 0x418) w v m → exec (.mtXlatInv w) s = .next
        { s.setField (mtBase + 0x020) 0 1 1 with
          mem := { s.mem with
            job := some false
            inval := s.using (v.getLsbD 63) (bits v 0 12) (bits v 24 26) (bits v 12 12 + 1) } }) ∧
      (s.accepts (mtBase + 0x410) w v m → (∃ r, exec (.harvest w) s = .next r ∧ r.mem.job = some true ∧ (r.reg (mtBase + 0x020)).getLsbD 0 = true) ∧
        (∀ x, bits v 12 12 = 0 → s.ctx? (bits v 0 12) = some x →
          let page := s.harvestPage x.cr.root (bits v 24 26)
          exec (.harvest w) s =
            .next (status (page.1.hostWrite pf0Space (s.reg (mtBase + 0x408)).toNat (wordBytes page.2)) 1 (some true)))) ∧
      (s.accepts (mtBase + 0x400) w v m → ∃ r, exec (.mtLostClear w) s = .next r ∧
        r = { s with regs := r.regs, marks := r.marks } ∧ ∀ i, i < 64 →
        r.reg (mtBase + 0x200 + 8 * i) = if v.getLsbD 6 = true ∨ i = bits v 0 6 then 0 else s.reg (mtBase + 0x200 + 8 * i)) ∧
      (s.accepts (mtBase + 0x420) w v m → v.getLsbD 0 = true → ∃ r, exec (.mtCntClear w) s = .next r ∧
        r = { s with regs := r.regs, marks := r.marks } ∧
        (∀ i, i < 19 → r.reg (mtBase + 0x060 + 8 * i) = 0) ∧ ∀ i, i < 13 → r.reg (mtBase + 0x100 + 8 * i) = 0)) ∧
    (s.mem.job = some false → s.mem.inval.any s.flying = false → exec .xlatInvDone s = .next
      { s.setField (mtBase + 0x020) 0 1 0 with
        mem := { s.mem with
          job := none
          inval := [] } }) ∧
    (s.mem.job = some false → s.mem.inval.any s.flying = true → exec .xlatInvDone s = .next s) ∧
    (s.mem.job = some true → exec .harvestDone s = .next (status s 0 none))) ∧
  (∀ (s : State) (root p leaf : Nat), p < 2 ^ 26 → s.leafOf root (p * 2 ^ 21) = .inl leaf → s.flaw leaf 64 = none →
    (s.pa64 leaf).getLsbD 63 = true → frameSize (bits (s.pa64 leaf) 55 4) ≠ 0 → s.pageLines (bits (s.pa64 leaf) 21 23 * 2 ^ 21) = [] →
    let r := s.harvestPage root p
    r.2 = BitVec.ofNat 64 (2 ^ 63 + bits (s.pa64 leaf) 55 4 * 2 ^ 55 + p) :: (List.range 7).map (fun i => s.pa64 (leaf + 8 + 8 * i)) ∧
    (∀ i, i < 56 → r.1.pa8 (leaf + 8 + i) = 0) ∧ (∀ a, a < leaf + 8 ∨ leaf + 64 ≤ a → r.1.pa8 a = s.pa8 a) ∧ r.1.regs = s.regs) ∧
  (∀ (s : State) (n : Fin 16) (w : Wr) (v m : Word) (level : BitVec 2),
    let a := mtBase + 0x180 + 8 * n.val
    let new := (s.reg a &&& ~~~ m) ||| (v &&& m)
    let cap := bits (s.reg (mtBase + 0x018)) 16 4
    let asked := FMap.get 0 s.light.farQuery n
    (s.accepts a w v m → ∃ r, exec (.farWinWrite n w) s = .next r ∧ bits (r.reg a) 44 12 = bits new 44 12 ∧
      bits (r.reg a) 37 7 = bits new 37 7 ∧ bits (r.reg a) 60 2 = 0 ∧ (r.reg a).getLsbD 63 = new.getLsbD 63 ∧
      (r.reg a).getLsbD 62 = new.getLsbD 63 ∧ r.mem = s.mem ∧ r.tiles = s.tiles) ∧
    ((s.reg a).getLsbD 62 = true → s.farUp = true → (s.chron - asked).toNat ≤ 1000000 → level ≠ 0 → ∃ r, exec (.farLevelAnswer n level) s = .next r ∧
      (r.reg a).getLsbD 62 = false ∧ bits (r.reg a) 60 2 = min level.toNat cap ∧
      ((r.reg a).getLsbD 63 = true ↔ cap ≠ 0) ∧ bits (r.reg a) 0 60 = bits (s.reg a) 0 60 ∧ r.mem = s.mem) ∧
    ((s.reg a).getLsbD 62 = true → s.farUp = true → (s.chron - asked).toNat ≤ 1000000 → ∃ r, exec (.farLevelAnswer n 0) s = .next r ∧ (r.reg a).getLsbD 63 = false ∧
      (r.reg a).getLsbD 62 = false ∧ bits (r.reg (mtBase + 0x020)) 16 16 = 0x2071) ∧
    ((s.reg a).getLsbD 62 = true → s.farUp = true → 1000000 < (s.chron - asked).toNat →
      exec (.farLevelAnswer n level) s = exec (.farNodeUnreachable n) s) ∧
    ((s.reg a).getLsbD 62 = true → 1000000 ≤ (s.chron - asked).toNat → ∃ r, exec (.farNodeUnreachable n) s = .next r ∧
      (r.reg a).getLsbD 63 = false ∧ (r.reg a).getLsbD 62 = false ∧ bits (r.reg (mtBase + 0x020)) 16 16 = 0x6043 ∧ r.mem = s.mem)) ∧
  (∀ (s : State) (t : Tile) (e : EngineNo) (i ns : Nat) (cause : Fin 8) (applied : Bool) (x : Run) (q : Req) (k : Nat),
    let lost := fun s' : State => ((s'.orReg (mtBase + 0x050) 32).count (mtBase + 0x158) 1).onUpkeep t fun u =>
      { u with unanswered := u.unanswered + 1 }
    s.moving = true → s.tierReq? t e i = some (x, q, k) →
    (q.late = false → bits (s.reg (mtBase + 0x048)) (16 * k) 16 < s.ageOf q → exec (.tierLate t e i cause ns) s =
      .next ((s.onRun t x.ord fun y => { y with reqs := y.reqs.map fun z =>
        if z.issued.isSome && z.seq = q.seq then { z with late := true } else z }).count (mtBase + 0x140 + 8 * k) 1)) ∧
    (q.late = true ∨ s.ageOf q ≤ bits (s.reg (mtBase + 0x048)) (16 * k) 16 → exec (.tierLate t e i cause ns) s = .next s) ∧
    ((if k = 2 then 10000000 else 1000000) ≤ s.ageOf q → q.waiting = false ∨ applied = false → exec (.tierTimeout t e i applied) s =
      .next ((lost s).endReq t x q (.error 0x6040))) ∧
    ((if k = 2 then 10000000 else 1000000) ≤ s.ageOf q → q.waiting = true → applied = true → exec (.tierTimeout t e i applied) s =
      .next ((lost (s.perform t x q)).endReq t x q (.error 0x6040))) ∧
    (s.ageOf q < (if k = 2 then 10000000 else 1000000) → exec (.tierTimeout t e i applied) s = .next s)) ∧
  (∀ (s : State) (n : Fin 12) (block : BitVec 38),
    let a := block.toNat * 64
    let ends := fun (s' : State) (mid : Bool) => s'.endWhere 0x6040 fun q => q.parts.any fun p => p.inUnit mid n
    (s.moving = true → s.absent (n * 2 ^ 36) = false → exec (.stackFailed false n) s =
      .next (ends ((s.setField (mtBase + 0x000) (12 + n) 1 1).orReg (mtBase + 0x050) 256) false)) ∧
    (s.moving = true → n.val < 6 → s.absent (0x10000000000 + n * 2 ^ 38) = false → exec (.stackFailed true n) s =
      .next (ends ((s.setField (mtBase + 0x008) (48 + n) 1 1).orReg (mtBase + 0x050) 512) true)) ∧
    (6 ≤ n.val → exec (.stackFailed true n) s = .refused .illFormed) ∧
    ((s.reg (mtBase + 0x010)).getLsbD 1 = true → bits (s.reg (lpBase + 0x408)) 0 4 ≤ 1 →
      exec .farPortDown s = .next (((s.setField (mtBase + 0x010) 1 1 0).orReg (mtBase + 0x050) 1024).endWhere 0x6041 Req.far)) ∧
    (s.moving = true → s.absent a = false → FMap.get false s.mem.bad block.toNat = false →
      (tierOf a = .near → exec (.mtPatrolScrub block true) s =
        .next ((s.orReg (mtBase + 0x050) 1).count (mtBase + 0x060 + 8 * unitOf a) 1)) ∧
      (tierOf a = .mid → exec (.mtPatrolScrub block true) s =
        .next ((s.orReg (mtBase + 0x050) 4).count (mtBase + 0x0C0 + 8 * unitOf a) 1))) ∧
    (s.moving = true → s.absent a = false → tierOf a = .near ∨ tierOf a = .mid → ∃ r, exec (.mtPatrolScrub block false) s = .next r ∧
      FMap.get false r.mem.bad block.toNat = true ∧ (∀ b, b ≠ block.toNat → FMap.get false r.mem.bad b = FMap.get false s.mem.bad b) ∧
      r.mem.near = s.mem.near ∧ r.tiles = s.tiles))

/-- (1) What a port is left with when it goes Dark, trains again or goes Off: nothing held for re-send, sequences begin anew, no
partner; Dark probes with every gate closed, Off has its laser-enable land low. A port that was Up also loses what it held and
what waited. (2) Gates and training: a gate opens on returning light and a Dark port begins to train; a gate closes, and the port
retrains or goes Dark; closed gates probe every 100 ms; when every open pair is trained the port exchanges capabilities; a Dark
port without light starts again after 1 s; loss of light and a commanded retrain end the link. (3) Negotiation: in Exchange a
capability block is kept, the candidates are those of the two blocks, and the best is tested, or contrary FEC settings end it with
`0x6052`; 1 ms without one ends it with `0x6051`; a test ends when both results are in. (4) When a link is settled the port is Up,
or Held where its neighbour may not carry data; a neighbour that is not the one it must face is recorded. A link that comes up
Held advertises its slots as one that comes up does. The model's choices: log 52 (codes that no table lists), log 63 (control
states), log 84 (operands out of range). Rests on R317 to R321, R324, R336, R338. -/
def Obligations.PortsTrainAndSettle : Prop :=
  (∀ (s : State) (p : PortNo),
    let clean := fun (r : State) => (r.port p).held = [] ∧ (r.port p).next = 0 ∧ (r.port p).expect = 0 ∧ (r.port p).cap = none ∧
      (r.port p).slots = [] ∧ (r.port p).frame = [] ∧ (r.port p).since = s.chron ∧ r.reg (lpPartner p) = 0 ∧ r.tiles = s.tiles ∧ r.mem = s.mem ∧
      ∀ q, q ≠ p.val → r.port q = s.port q
    let laser := fun (r : State) => r.reg (lpLaser p)
    (s.portState p = 5 → ∀ r ∈ [s.goDark p, s.goOff p], r.portState p ≤ 1 ∧ (r.port p).held = [] ∧ (r.port p).waiting = [] ∧
      (r.port p).cap = none ∧ r.reg (lpPartner p) = 0) ∧
    (s.portState p ≠ 5 → (s.goDark p).portState p = 1 ∧ clean (s.goDark p) ∧
      laser (s.goDark p) = 0x1FFFF0000) ∧
    (s.portState p ≠ 5 → s.portState p ≠ 0 → (s.goOff p).portState p = 0 ∧ clean (s.goOff p) ∧ laser (s.goOff p) = 0) ∧
    (s.portState p ≠ 5 → s.gates p ≠ 0 → (s.retrain p).portState p = 7 ∧ clean (s.retrain p) ∧ laser (s.retrain p) = laser s)) ∧
  (∀ (s : State) (p : PortNo) (pair : Fin 16) (w : Wr) (v m : Word) (at200 at100 : BitVec 4), s.looping p = false →
    let last := FMap.get 0 (s.port p).probed pair
    let s1 := s.onPort p fun x => { x with passed := FMap.insert x.passed pair (at100 ++ at200) }
    (s.laserOn p = true → s.gateOpen p pair = false → ∃ r, exec (.lpGateOpen p pair) s = .next r ∧ r.gateOpen p pair = true ∧
      (∀ i, i < 16 → i ≠ pair.val → r.gateOpen p i = s.gateOpen p i) ∧ r.laserOn p = true ∧
      r.portState p = (if s.portState p = 1 then 2 else s.portState p) ∧ r.mem = s.mem ∧ r.tiles = s.tiles) ∧
    (s.gateOpen p pair = true → s.laserOn p = true → s.portState p ≠ 5 → (∃ i, i < 16 ∧ i ≠ pair.val ∧ s.gateOpen p i = true) →
      ∃ r, exec (.lpGateClose p pair) s = .next r ∧ r.gateOpen p pair = false ∧
      (∀ i, i < 16 → i ≠ pair.val → r.gateOpen p i = s.gateOpen p i) ∧ r.portState p = s.portState p) ∧
    (s.gateOpen p pair = true → s.laserOn p = true → s.portState p = 5 → (∃ i, i < 16 ∧ i ≠ pair.val ∧ s.gateOpen p i = true) →
      exec (.lpGateClose p pair) s = .next ((s.setGates p (s.gates p - 2 ^ pair.val) true).retrain p)) ∧
    (s.gates p = 2 ^ pair.val → exec (.lpGateClose p pair) s = .next ((s.setGates p 0 true).goDark p)) ∧
    (s.laserOn p = true → s.gateOpen p pair = false → (last = 0 ∨ 100000000 ≤ (s.chron - last).toNat) →
      exec (.lpGateProbe p pair) s = .next (s.onPort p fun x => { x with probed := FMap.put 0 x.probed pair s.chron })) ∧
    (s.gateOpen p pair = true → (s.portState p = 2 ∨ s.portState p = 7) → exec (.lpTrainingDone p pair at200 at100) s = .next
      (if s1.allTrained p = true then (s1.enterPort p 3).sendCapability p else s1.setField (lpStatus p) 0 4 2)) ∧
    (s.portState p = 1 → s.laserOn p = false → 1000000000 ≤ (s.chron - (s.port p).since).toNat → s.portWanted p = true →
      exec (.lpRestart p) s = .next ((s.enterPort p 1).setGates p 0 true)) ∧
    (1 < s.portState p → exec (.lpLossOfLight p) s = .next (s.goDark p)) ∧
    (s.accepts (lpReg 0x120 p) w v m → v.getLsbD 0 = true → s.portState p = 5 ∨ s.portState p = 6 →
      exec (.lpRetrain p w) s = .next (s.retrain p))) ∧
  (∀ (s : State) (p : PortNo) (cap : Capability) (counts : TestCounts), s.looping p = false →
    let s1 := (s.onPort p fun x => { x with cap := some cap }).setReg (lpPartner p) (capWord cap)
    let mine := (s.port p).mine.toNat % 4
    let clash := (mine = 1 ∧ cap.fec = 2) ∨ (mine = 2 ∧ cap.fec = 1)
    let counted := s.count (lpReg 0x128 p) counts.errored
    let s2 := if s.fecIsOn p = true then (counted.count (lpReg 0x138 p) counts.corrected).count (lpReg 0x140 p) counts.uncorr else counted
    (Instr.wf (.lpCapabilityBlock p cap) = true → capListed cap = true →
      (s.portState p = 3 → clash → exec (.lpCapabilityBlock p cap) s = .next (s1.negotiationFailed p 0x6052)) ∧
      (s.portState p = 3 → ¬ clash → (s1.port p).candidates = [] →
        exec (.lpCapabilityBlock p cap) s = .next ((s1.onPort p fun x => { x with cands := [] }).negotiationFailed p 0x6051)) ∧
      (∀ c cs, s.portState p = 3 → ¬ clash → (s1.port p).candidates = c :: cs → ∃ r, exec (.lpCapabilityBlock p cap) s = .next r ∧
        r.portState p = 4 ∧ (r.port p).cands = c :: cs ∧ (r.port p).tried = 0 ∧ (r.port p).own = none ∧ (r.port p).since = s.chron ∧
        ((r.reg (lpStatus p)).getLsbD 7 = true ↔ mine = 1 ∨ cap.fec = 1) ∧ (r.reg (lpStatus p)).getLsbD 6 = c.fast ∧
        r.reg (lpPartner p) = capWord cap) ∧
      (s.portState p = 5 ∨ s.portState p = 6 → exec (.lpCapabilityBlock p cap) s = .next (s1.settlePort p)) ∧
      (s.portState p < 3 ∨ s.portState p = 4 ∨ 6 < s.portState p → exec (.lpCapabilityBlock p cap) s = .next s)) ∧
    (Instr.wf (.lpCapabilityBlock p cap) = true → capListed cap = false → exec (.lpCapabilityBlock p cap) s = .next s) ∧
    (Instr.wf (.lpCapabilityBlock p cap) = false → exec (.lpCapabilityBlock p cap) s = .refused .illFormed) ∧
    (s.portState p = 3 → 1000000 ≤ (s.chron - (s.port p).since).toNat →
      exec (.lpExchangeTimeout p) s = .next (s.negotiationFailed p 0x6051)) ∧
    (s.portState p = 4 → (s.port p).own = none → 1000000 ≤ (s.chron - (s.port p).since).toNat → (s.port p).peer = none →
      exec (.lpTestDone p counts) s = .next ((s2.onPort p fun x => { x with own := some counts }).sendControl p (.result counts))) ∧
    (s.portState p = 4 → (s.port p).own = none → exec (.lpTestResult p counts) s =
      .next (s.onPort p fun x => { x with peer := some counts })) ∧
    (∀ a, s.portState p = 4 → (s.port p).own = some a → a.errored = 0 → a.uncorr = 0 → counts.errored = 0 → counts.uncorr = 0 →
      exec (.lpTestResult p counts) s = .next ((s.onPort p fun x => { x with peer := some counts }).settlePort p))) ∧
  (∀ (s : State) (p : PortNo),
    let may := s.torusOf p = none ∨ (s.hold = false ∧ topoValid s.topo = true ∧ s.facing p = true ∧
      ∃ c, (s.port p).cap = some c ∧ c.kind = 0)
    (may → s.portState p = 5 → s.settlePort p = s) ∧
    (may → (s.settlePort p).portState p = 5) ∧ (may → s.portState p ≠ 5 → (s.settlePort p).mem = s.mem ∧ (p = 6 → ((s.settlePort p).reg (mtBase + 0x010)).getLsbD 1 = true)) ∧
    (¬ may → (s.settlePort p).portState p = 6 ∧ (s.portState p ≠ 5 → (s.settlePort p).mem = s.mem ∧
      (s.mismatched p = true → bits ((s.settlePort p).reg (lpStatus p)) 48 16 = 0x6053))) ∧
    (¬ may → s.portState p ≠ 5 → s.portState p ≠ 6 → s.mismatched p = false →
      let up := s.setField (lpStatus p) 0 4 6
      s.settlePort p = up.sendControl p (.slots (up.ownSlots p))))

/-- (1) Blocks: a good block's acknowledgement releases what it covers and its credit is taken; a sequenced block in order is
accepted, and one that holds data gives its place in the buffer back; a damaged one is counted and asked for again, and so are the
four of a codeword that the light FEC does not correct; a re-send request or 2 µs without an acknowledgement sends the held blocks
again, and a block sent eight times makes the port retrain. (2) What leaves by a port: a bare block, or with the light FEC on the
codeword of four blocks once the fourth has come. (3) What a port sends next. A data block leaves by the rounds of the port's
slots: it is the first that waits on its channel, the channel has a credit, and its slot is the one whose turn it is and has not
had more than its weight; it takes the next sequence and is held. A fixed-share slot without one has an idle block. (4) The light
FEC: the codeword of four blocks is 1,184 bytes whose first 1,120 are the blocks, each of its four interleaves vanishes at the
sixteen roots of the generator, and it decodes, uncorrected, to those blocks. (5) Link states, job slots and route holds: newer
news of another package's link end is kept and passed on; an advertisement is kept, and takes effect in each slot as it empties; a
hold is released, outside a fix, when nothing sent before it is out. The model's choices: log 84 (operands out of range), log 101
(where check bytes lie), log 103 (control blocks). Rests on R312 to R315, R326, R329, R333 to R335. -/
def Obligations.BlocksAndLinkNews : Prop :=
  (∀ (s : State) (p : PortNo) (block : List Byte) (tr : List (Option Transit)) (seq : BitVec 24), s.carrying p = true →
    let h0 := BitVec.ofNat 64 (ofBytes (block.take 8))
    let h1 := BitVec.ofNat 64 (ofBytes ((block.drop 8).take 8))
    let good := crc64 (block.take 272) = BitVec.ofNat 64 (ofBytes (block.drop 272)) ∧ blockLegal h0 h1 = true
    let ack := BitVec.ofNat 24 (bits h0 0 24) - (if bits h0 60 4 = 3 then 1 else 0)
    let q := BitVec.ofNat 24 (bits h0 24 24)
    let again := fun (q : BitVec 24) (h : Held) => decide ((h.seq - q).toNat < 2 ^ 23)
    let once := fun (q : BitVec 24) (h : Held) => if again q h then { h with sends := h.sends + 1, since := s.chron } else h
    let leaves := fun (h : Held) => (⟨p, s.lanes p, (s.port p).blockBytes h.parcel.cargo.kind h.parcel.cargo.flitCount h.parcel.vc h.seq
      ((s.port p).expect - 1) h.parcel.cargo.bytes⟩ : SentBlock)
    let sent := fun (r : State) (q : BitVec 24) => (r.port p).held = (s.port p).held.map (once q) ∧
      (s.fecIsOn p = false → r.outside.blocks = s.outside.blocks ++ ((s.port p).held.filter (again q)).map leaves) ∧ r.mem = s.mem ∧ r.tiles = s.tiles ∧
      ∀ q, q ≠ p.val → r.port q = s.port q
    (block.length ≠ 280 → block.length ≠ 1184 → exec (.lpBlockReceive p block tr) s = .refused .illFormed) ∧
    (s.fecIsOn p = true → block.length = 1184 → decodeCodeword block = none → exec (.lpBlockReceive p block tr) s =
      .next (((s.count (lpReg 0x140 p) 1).count (lpReg 0x128 p) 4).askResend p)) ∧
    (∀ bs, s.fecIsOn p = true → block.length = 1184 → decodeCodeword block = some (bs, true) → (∀ b ∈ bs, crc64 (b.take 272) ≠
      BitVec.ofNat 64 (ofBytes (b.drop 272))) → ∃ r, exec (.lpBlockReceive p block tr) s = .next r ∧ (r.port p).resending = true ∧
      (r.port p).expect = (s.port p).expect ∧ r.mem = s.mem ∧ r.tiles = s.tiles) ∧
    (s.fecIsOn p = false → block.length = 280 → ¬ good → exec (.lpBlockReceive p block tr) s =
      .next ((s.count (lpReg 0x128 p) 1).askResend p)) ∧
    (s.fecIsOn p = false → block.length = 280 → good → ∃ r, exec (.lpBlockReceive p block tr) s = .next r ∧
      FMap.get 0 (r.port p).freed (bits h1 58 6) = BitVec.ofNat 16 (bits h1 32 16) ∧
      (bits h0 60 4 = 1 → q = (s.port p).expect → s.fixed = false → FMap.get 0 (r.port p).given (bits h0 54 6) =
        FMap.get 0 (s.port p).given (bits h0 54 6) + 1 ∧ (r.port p).lastGiven = bits h0 54 6) ∧
      (∀ h ∈ (r.port p).held, (∃ k ∈ (s.port p).held, k.seq = h.seq ∧ ¬ (ack - k.seq).toNat < 2 ^ 23) ∨ h.parcel ∈ (s.port p).waiting) ∧
      (∀ k ∈ (s.port p).held, ¬ (ack - k.seq).toNat < 2 ^ 23 → ∃ h ∈ (r.port p).held, h.seq = k.seq) ∧
      (r.port p).expect = (if (bits h0 60 4 = 1 ∨ bits h0 60 4 = 2) ∧ q = (s.port p).expect then q + 1 else (s.port p).expect) ∧
      r.mem = s.mem ∧ r.tiles = s.tiles) ∧
    ((∀ h ∈ (s.port p).held, again seq h = true) → (∀ h ∈ (s.port p).held, h.sends < 8) →
      ∃ r, exec (.lpResendRequest p seq) s = .next r ∧ sent r seq) ∧
    (∀ h hs, (s.port p).held = h :: hs → 2000 ≤ (s.chron - h.since).toNat →
      ((∀ k ∈ h :: hs, again h.seq k = true → k.sends < 8) → ∃ r, exec (.lpResendTimeout p) s = .next r ∧ sent r h.seq) ∧
      (8 ≤ h.sends → exec (.lpResendTimeout p) s = .next (s.retrain p)))) ∧
  (∀ (s : State) (p : PortNo) (block : List Byte),
    let r := s.emitBlock p block
    let four := (s.port p).frame ++ [block]
    (s.fecIsOn p = false → r = { s with outside := { s.outside with blocks := s.outside.blocks ++ [⟨p, s.lanes p, block⟩] } }) ∧
    (s.fecIsOn p = true → four.length < 4 → (r.port p).frame = four ∧ r.outside = s.outside ∧ r.mem = s.mem ∧ r.tiles = s.tiles) ∧
    (s.fecIsOn p = true → 4 ≤ four.length → (r.port p).frame = [] ∧
      r.outside.blocks = s.outside.blocks ++ [⟨p, s.lanes p, encodeCodeword four⟩] ∧ r.mem = s.mem ∧ r.tiles = s.tiles)) ∧
  (∀ (s r : State) (p fuel : Nat), (s.port p).turn < 8 → s.sendNext p fuel = some r →
    (r.port p).turn < 8 ∧ (r.port p).used ≤ s.slotWeight p (r.port p).turn ∧ r.mem = s.mem ∧ r.tiles = s.tiles ∧
    (∀ q, q ≠ p → r.port q = s.port q) ∧
    (r.outside = s.outside ∧ (r.port p).waiting = (s.port p).waiting ∧ FMap.get false (s.port p).fixed (r.port p).turn = true ∨
      ∃ c k, (s.port p).waiting[k]? = some c ∧ c.isData = true ∧ c.slot = (r.port p).turn ∧ (s.port p).hasCredit c.vc = true ∧
        (∀ i y, i < k → (s.port p).waiting[i]? = some y → y.isData = true → y.vc ≠ c.vc) ∧
        (r.port p).waiting = (s.port p).waiting.eraseIdx k ∧ (r.port p).held = (s.port p).held ++ [⟨(s.port p).next, c, 1, s.chron⟩] ∧
        (r.port p).next = (s.port p).next + 1 ∧ (s.fecIsOn p = false → r.outside.blocks.length = s.outside.blocks.length + 1) ∧
        FMap.get 0 (r.port p).sentOn c.vc.toNat = FMap.get 0 (s.port p).sentOn c.vc.toNat + 1)) ∧
  (∀ blocks : List (List Byte), blocks.length = 4 → (∀ b ∈ blocks, b.length = 280) →
    let word := encodeCodeword blocks
    word.length = 1184 ∧ word.take 1120 = blocks.flatten ∧
    (∀ k, k < 4 → ∀ j, j < 16 → gfEval (interleave word k) (gfAlpha j) = 0) ∧ decodeCodeword word = some (blocks, false)) ∧
  (∀ (s : State) (p : PortNo) (x : LinkState) (slots : List (Fin 8 × BitVec 20 × BitVec 16)) (t : Tile) (node : BitVec 12),
    let k := x.coord.toNat * 8 + x.port.toNat
    let fresh := ∀ y, FMap.find? s.light.links k = some y → x.epoch ≠ y.epoch ∧ (x.epoch - y.epoch).toNat < 2 ^ 31
    let links := FMap.insert (renode s.light.links x.coord.toNat x.node) k ⟨x.node, x.up, x.epoch⟩
    (s.carrying p = true → s.torusOf p ≠ none → (s.portState p = 5 ∨ s.portState p = 6) → x.coord.toNat ≠ s.coord → fresh →
      exec (.lpLinkState p x) s = .next (State.rerouted s (({ s with light := { s.light with links := links } }.mapChanged).flood p x))) ∧
    (s.carrying p = true → ¬ fresh → exec (.lpLinkState p x) s = .next s) ∧
    (s.carrying p = true → s.torusOf p ≠ none →
      exec (.lpSlotAdvertisement p slots) s =
        .next ((s.onPort p fun y => { y with offered := slots.foldl (fun m e => FMap.insert m e.1 e.2) [] }).settleSlots p)) ∧
    (node.toNat ∈ (s.tile t).fab.holds → (∀ q ∈ (s.tile t).fab.remotes, q.node = node.toNat → q.sent = none) → s.fixed = false →
      exec (.routeHoldRelease t node) s = .next (s.onFab t fun f => { f with holds := f.holds.filter (· ≠ node.toNat) })))

/-- Light registers: coordinates and node number only under HOLD (`0x2081`), a torus that fits the coordinates, job slots within
3,072 blocks (`0x2082`), SP's stand-in role (`0x2083`), the counters' clear, and the loopback test (`0x2084`), whose lanes pass in
EXT mode only where the gate is open and stayed open. The model's choices: log 84 (operands out of range), log 104 (a new role of
SP). Rests on R322, R323, R332, R340, R538 to R540. -/
def Obligations.LightRegisters : Prop :=
  ∀ (s : State) (p : PortNo) (n : Fin 8) (w : Wr) (v m : Word),
    let new := fun a => (s.reg a &&& ~~~ m) ||| (v &&& m)
    let at_ := fun o => lpBase + o
    let newCfg := fun q => (writeFields (s.reg (lpCfg q)) v m (lpCfgFields q)).1
    (s.accepts (at_ 0x008) w v m → (s.reg (at_ 0x020)).getLsbD 0 = false →
      exec (.lpCoordWrite w) s = .next (s.record lpBase 0x2081)) ∧
    (s.accepts (at_ 0x008) w v m → (s.reg (at_ 0x020)).getLsbD 0 = true → exec (.lpCoordWrite w) s =
      .next (State.rerouted s ((s.setReg (at_ 0x008) (BitVec.ofNat 64 (128 + bits (new (at_ 0x008)) 0 7))).mapChanged.refreshPorts))) ∧
    (s.accepts (at_ 0x010) w v m → (s.reg (at_ 0x020)).getLsbD 0 = false → exec (.lpNodeWrite w) s = .next (s.record lpBase 0x2081)) ∧
    (s.accepts (at_ 0x010) w v m → (s.reg (at_ 0x020)).getLsbD 0 = true → exec (.lpNodeWrite w) s =
      .next ((s.setReg (at_ 0x010) (BitVec.ofNat 64 (bits (new (at_ 0x010)) 0 12))).mapChanged)) ∧
    (s.accepts (at_ 0x018) w v m → (new (at_ 0x018)).getLsbD 63 = true → inRings (new (at_ 0x018)) s.coord = false →
      exec (.lpTopoWrite w) s = .next (s.record lpBase 0x2006)) ∧
    (s.accepts (at_ 0x018) w v m → (new (at_ 0x018)).getLsbD 63 = false ∨ inRings (new (at_ 0x018)) s.coord = true → exec (.lpTopoWrite w) s = .next (State.rerouted s
      ((s.setReg (at_ 0x018) (new (at_ 0x018) &&& 0x800000000000007F#64)).mapChanged.refreshPorts.settlePorts))) ∧
    (s.accepts (at_ 0x020) w v m → (∀ q, q < 8 → s.portState q ≠ 5 ∧ s.portState q ≠ 6) →
      exec (.lpCtrlWrite w) s = .next (s.setReg (at_ 0x020) (BitVec.ofNat 64 (b2n ((new (at_ 0x020)).getLsbD 0))))) ∧
    (s.accepts (at_ 0x020) w v m → (s.reg (at_ 0x020)).getLsbD 0 = false → (new (at_ 0x020)).getLsbD 0 = true →
      exec (.lpCtrlWrite w) s = .next (s.setReg (at_ 0x020) 1).settlePorts) ∧
    (s.accepts (jobvcReg p n) w v m → 6 ≤ p.val ∨ n = 0 → exec (.lpJobvcWrite p n w) s = .next s) ∧
    (s.accepts (jobvcReg p n) w v m → p.val < 6 → n ≠ 0 → ∀ s1, s1 = s.putFields (jobvcReg p n) v m jobvcFields →
      (3072 < s1.allotted p → exec (.lpJobvcWrite p n w) s = .next (s.record lpBase 0x2082)) ∧
      (s1.allotted p ≤ 3072 → exec (.lpJobvcWrite p n w) s = 
        .next (if (s1.settleSlots p).carrying p = true then (s1.settleSlots p).sendControl p (.slots ((s1.settleSlots p).ownSlots p))
          else s1.settleSlots p))) ∧
    (s.accepts (lpCfg p) w v m → p ≠ 7 → exec (.lpCfgWrite p w) s =
      .next (State.rerouted s ((s.putFields (lpCfg p) v m (lpCfgFields p)).refreshPort p))) ∧
    (s.accepts (lpCfg 7) w v m → bits (newCfg 7) 9 3 ≠ 2 ∨ (s.reg (lpCfg (bits (newCfg 7) 12 3))).getLsbD 8 = false →
      let set := fun s' : State => (s'.putFields (lpCfg 7) v m (lpCfgFields 7)).refreshPort 7
      let again := bits (newCfg 7) 9 6 ≠ bits (s.reg (lpCfg 7)) 9 6 ∧ s.carrying 7 = true
      (¬ again → exec (.lpCfgWrite 7 w) s = .next (State.rerouted s (set s))) ∧
      (again → exec (.lpCfgWrite 7 w) s = .next (State.rerouted s
        ((set (s.retrain 7)).onPort 7 fun x => { x with mine := BitVec.ofNat 5 (bits (newCfg 7) 0 5) })))) ∧
    (s.accepts (lpCfg 7) w v m → m = BitVec.allOnes 64 → bits v 9 3 = 2 → bits v 12 3 ≤ 5 →
      (s.reg (lpCfg (bits v 12 3))).getLsbD 8 = true → exec (.lpCfgWrite 7 w) s = .next (s.record lpBase 0x2083)) ∧
    (s.accepts (at_ 0x048) w v m → v.getLsbD 0 = true → ∃ r, exec (.lpCntClear w) s = .next r ∧
      r = { s with regs := r.regs, marks := r.marks } ∧
      r.reg (at_ 0x030) = 0 ∧ r.reg (at_ 0x038) = 0 ∧ ∀ i, i < 8 → r.reg (lpReg 0x128 p + 8 * i) = 0) ∧
    (s.accepts (lpLoopReg p) w v m → (v &&& m).getLsbD 63 = true → s.portState p ≠ 0 ∨ (s.reg (lpCfg p)).getLsbD 8 = true →
      exec (.lpLoop p w) s = .next (s.portStatus p 0x2084)) ∧
    (s.accepts (lpLoopReg p) w v m → m = BitVec.allOnes 64 → v.getLsbD 63 = true → bits v 61 2 = 1 ∨ bits v 61 2 = 2 → 10 ≤ bits v 32 16 →
      bits v 32 16 ≤ 60000 → s.portState p = 0 → (s.reg (lpCfg p)).getLsbD 8 = false → (p = 7 → bits (s.reg (lpCfg 7)) 9 3 = 0) →
      ∃ r, exec (.lpLoop p w) s = .next r ∧ r.looping p = true ∧ r.portState p = 4 ∧ (r.port p).since = s.chron ∧
        bits (r.reg (lpLoopReg p)) 61 2 = bits v 61 2 ∧ bits (r.reg (lpLoopReg p)) 32 16 = bits v 32 16 ∧ bits (r.reg (lpLoopReg p)) 0 24 = bits v 0 24 ∧
        r.gates p = 0 ∧ (r.port p).shut = [] ∧ (r.laserOn p = true ↔ bits v 61 2 = 1 ∧ 4 ≤ s.stage % 0x80)) ∧
    (∀ stayed errs, Instr.wf (.lpLoopDone p stayed errs) = true → s.looping p = true → s.portWanted p = false →
      bits (s.reg (lpLoopReg p)) 32 16 * 1000000 ≤ (s.chron - (s.port p).since).toNat → errs.sum < 2 ^ 48 →
      ∃ r, exec (.lpLoopDone p stayed errs) s = .next r ∧ r.looping p = false ∧ r.portState p = 0 ∧
        r.reg (lpReg 0x178 p) = BitVec.ofNat 64 (2 ^ 63 + errs.sum) ∧ ∀ k, k < 64 → ((r.reg (lpReg 0x170 p)).getLsbD k = true ↔
          (bits (s.reg (lpLoopReg p)) 61 2 = 2 ∨ (stayed.getLsbD (k / 4) = true ∧ s.gateOpen p (k / 4) = true ∧ k / 4 ∉ (s.port p).shut)) ∧ errs.getD k 0 ≤ bits (s.reg (lpLoopReg p)) 0 24)) ∧
    (∀ stayed errs, Instr.wf (.lpLoopDone p stayed errs) = false → exec (.lpLoopDone p stayed errs) s = .refused .illFormed)

/-- Sending: the first request that may leave, within the grant and the tile's 64, leaves in blocks that wait at the port of its
route, or ends with the status of its check or of its missing route. A response gives its grant and ends its request; one that
nothing waits for, or that comes after 10 ms, is counted; 10 ms without a response is `REMOTE_TIMEOUT` (`0x6022`). The model's
choices: log 84 (grants out of range), log 102 (channel classes). Rests on R342 to R345. -/
def Obligations.RemoteRequests : Prop :=
  ∀ (s : State) (t : Tile) (q : Remote), s.moving = true →
    let f := (s.tile t).fab
    let first := f.remotes.find? f.mayLeave = some q
    let job := s.jobOf q.ctx
    (∀ p d, first → s.senderCheck q.ctx q.node = none → s.exitOf q.node false = .ok (p, d) →
      ∃ r, exec (.remoteRequestSend t) s = .next r ∧
        (r.tile t).fab.remotes = f.remotes.map (fun x => if x.id = q.id then { x with sent := some s.chron } else x) ∧
        (r.port p).waiting = (s.port p).waiting ++ (blocksOf (s.requestBytes t q)).map (fun b =>
          ⟨channel (if q.kind = 6 then 3 else 1) (s.phaseOut p d none) ((s.port p).slotFor job), .flits b, .own t q.id⟩) ∧
        (blocksOf (s.requestBytes t q)).length = (64 + q.data.length + 255) / 256 ∧
        r.mem = s.mem ∧ (∀ n, n ≠ p → r.port n = s.port n) ∧ ∀ u, u ≠ t.val → r.tile u = s.tile u) ∧
    (f.remotes.find? f.mayLeave = none → exec (.remoteRequestSend t) s = .next s) ∧
    (∀ st, first → s.senderCheck q.ctx q.node = some st →
      exec (.remoteRequestSend t) s = .next ((s.senderRefused st).remoteEnd t q (.error st))) ∧
    (∀ st, first → s.senderCheck q.ctx q.node = none → s.exitOf q.node false = .error st → exec (.remoteRequestSend t) s =
      .next ((if st = 0x6020 then s.count (lpBase + 0x038) 1 else s).remoteEnd t q (.error st))) ∧
    (∀ (id : BitVec 32) st (g : BitVec 8) data, 1 ≤ g.toNat → g.toNat ≤ 64 →
      (f.remotes.find? (fun x => x.id = id && x.sent.isSome && ! s.expired x) = some q → exec (.remoteResponse t id st g data) s =
        .next ((s.onFab t fun y => { y with grants := FMap.insert y.grants q.node g }).remoteEnd t q
          (if st = 0 then .ok data else .error st))) ∧
      ((∀ x ∈ f.remotes, x.id = id → x.sent = none ∨ s.expired x = true) →
        exec (.remoteResponse t id st g data) s = .next (s.count (fbBase + 0x0A0) 1))) ∧
    (∀ (id : BitVec 32) st (g : BitVec 8) data, g = 0 ∨ 64 < g.toNat → exec (.remoteResponse t id st g data) s = .refused .illFormed) ∧
    (∀ x : Remote, s.expired x = true ↔ ∃ a, x.sent = some a ∧ 10000000 ≤ (s.chron - a).toNat) ∧
    (∀ a, f.remotes.find? (fun x => x.id = q.id) = some q → q.sent = some a → 10000000 ≤ (s.chron - a).toNat →
      exec (.remoteTimeout t q.id) s = .next ((s.count (fbBase + 0x0A0) 1).remoteEnd t q (.error 0x6022)))

/-- (1) A load or an atomic of another node sends one request with its own ID and waits for the answer; a store of another node
sends one and goes on. (2) What the end of a remote request does to what waits for it: a load or atomic writes its register and
its slot goes on, or takes the exception; a store's failure is an exception of the code that made it; what nothing waits for is
discarded. The model's choices: log 30 (a failure after the code has ended). Rests on R66, R85, R342, R357. -/
def Obligations.RemoteAccessesEnd : Prop :=
  (∀ (s : State) (t : Tile) (n : Nat),
    let u := s.turn t
    u.core t = some n → ∀ (rd ra rb : RegNo) (imm : BitVec 15) (h : Hazard) (s1 : State) (nd off : Nat),
    let z := (u.tile t).slot n
    let c := z.ctx.toNat
    let id := (s1.tile t).fab.nextId
    let a := z.rg ra + imm.signExtend 64
    (u.reachesNode c a 8 .read s1 nd off → ∃ r q, exec (.ld t rd ra imm h) s = .next r ∧
      (r.tile t).fab.remotes = (s1.tile t).fab.remotes ++ [q] ∧ q.id = id ∧ q.kind = 1 ∧ q.node = nd ∧ q.off = off ∧ q.len = 8 ∧
      ((r.tile t).slot n).stall = .remote id ∧ ((r.tile t).slot n).pc = ((s1.tile t).slot n).pc + 4 ∧
      (r.tile t).fab.nextId = id + 1 ∧ r.mem = s1.mem) ∧
    (u.reachesNode c a 8 .write s1 nd off → ∃ r q, exec (.sd t rd ra imm h) s = .next r ∧
      (r.tile t).fab.remotes = (s1.tile t).fab.remotes ++ [q] ∧ q.id = id ∧ q.kind = 2 ∧ q.node = nd ∧ q.off = off ∧
      q.data = bytesOf 8 (z.rg rd).toNat ∧ ((r.tile t).slot n).stall = ((s1.tile t).slot n).stall ∧ r.mem = s1.mem) ∧
    (u.reachesNode c (z.rg ra) 8 .atomic s1 nd off → ∃ r q, exec (.amoAdd t rd ra rb h) s = .next r ∧
      (r.tile t).fab.remotes = (s1.tile t).fab.remotes ++ [q] ∧ q.id = id ∧ q.kind = 4 ∧ q.op = 0 ∧ q.w3 = z.rg rb ∧
      ((r.tile t).slot n).stall = .remote id ∧ r.mem = s1.mem)) ∧
  (∀ (s : State) (t n : Nat) (q : Remote) (f : LoadForm) (rd : Nat) (pc : BitVec 48) (bs : List Byte) (st : Status),
    let z := (s.tile t).slot n
    let s0 := s.onFab t fun y => { y with remotes := y.remotes.filter fun x => x.id ≠ q.id }
    let s1 := s0.blame [⟨.node q.node q.off, q.len, none, 0, 0⟩]
    (q.owner = .load n f rd pc → z.stall = .remote q.id → z.ctx.toNat = q.ctx → ∃ r, s.remoteEnd t q (.ok bs) = r ∧
      (r.tile t).slot n = { f.put rd bs z with stall := .none } ∧ r.mem = s.mem ∧
      (∀ m, m ≠ n → (r.tile t).slot m = (s.tile t).slot m) ∧ ∀ x ∈ (r.tile t).fab.remotes, x.id ≠ q.id) ∧
    (q.owner = .load n f rd pc → z.stall = .remote q.id → z.ctx.toNat = q.ctx →
      s.remoteEnd t q (.error st) = s1.raise t n (scalarStatus st) pc) ∧
    (q.owner = .amo n rd pc → z.stall = .remote q.id → z.ctx.toNat = q.ctx → ∃ r, s.remoteEnd t q (.ok bs) = r ∧
      (r.tile t).slot n = { z.wg rd (BitVec.ofNat 64 (ofBytes bs)) with stall := .none } ∧ r.mem = s.mem ∧
      ∀ m, m ≠ n → (r.tile t).slot m = (s.tile t).slot m) ∧
    (∀ no, q.owner = .store n pc no → s.remoteEnd t q (.ok bs) = s0 ∧
      (z.ctx.toNat = q.ctx → z.stepno = no → z.code = true → s.remoteEnd t q (.error st) = s1.raise t n (scalarStatus st) pc)) ∧
    (∀ ord, q.owner = .contribution ord → s.remoteEnd t q (.ok bs) = s0) ∧
    (q.owner = .nobody → s.remoteEnd t q (.ok bs) = s0 ∧ s.remoteEnd t q (.error st) = s1))

/-- (1) Landing tables and reach maps: one command at a time (`0x4090`); a table that is unreadable or illegal is refused with
`LANDING_INVALID` (`0x2090`); a legal one replaces the old, no landing unit holds an entry of it any more, and the drain begins,
which ends when nothing checked under the old one is out. A count above 256 leaves its field as it is. (2) The landing unit looks
up the entry of a request, of those that it holds or in the table, and checks it: a request that passes goes to its target; one
that fails a check is counted under its cause, recorded when no denial is held, and answered with the check's status. (3) At its
target the request whose turn it is takes effect and its response leaves: reads answer with the bytes, writes store them, atomics
answer with the old value, signals add to the context's counter; a failure is answered with its status. A contribution lands with
the collective that takes it. (4) A response leaves in blocks of its own class by the route of its request's source, with a header
of 64 bytes; without a route it is dropped. A block for another package goes on by its route, in its class, or its request fails
back towards its source. The model's choices: log 75 (requests under an old table), log 102 (channel classes). Rests on R327,
R330, R343, R348 to R352, R361. -/
def Obligations.RequestsLand : Prop :=
  (∀ (s : State) (c : CtxId) (w : Wr) (v m : Word),
    let a := fbBase + 0x8000 + 8 * c.toNat
    let new := (writeFields (s.reg a) v m landFields).1
    let st := if (writeFields (s.reg a) v m landFields).2 then 0x2006 else 0
    let begun := fun (r : State) => r.reg a = new ∧ (r.reg (fbBase + 0x008)).getLsbD 0 = true ∧ r.light.job = some true ∧
      bits (r.reg (fbBase + 0x008)) 16 16 = st ∧ (∀ f ∈ r.light.forwards, f.ctx = c.toNat → f.old = true) ∧
      ∀ p, p < 8 → ∀ e ∈ (r.port p).entries, e.1 ≠ c.toNat
    (s.accepts a w v m → s.light.job.isSome = true → exec (.fbLandWrite c w) s = .next (s.record fbBase 0x4090)) ∧
    (m = BitVec.allOnes 64 → (256 < bits v 52 9 → bits new 52 9 = bits (s.reg a) 52 9 ∧ st = 0x2006) ∧
      (bits v 52 9 ≤ 256 → bits new 52 9 = bits v 52 9 ∧ st = 0) ∧ bits new 13 31 = bits v 13 31 ∧ bits new 61 3 = bits v 61 3) ∧
    (s.accepts a w v m → s.light.job = none → new.getLsbD 63 = false → ∃ r, exec (.fbLandWrite c w) s = .next r ∧ begun r ∧
      r.mem = s.mem) ∧
    (s.accepts a w v m → s.light.job = none → new.getLsbD 63 = true → ∀ s1 es,
      (s.readLanding (bits new 13 31 * 8192) (bits new 52 9) = (s1, none) → exec (.fbLandWrite c w) s = .next (s1.record fbBase 0x2090)) ∧
      (s.readLanding (bits new 13 31 * 8192) (bits new 52 9) = (s1, some es) → ∃ r, exec (.fbLandWrite c w) s = .next r ∧ begun r ∧
        r.mem = s1.mem)) ∧
    (s.light.job = some true → (∀ f ∈ s.light.forwards, f.old = false) → ∃ r, exec .landingDrainDone s = .next r ∧
      r.light.job = none ∧ (r.reg (fbBase + 0x008)).getLsbD 0 = false) ∧
    (s.accepts (fbBase + 0x018) w v m → s.light.job.isSome = true → exec (.fbReachInv w) s = .next (s.record fbBase 0x4090)) ∧
    (s.accepts (fbBase + 0x018) w v m → s.light.job = none → ∃ r, exec (.fbReachInv w) s = .next r ∧ r.light.job = some false ∧
      (r.reg (fbBase + 0x008)).getLsbD 0 = true ∧ bits (r.reg (fbBase + 0x008)) 16 16 = 0 ∧ r.mem = s.mem ∧ r.tiles = s.tiles) ∧
    (s.light.job = some false → (∀ f ∈ s.light.forwards, f.old = false) → ∃ r, exec .reachInvDone s = .next r ∧ r.light.job = none ∧
      (r.reg (fbBase + 0x008)).getLsbD 0 = false) ∧
    (s.light.job = some false → (∃ f ∈ s.light.forwards, f.old = true) → ∃ r, exec .reachInvDone s = .next r ∧
      r.light.job = some true ∧ (r.reg (fbBase + 0x008)).getLsbD 0 = true) ∧
    (s.accepts (fbBase + 0x030) w v m → v.getLsbD 0 = true → ∃ r, exec (.fbDenyClear w) s = .next r ∧
      r = { s with regs := r.regs, marks := r.marks } ∧
      r.reg (fbBase + 0x020) = 0 ∧ r.reg (fbBase + 0x028) = 0) ∧
    (s.accepts (fbBase + 0x0F8) w v m → v.getLsbD 0 = true → ∃ r, exec (.fbCntClear w) s = .next r ∧
      r = { s with regs := r.regs, marks := r.marks } ∧
      ∀ o ∈ [0x040, 0x048, 0x058, 0x060, 0x068, 0x070, 0x078, 0x080, 0x088, 0x090, 0x098, 0x0A0, 0x0A8, 0x0B0], r.reg (fbBase + o) = 0)) ∧
  (∀ (s : State) (p : PortNo) (q : FabricRequest), s.moving = true → s.landsOn p = true → FabricRequestListed q = true →
    Instr.wf (.landingCheck p q) = true →
    let s1 := (s.count (fbBase + 0x048) 1).lookUp p q
    (∀ c o, s1.landingCheck p q = .ok (c, o) → exec (.landingCheck p q) s = .next
      { s1 with
        light := { s1.light with
          forwards := s1.light.forwards ++ [⟨p, q, c, o, false⟩] } }) ∧
    (∀ k st, s1.landingCheck p q = .error (k, st) → exec (.landingCheck p q) s = .next ((s1.deny q k).respond q st [])) ∧
    (q.dst.toNat ≠ s.node → s1.landingCheck p q = .error (7, 0x6020)) ∧
    (q.dst.toNat = s.node → s.jobCtx q.job = none → s1.landingCheck p q = .error (1, 0x3021)) ∧
    (∀ c, q.dst.toNat = s.node → s.jobCtx q.job = some c → (s.reg (fbBase + 0x8000 + 8 * c)).getLsbD 63 = false →
      s1.landingCheck p q = .error (2, 0x3020)) ∧
    (∀ c, q.dst.toNat = s.node → s.jobCtx q.job = some c → (s.reg (fbBase + 0x8000 + 8 * c)).getLsbD 63 = true → q.kind ≠ 5 → q.kind ≠ 6 →
      s.landingEntry p c q = none → (∀ s2, (s.count (fbBase + 0x048) 1).tableEntry c q = (s2, none) →
      s1.landingCheck p q = .error (3, 0x3020))) ∧
    (∀ c e, q.dst.toNat = s.node → s.jobCtx q.job = some c → (s.reg (fbBase + 0x8000 + 8 * c)).getLsbD 63 = true → q.kind ≠ 5 → q.kind ≠ 6 →
      s.landingEntry p c q = some e ∨
        (s.landingEntry p c q = none ∧ ∃ s2, (s.count (fbBase + 0x048) 1).tableEntry c q = (s2, some e)) →
      let f := e.getD 3 0
      let may := (e.getD 0 0).getLsbD (if q.kind = 1 then 62 else if q.kind = 2 then 61 else 60)
      let open_ := f.getLsbD 63 = true ∨ (bits f 16 12 ≤ q.src.toNat ∧ q.src.toNat ≤ bits f 0 12)
      (may = false → s1.landingCheck p q = .error (4, 0x3020)) ∧ (may = true → ¬ open_ → s1.landingCheck p q = .error (5, 0x3020)) ∧
      (may = true → open_ → s1.landingCheck p q = .ok (c, landOperand e q)))) ∧
  (∀ (s : State) (i : Nat) (h : Hazard) (f : Forward), s.moving = true → s.light.forwards[i]? = some f →
    let q := f.req
    let turn := s.inOrder i f = true
    let answers := fun (s1 r : State) (st : Status) (bs : List Byte) =>
      r.light.answers = s1.light.answers ++ [⟨q.src, q.srcTile, q.id, q.job, q.offset, q.len, st, bits (s1.reg (fbBase + 0x000)) 0 6, bs⟩] ∧
      r.light.forwards = s1.light.forwards.eraseIdx i ∧ r.mem = s1.mem ∧ r.tiles = s1.tiles
    let signalTile := bits q.w3 0 10
    (¬ turn → exec (.requestLand i h) s = .next s) ∧
    (∀ s1 ps s2 bs, turn → q.kind = 1 → s.targetMeets f h .read = (s1, .ok ps) → s1.readParts f.ctx false ps = (s2, .ok bs) →
      ∃ r, exec (.requestLand i h) s = .next r ∧ answers s2 r 0 bs) ∧
    (∀ s1 ps s2, turn → q.kind = 2 → s.targetMeets f h .write = (s1, .ok ps) → s1.writeParts f.ctx .write ps q.data = (s2, .ok ()) →
      ∃ r, exec (.requestLand i h) s = .next r ∧ answers s2 r 0 []) ∧
    (∀ s1 ps s2 bs, turn → q.kind = 3 → s.targetMeets f h .atomic = (s1, .ok ps) → s1.atomicAt f.ctx ps 4 (fun old =>
        atomValue q.op.toNat old (q.w3.setWidth 32) (q.w4.setWidth 32)) = (s2, .ok bs) →
      ∃ r, exec (.requestLand i h) s = .next r ∧ answers s2 r 0 bs) ∧
    (∀ s1 ps s2 bs, turn → q.kind = 4 → s.targetMeets f h .atomic = (s1, .ok ps) → s1.atomicAt f.ctx ps 8 (fun old =>
        if q.op = 9 then amoValue 9 old q.w4 q.w3 else amoValue q.op.toNat old q.w3 0) = (s2, .ok bs) →
      ∃ r, exec (.requestLand i h) s = .next r ∧ answers s2 r 0 bs) ∧
    (∀ s2 st, turn → q.kind ≠ 6 → s.applyForward f h = (s2, .error st) → ∃ r, exec (.requestLand i h) s = .next r ∧ answers s2 r st [] ∧
      ((st = 0x3011 ∨ st = 0x3012 ∨ st = 0x3013 ∨ st = 0x3014 ∨ st = 0x2004) → tst (s2.reg (fbBase + 0x080)) 63 = false →
        bits (s2.reg (fbBase + 0x080)) 0 48 < 2 ^ 48 - 1 →
        bits (r.reg (fbBase + 0x080)) 0 48 = bits (s2.reg (fbBase + 0x080)) 0 48 + 1)) ∧
    (turn → q.kind = 5 → signalTile < 640 → s.faultedTile signalTile = false → s.setRoom signalTile f.ctx = true → ∃ r,
      exec (.requestLand i h) s = .next r ∧ answers ((s.allocSet signalTile f.ctx).addCounter signalTile f.ctx (bits q.w3 36 8)
        (bits q.w3 20 16)) r 0 [] ∧ r.mem = s.mem ∧ (r.tile signalTile).sp = (s.tile signalTile).sp ∧
      r.counter signalTile f.ctx (bits q.w3 36 8) =
        (s.allocSet signalTile f.ctx).counter signalTile f.ctx (bits q.w3 36 8) + BitVec.ofNat 32 (bits q.w3 20 16)) ∧
    (turn → q.kind = 5 → 640 ≤ signalTile → ∃ r, exec (.requestLand i h) s = .next r ∧ answers s r 0x2004 []) ∧
    (q.kind = 6 → exec (.requestLand i h) s = .next s)) ∧
  (∀ (s : State) (a : Answer),
    let s1 := { s with light := { s.light with answers := s.light.answers ++ [a] } }
    (∀ st, s.exitOf a.node.toNat false = .error st → s.sendAnswer a = s1) ∧
    (∀ p d, s.exitOf a.node.toNat false = .ok (p, d) → ∃ bytes, bytes.length = 64 + a.data.length ∧ bytes.drop 64 = a.data ∧
      ((s.sendAnswer a).port p).waiting = (s.port p).waiting ++ (blocksOf bytes).map (fun b =>
        ⟨channel 2 (s.phaseOut p d none) ((s.port p).slotFor a.job), .flits b, .nobody⟩) ∧
      (s.sendAnswer a).light.answers = s.light.answers ++ [a] ∧ (s.sendAnswer a).mem = s.mem ∧ (s.sendAnswer a).tiles = s.tiles ∧
      ∀ n, n ≠ p → (s.sendAnswer a).port n = s.port n) ∧
    (∀ p (vc : BitVec 6) bs (x : Transit), x.node.toNat ≠ s.node →
      (∀ st, s.exitOf x.node.toNat x.detoured = .error st → s.forwardBlock p vc bs x =
        (if vc.toNat / 16 = 2 then s else s.failBack x.src x.tile x.id x.job st)) ∧
      (∀ q d, s.exitOf x.node.toNat x.detoured = .ok (q, d) →
        ((s.forwardBlock p vc bs x).port q).waiting = (s.port q).waiting ++
          [⟨channel (vc.toNat / 16) (s.phaseOut q (x.detoured || d) (some (p, vc.getLsbD 3))) ((s.port q).slotFor x.job), .flits bs,
            if vc.toNat / 16 = 2 then .nobody else .other x.src x.tile x.id x.job⟩] ∧
        (s.forwardBlock p vc bs x).mem = s.mem ∧ (s.forwardBlock p vc bs x).tiles = s.tiles ∧
        ∀ n, n ≠ q → (s.forwardBlock p vc bs x).port n = s.port n)))

/-- (1) The management engine: every 2 µs, when the host interface has a read to spare, it reads its tail word and takes the next
record, which it finds in ring order; a record that is not valid ends at once with `0x2100`. (2) A record that ends writes its log
entry where the log has room, and lets it wait otherwise; the engine is free again. Rests on R370, R371, R375. -/
def Obligations.ManagementRing : Prop :=
  (∀ s : State, s.mgmtRuns = true →
    let due := ∀ a, FMap.find? s.mgmt.swept 512 = some a → s.intervalPast a 2 = true
    let s1 := ({ s with mgmt := { s.mgmt with swept := FMap.insert s.mgmt.swept 512 s.chron } }.drainEvents (eventDepth + 8)).count (hiBase + 0x100) 1
    let tail := s1.readPart 0xFFF false ⟨.host pf0Space (s.reg (hiBase + 0x030)).toNat, 8, none, 0, 0⟩
    (¬ due ∨ s.hostReadFree = false → exec .mgmtSweep s = .next s) ∧
    (∀ s2 st, due → s.hostReadFree = true → tail = (s2, .error st) → exec .mgmtSweep s = .next (s2.count (hiBase + 0x108) 1)) ∧
    (∀ s2 bs, due → s.hostReadFree = true → tail = (s2, .ok bs) → BitVec.ofNat 32 (ofBytes bs) = s2.mgmt.taken → exec .mgmtSweep s = .next s2) ∧
    (∀ s2 bs, due → s.hostReadFree = true → tail = (s2, .ok bs) → s2.mgmt.current.isSome = true ∨ s2.logRoom = false → exec .mgmtSweep s = .next s2) ∧
    (∀ s2 bs s3 rec, due → s.hostReadFree = true → tail = (s2, .ok bs) → BitVec.ofNat 32 (ofBytes bs) ≠ s2.mgmt.taken → s2.mgmt.current = none → s2.logRoom = true →
      s2.readPart 0xFFF false ⟨.host pf0Space ((s2.reg (hiBase + 0x020)).toNat +
        64 * (s2.mgmt.taken.toNat % 2 ^ bits (s2.reg (hiBase + 0x040)) 0 5)), 64, none, 0, 0⟩ = (s3, .ok rec) → s3.mgmt = s2.mgmt →
      let ws := wordsOf 8 rec
      let taken := { s3.setField (hiBase + 0x008) 0 1 1 with
        mgmt := { s2.mgmt with
          taken := s2.mgmt.taken + 1
          current := some (ws, s2.mgmt.taken.toNat) } }
      exec .mgmtSweep s = .next (if mgLegal ws = true then taken else taken.refuseRecord ws s2.mgmt.taken.toNat 0x2100))) ∧
  (∀ (s : State) (ws : List Word) (i c t k g : Nat) (st : Status), recorded st = false → s.mgmt.stopping = false →
    let e := [BitVec.ofNat 64 (mgOp ws * 2 ^ 56 + st.toNat * 2 ^ 32), BitVec.ofNat 64 (i % 2 ^ 32),
      BitVec.ofNat 64 (c + t * 2 ^ 12 + k * 2 ^ 22 + g * 2 ^ 28), 0, 0, 0, 0, 0]
    let r := s.endRecord ws i st c t k g
    r.mgmt.current = none ∧ (r.reg (hiBase + 0x008)).getLsbD 0 = false ∧ r.ctxs = s.ctxs ∧ r.tiles = s.tiles ∧
    (s.mgmt.events = [] → s.logRoom = true → r.mgmt.logged = s.mgmt.logged + 1 ∧ r.mgmt.events = []) ∧
    (s.mgmt.events ≠ [] ∨ s.logRoom = false → r.mgmt.logged = s.mgmt.logged ∧ r.mgmt.events = s.mgmt.events ++ [e] ∧ r.mem = s.mem))

/-- (1) CREATE, DESTROY, BIND and RESUME, each with its checks in order and the context's new state. (2) A destroyed context is
released when nothing of it is in progress: its ID is free, its home slot, its landing table and its partition entries are empty,
and its record's log entry is written. The model's choices: log 66 (when the status line is written). Rests on R22, R23, R28,
R253, R254, R372, R374, R393. -/
def Obligations.ContextLifecycle : Prop :=
  (∀ (s : State) (op : Nat) (ws : List Word) (i : Nat), s.record? op = some (ws, i) →
    let c := mgCtx ws
    let ends := fun (r : State) (st : Status) => r.refuseRecord ws i st
    (op = 0x10 → match s.creation (mgAddr ws) with
      | (s1, .error st) => exec .create s = .next (s1.endRecord ws i st 0 0 0 0)
      | (s1, .ok (n, x)) => exec .create s = .next (((s1.setCtx n (newCtx x)).statusLine n).endRecord ws i 0 n 0 0 0)) ∧
    (op = 0x11 → (s.ctx? c = none → exec .destroy s = .next (ends s 0x2104)) ∧
      (∀ x, s.ctx? c = some x → x.destroying = false → x.steps = [] →
        (∀ l ∈ s.mgmt.loads, l.ctx ≠ c) → (∀ t n, t < 640 → n < 16 → (s.treg t (0x100 + 8 * n)).getLsbD 28 = false) →
        exec .destroy s = .next ((s.onCtx c fun x => { x with destroying := true }).drainOld c))) ∧
    (op = 0x12 → (s.live? c = none → exec .bind s = .next (ends s 0x2104)) ∧
      (∀ x, s.live? c = some x → x.home.isSome = true → x.flights ≠ 0 → exec .bind s = .next (ends s 0x4062)) ∧
      (∀ x, s.live? c = some x → x.home = none → mgTile ws ≠ 0x3FF → s.partitionedFrom (mgTile ws) c = true →
        exec .bind s = .next (ends s 0x3061)) ∧
      (∀ x, s.live? c = some x → x.home = none → mgTile ws ≠ 0x3FF → s.partitionedFrom (mgTile ws) c = false →
        (∀ n, n < 16 → s.slotCtx (mgTile ws) n ≠ none) → exec .bind s = .next (ends s 0x4011)) ∧
      (∀ x n s1, s.live? c = some x → x.home = none → mgTile ws ≠ 0x3FF → s.partitionedFrom (mgTile ws) c = false →
        s.freeSlot (mgTile ws) = some n → x.st = .unbound →
        s1 = s.enterSlot (mgTile ws) n c { Slot.empty with ctx := BitVec.ofNat 12 c, job := x.cr.job } [0, 0, 0, 0] →
        exec .bind s = .next ((s1.startSweeping c).endRecord ws i 0 c (mgTile ws) 0 0) ∧
        s1.slotCtx (mgTile ws) n = some c ∧ s1.ctx? c = some { x with home := some (mgTile ws, n) } ∧ s1.mem = s.mem)) ∧
    (op = 0x13 → (s.live? c = none → exec .resume s = .next (ends s 0x2104)) ∧
      (∀ x, s.live? c = some x → x.st ≠ .faulted → exec .resume s = .next (ends s 0x2105)) ∧
      (∀ x, s.live? c = some x → x.st = .faulted → x.home.isSome = true → exec .resume s = .next
        (((s.onCtx c fun x => { x with ring := { x.ring with fails := 0, hold := false } }).startSweeping c).endRecord ws i 0 c 0 0 0)) ∧
      (∀ x, s.live? c = some x → x.st = .faulted → x.home = none → exec .resume s = .next (((s.onCtx c fun x => { x with
        st := .unbound
        faultStatus := 0
        ring := { x.ring with fails := 0, hold := false } }).statusLine c).endRecord ws i 0 c 0 0 0)))) ∧
  (∀ (s : State) (c : CtxId) (x : Ctx), s.ctx? c.toNat = some x → x.destroying = true →
    s.destroyBusy c.toNat x = false → s.safety.safe = false → s.fixed = false →
    let r := s.release c.toNat x
    (s.mgmt.current = none → exec (.destroyDone c) s = .next r) ∧
    (∀ ws i, s.mgmt.current = some (ws, i) → mgOp ws = 0x11 → mgCtx ws = c.toNat →
      exec (.destroyDone c) s = .next (r.endRecord ws i 0 c.toNat 0 0 0)) ∧
    r.ctx? c.toNat = none ∧ (∀ d, d ≠ c.toNat → r.ctx? d = s.ctx? d) ∧ r.reg (fbBase + 0x8000 + 8 * c.toNat) = 0 ∧
    (∀ p, p < 8 → ∀ e ∈ (r.port p).entries, e.1 ≠ c.toNat) ∧ r.mem = s.mem ∧ r.mgmt = s.mgmt ∧
    ∀ i, i < 8 → ¬ ((r.reg (scBase + 0x380 + 8 * i)).getLsbD 63 = true ∧ bits (r.reg (scBase + 0x380 + 8 * i)) 0 12 = c.toNat))

/-- Weight charts: at most four loads (`0x4110`) and three live generations (`0x4112`) each; a load ends Ready or Failed with its
event; only a Ready generation is activated or discarded (`0x2115`), and the Current one before it retires. Rests on R381, R383 to
R385. -/
def Obligations.WeightCharts : Prop :=
  ∀ (s : State) (ws : List Word) (i : Nat) (c : CtxId) (chart : Fin 64) (x : Ctx) (l : Load),
    let k := mgChart ws
    let g := mgGen ws
    let n := nextGen 65536 (FMap.get Chart.empty x.charts k).last ((x.liveGens k).map (·.num))
    let added := { s.addGen (mgCtx ws) k n with
      mgmt := { s.mgmt with
        loads := s.mgmt.loads ++ [Load.mk (mgCtx ws) k n (mgAddr ws) (mgBase ws) []] } }
    (s.record? 0x20 = some (ws, i) → 4 ≤ s.mgmt.loads.length → exec .chartLoad s = .next (s.refuseRecord ws i 0x4110)) ∧
    (s.record? 0x20 = some (ws, i) → s.mgmt.loads.length < 4 → s.live? (mgCtx ws) = some x → 3 ≤ (x.liveGens k).length →
      exec .chartLoad s = .next (s.refuseRecord ws i 0x4112)) ∧
    (s.record? 0x20 = some (ws, i) → s.mgmt.loads.length < 4 → s.live? (mgCtx ws) = some x → (x.liveGens k).length < 3 → s.hostReadFree = true →
      exec .chartLoad s = .next ((added.setField (hiBase + 0x058) 0 3 (s.mgmt.loads.length + 1)).endRecord ws i 0 (mgCtx ws) 0 k n)) ∧
    (s.mgmt.loads.find? (fun y => y.ctx = c.toNat && y.chart = chart.val) = some l → s.ctx? c.toNat = some x → s.safety.safe = false →
      s.fixed = false → match s.runLoad l x.cr.root with
        | (s1, .ok (slot, d)) => exec (.loadDone c chart) s = .next (s1.endLoad l 0 slot d)
        | (s1, .error st) => exec (.loadDone c chart) s = .next (s1.endLoad l st 0 [])) ∧
    (∀ op cmd, (op = 0x21 ∧ cmd = Instr.chartActivate) ∨ (op = 0x22 ∧ cmd = Instr.chartDiscard) → s.record? op = some (ws, i) →
      (s.live? (mgCtx ws) = none → exec cmd s = .next (s.refuseRecord ws i 0x2104)) ∧
      (s.live? (mgCtx ws) = some x → (∀ y, x.gen? k g = some y → y.st ≠ .ready) → exec cmd s = .next (s.refuseRecord ws i 0x2115))) ∧
    (∀ y, s.record? 0x21 = some (ws, i) → s.live? (mgCtx ws) = some x → x.gen? k g = some y → y.st = .ready → x.current? k = none →
      exec .chartActivate s = .next ((s.onGen (mgCtx ws) k g fun y => { y with st := .current }).endRecord ws i 0 (mgCtx ws) 0 k g)) ∧
    (∀ y m, s.record? 0x21 = some (ws, i) → s.live? (mgCtx ws) = some x → x.gen? k g = some y → y.st = .ready → x.current? k = some m →
      exec .chartActivate s = .next ((((s.onGen (mgCtx ws) k g fun y => { y with st := .current }).onGen (mgCtx ws) k m
        fun y => { y with st := .retiring }).endRecord ws i 0 (mgCtx ws) 0 k g).settleGen (mgCtx ws) k m)) ∧
    (∀ y, s.record? 0x22 = some (ws, i) → s.live? (mgCtx ws) = some x → x.gen? k g = some y → y.st = .ready → exec .chartDiscard s = .next
      (((s.onGen (mgCtx ws) k g fun y => { y with st := .retiring }).endRecord ws i 0 (mgCtx ws) 0 k g).settleGen (mgCtx ws) k g))

/-- (1) A completion with an error ends what asked for it with `HOST_READ_FAILED` (`0x6100`), or counts a failed sweep; a tile
that a fix has stopped learns it when the fix ends. (2) The link goes down and comes up: nothing in flight survives, SAFE_MIN
begins when the package waited for the link, and what the safety latch holds is recorded. (3) A function-level reset destroys the
contexts that the function owns and turns its ATS off, and it is enabled no more; that of PF0 stops the management engine, after
the record in progress; a hot reset takes the link down first, with which the record in progress ends. The model's choices: log 82
(host writes while the link is down), log 84 (link modes that the part has not). Rests on R363, R364, R452, R485. -/
def Obligations.HostLinkAndFunctions : Prop :=
  (∀ (s : State), s.linkUp = true → s.safety.safe = false →
    let failed := s.count (hiBase + 0x118) 1
    let err := fun (x : HostAccess) => exec (.hostCompletionError x) s
    (∀ line : Fin 512, s.sweeps = true → s.lineDue line = true → s.lineFirst line = true → ∃ r, err (.tailLine line) = .next r ∧
      FMap.find? r.mgmt.swept line = some s.chron ∧ r.ctxs = s.ctxs ∧ r.mem = s.mem ∧ r.tiles = s.tiles) ∧
    (s.mgmtRuns = true → ∃ r, err .mgmtRead = .next r ∧ FMap.find? r.mgmt.swept 512 = some s.chron ∧ r.mgmt.taken = s.mgmt.taken ∧
      r.mem = s.mem ∧ r.tiles = s.tiles) ∧
    (∀ (c : CtxId) y n, s.ctx? c.toNat = some y → y.ring.fetching = some n → y.ring.fails + 1 < 8 → ∃ r, err (.fetch c) = .next r ∧
      r.ctx? c.toNat = some { y with ring := { y.ring with fetching := none, fails := y.ring.fails + 1, hold := true } } ∧
      r.mem = s.mem ∧ r.tiles = s.tiles) ∧
    (∀ (c : CtxId) (k : Fin 64) n l, s.mgmt.loads.find? (fun l => l.ctx = c.toNat && l.chart = k.val && l.num = n) = some l →
      err (.load c k n) = .next (failed.endLoad l 0x6100 0 [])) ∧
    (∀ (t : Tile) (e : EngineNo) i x q, (((s.tile t).work.issuedReqs e).filter fun p => p.2.host)[i]? = some (x, q) →
      (s.fixed = false → s.req? t x.ord q.seq = some (x, q) → err (.piece t e i) = .next (failed.endReq t x q (.error 0x6100))) ∧
      (s.fixed = true → err (.piece t e i) = .next { failed with dbg := { failed.dbg with
        deferred := failed.dbg.deferred ++ [.request t x.ord q.seq] } })) ∧
    (∀ (t : Tile) (n : Fin 16), ((s.tile t).slot n).fencing = true →
      (s.fixed = false → err (.scalar t n) = .next (failed.raise t n 0x6100 ((s.tile t).slot n).pc)) ∧
      (s.fixed = true → err (.scalar t n) = .next { failed with dbg := { failed.dbg with
        deferred := failed.dbg.deferred ++ [.fence t n] } })) ∧
    (∀ a, s.sec.cmd = some (.verify a) → err .firmware = .next ((failed.secEnd 0x6100).count (scBase + 0x3C0) 1)) ∧
    (∀ n, s.sec.cmd = some (.key n true) → err .key = .next (failed.secEnd 0x6100)) ∧
    (∀ c, s.tables.cmd = some c → s.ftReads c = true → err .table = .next ((failed.ftFail 0x6030 none).log
      (packageFault 0x6030 10 c.slot (s.reg (bnBase + 0xC00)).toNat))) ∧
    exec .hostPoisonedWrite s = .next { s with outside := { s.outside with aer := s.outside.aer + 1 } }) ∧
  (∀ (s : State) (rate : BitVec 4) (width : BitVec 6) (flit : Bool) (w : Wr) (v m : Word),
    let trained := BitVec.ofNat 64 (2 ^ 11 + b2n (flit || decide (6 ≤ rate.toNat)) * 2 ^ 10 + width.toNat * 2 ^ 4 + rate.toNat)
    (s.linkUp = false → exec .hostLinkDown s = .next s) ∧
    (s.linkUp = true → s.fixed = false → (∀ p ∈ s.tiles, (∀ e, p.2.work.issuedReqs e = []) ∧ ∀ n, ((p.2).slot n).stall = .none) →
      (∀ p ∈ s.ctxs, p.2.ring.fetching = none) → s.mgmt.loads = [] → (∀ c, s.tables.cmd = some c → c.fetching = false) →
      (s.sec.cmd = none → exec .hostLinkDown s = .next (s.setField hiBase 11 1 0)) ∧
      (s.sec.cmd = some .cert → exec .hostLinkDown s = .next ((s.setField hiBase 11 1 0).secEnd 0x6101))) ∧
    (linkMode rate width = false → exec (.pcieLinkUp rate width flit) s = .refused .illFormed) ∧
    (linkMode rate width = true → s.linkUp = false → s.safety.safe = false → s.normal = true →
      (s.stage ≠ 0 → s.stage ≠ 0x81 → exec (.pcieLinkUp rate width flit) s = .next (s.setReg hiBase trained)) ∧
      (s.stage = 0 ∨ s.stage = 0x81 → ∃ r, exec (.pcieLinkUp rate width flit) s = .next r ∧ r.stage = 1 ∧ r.linkUp = true ∧
        r.reg hiBase = trained ∧ r.safety.preq = true ∧ r.safety.latch = false ∧ r.reg (bnBase + 0x088) = s.chron ∧
        r.start.since = s.chron ∧ (s.safety.latch = true → bits (r.reg (bnBase + 0x208)) 16 16 = 0xF002) ∧ r.mem = s.mem)) ∧
    (s.stage = 0x81 → s.safety.safe = false → s.normal = true → 100000000 ≤ (s.chron - s.start.since).toNat →
      exec .linkRetrainTimer s = .next { s with start := { s.start with since := s.chron } }) ∧
    (s.accepts (hiBase + 0x1F8) w v m → v.getLsbD 0 = true → ∃ r, exec (.hiCntClear w) s = .next r ∧
      r = { s with regs := r.regs, marks := r.marks } ∧
      ∀ i, i < 7 → r.reg (hiBase + 0x100 + 8 * i) = 0)) ∧
  (∀ (s : State) (fn : BitVec 8), s.safety.safe = false → s.normal = true →
    let owned := (s.ctxs.filter fun p => p.2.cr.fn.toNat = fn.toNat).map (·.1)
    let r := owned.foldl State.beginDestroy s
    let off := { s with outside := { s.outside with enabled := s.outside.enabled.filter (· ≠ pf0) } }
    exec (.flrFunction fn) s = .next { r with outside := { r.outside with
      ats := r.outside.ats.filter (· ≠ fn.toNat)
      enabled := r.outside.enabled.filter (· ≠ fn.toNat) } } ∧
    (s.mgmt.current = none → exec .flrPf0 s = .next (off.setField (hiBase + 0x040) 16 1 0)) ∧
    (s.mgmt.current.isSome = true → exec .flrPf0 s = .next { off with mgmt := { s.mgmt with stopping := true } }) ∧
    (s.linkUp = false → s.ctxs = [] → ∃ h, exec .hotReset s = .next h ∧
      (h.reg (hiBase + 0x040)).getLsbD 16 = false ∧ h.outside.ats.filter (· < 256) = [] ∧ (∀ n, n < 256 ∨ n = pf0 → n ∉ h.outside.enabled) ∧
      h.mgmt.current = none ∧ (h.ctxs = []) ∧ h.mem = s.mem ∧ h.tiles = s.tiles))

/-- (1) Security commands: one at a time (`0x4120`); each begins busy with the host address its register holds, and ends with its
checks' status. (2) The ends of the security commands: verification (and after SAFE_MIN the version, the digest and the MEMORY
stage), the fuse write of every Binnacle that runs, the certificate, the signed report, and a key slot's record. (3) A partition
entry names a live context (`0x2104`) that no other valid entry names (`0x2124`). The model's choices: log 112 (which address a
command uses). Rests on R403, R406 to R411, R415, R417. -/
def Obligations.Security : Prop :=
  (∀ (s : State) (w : Wr) (v m : Word),
    let at_ := fun o => scBase + o
    let busy := fun (r : State) (addr : Nat) (k : SecCmd) => .next { r.setField (at_ 0x000) 0 1 1 with sec := { r.sec with cmd := some k, addr := addr } }
    let told := fun (r : State) (o : Nat) => (r.reg (at_ o)).toNat
    let n := bits v 4 4
    (s.sec.cmd.isSome = true → ∀ p ∈ [(0x018, Instr.fwVerify w), (0x028, .scSvnAdvance w), (0x108, .scCertCmd w), (0x208, .scAttCmd w)],
      s.accepts (at_ p.1) w v m → exec p.2 s = .next (s.record scBase 0x4120)) ∧
    (s.sec.cmd = none →
      (s.accepts (at_ 0x018) w v m → v.getLsbD 0 = true → exec (.fwVerify w) s = busy s (told s 0x010) (.verify s.chron)) ∧
      (s.accepts (at_ 0x028) w v m → s.fusedOf s.activeB < bits v 0 7 → bits v 0 7 ≤ s.sec.running →
        exec (.scSvnAdvance w) s = busy s 0 (.svn (bits v 0 7))) ∧
      (s.accepts (at_ 0x028) w v m → bits v 0 7 ≤ s.fusedOf s.activeB ∨ s.sec.running < bits v 0 7 →
        exec (.scSvnAdvance w) s = .next (s.record scBase 0x2123)) ∧
      (s.accepts (at_ 0x108) w v m → v.getLsbD 0 = true → exec (.scCertCmd w) s = busy s (told s 0x100) .cert) ∧
      (s.accepts (at_ 0x208) w v m → v.getLsbD 12 = true → s.live? (bits v 0 12) = none →
        exec (.scAttCmd w) s = .next (s.record scBase 0x2104)) ∧
      (∀ s1 nonce, s.accepts (at_ 0x208) w v m → v.getLsbD 12 = false ∨ s.live? (bits v 0 12) ≠ none →
        s.readPart 0xFFF false ⟨.host pf0Space (told s 0x200 + 0x20), 64, none, 0, 0⟩ = (s1, .ok nonce) →
        exec (.scAttCmd w) s = busy s1 (told s1 0x200) (.attest (s1.report (v.getLsbD 12) (bits v 0 12) (bits v 15 6) nonce))) ∧
      (s.accepts (at_ 0x308) w v m → (s.reg (at_ 0x008)).getLsbD 0 = false →
        (bits v 0 2 = 1 → FMap.find? s.sec.keys n = none → exec (.install w) s = busy s (told s 0x300) (.key n true)) ∧
        (bits v 0 2 = 1 → (FMap.find? s.sec.keys n).isSome = true → exec (.install w) s = .next (s.record scBase 0x2122)) ∧
        (bits v 0 2 = 2 → exec (.remove w) s = busy s 0 (.key n false)))) ∧
    (s.accepts (at_ 0x308) w v m → s.sec.cmd = none → (s.reg (at_ 0x008)).getLsbD 0 = true → bits v 0 2 = 1 ∨ bits v 0 2 = 2 →
      exec (if bits v 0 2 = 1 then .install w else .remove w) s = .next (s.record scBase 0x3120)) ∧
    (s.accepts (at_ 0x008) w v m → v.getLsbD 0 = true → exec (.keylock w) s = .next (s.setReg (at_ 0x008) 1)) ∧
    (s.accepts (at_ 0x008) w v m → v.getLsbD 0 = false → exec (.keylock w) s = .next s)) ∧
  (∀ (s : State) (a : Word) (n : Nat),
    let ended := fun (r : State) => r.sec.cmd = none ∧ (r.reg scBase).getLsbD 0 = false
    (s.sec.cmd = some (.verify a) → match s.fwChecks with
      | (s1, .ok (svn, d)) => (s1.stage ≠ 1 → exec .firmwareAccept s = .next (s1.secEnd 0)) ∧
        (s1.stage = 1 → ∃ r, exec .firmwareAccept s = .next r ∧ ended r ∧ r.sec.running = svn ∧
          r.reg (scBase + 0x020) = BitVec.ofNat 64 (s1.fusedOf s1.activeB * 2 ^ 8 + svn) ∧
          (∀ i, i < 8 → r.reg (scBase + 0x040 + 8 * i) = (wordsOf 8 d).getD i 0) ∧ r.stage = 2 ∧ r.mem = s1.mem)
      | (s1, .error st) => exec .firmwareAccept s = .next ((s1.secEnd st).count (scBase + 0x3C0) 1)) ∧
    (s.sec.cmd = some (.svn n) → s.start.boot ≠ .warmWait → ∃ r, exec .svnAdvanceDone s = .next r ∧ ended r ∧
      r.sec.fused = (if s.runsB false = true then max s.sec.fused n else s.sec.fused) ∧
      r.sec.fusedB = (if s.runsB true = true then max s.sec.fusedB n else s.sec.fusedB) ∧
      r.reg (scBase + 0x020) = BitVec.ofNat 64 (r.fusedOf s.activeB * 2 ^ 8 + s.sec.running) ∧ r.mem = s.mem) ∧
    (s.sec.cmd = some .cert → s.linkUp = true → ∃ r, exec .certCopyDone s = .next r ∧ ended r ∧
      r.mem = (s.hostWrite pf0Space s.sec.addr (Config.certificate.take 4096)).mem ∧ r.tiles = s.tiles) ∧
    (∀ bs, s.sec.cmd = some (.attest bs) → s.linkUp = true → ∃ r, exec .attestationDone s = .next r ∧ ended r ∧
      r.mem = (s.drawSalt.2.hostWrite pf0Space s.sec.addr (bs ++ rsaSign bs s.drawSalt.1)).mem ∧ r.tiles = s.tiles) ∧
    (s.sec.cmd = some (.key n true) → n < 16 → ∀ s1 bs,
      s.readPart 0xFFF false ⟨.host pf0Space s.sec.addr, 1024, none, 0, 0⟩ = (s1, .ok bs) →
      (keyFormat bs = false → exec .keyCommandDone s = .next (s1.secEnd 0x2121)) ∧
      (keyFormat bs = true → ∃ r, exec .keyCommandDone s = .next r ∧ ended r ∧ FMap.find? r.sec.keys n = some (field bs 0x200 512) ∧
        (r.reg (scBase + 0x310)).getLsbD n = true ∧
        (∀ i, i < 8 → r.reg (scBase + 0x400 + 0x40 * n + 8 * i) = (wordsOf 8 (sha512 (field bs 0x200 512 ++ field bs 0 4))).getD i 0) ∧
        r.mem = s1.mem ∧ ∀ l ∈ r.mgmt.loads, ∃ k ∈ s1.mgmt.loads,
          l = k ∨ l = { k with keys := FMap.insert k.keys n (FMap.find? s1.sec.keys n) })) ∧
    (s.sec.cmd = some (.key n false) → n < 16 → ∃ r, exec .keyCommandDone s = .next r ∧ ended r ∧ FMap.find? r.sec.keys n = none ∧
      (r.reg (scBase + 0x310)).getLsbD n = false ∧ (∀ i, i < 8 → r.reg (scBase + 0x400 + 0x40 * n + 8 * i) = 0) ∧ r.mem = s.mem)) ∧
  (∀ (s : State) (n : Fin 8) (w : Wr) (v m : Word),
    let a := scBase + 0x380 + 8 * n.val
    let new := (s.reg a &&& ~~~ m) ||| (v &&& m)
    let c := bits new 0 12
    let twin := ∃ i, i < 8 ∧ i ≠ n.val ∧ (s.reg (scBase + 0x380 + 8 * i)).getLsbD 63 = true ∧ bits (s.reg (scBase + 0x380 + 8 * i)) 0 12 = c
    s.accepts a w v m →
    (new.getLsbD 63 = false → exec (.scPartWrite n w) s = .next (s.setReg a (BitVec.ofNat 64 c)).settleAllSlots) ∧
    (new.getLsbD 63 = true → s.live? c = none → exec (.scPartWrite n w) s = .next (s.record scBase 0x2104)) ∧
    (new.getLsbD 63 = true → s.live? c ≠ none → twin → exec (.scPartWrite n w) s = .next (s.record scBase 0x2124)) ∧
    (new.getLsbD 63 = true → s.live? c ≠ none → ¬ twin → exec (.scPartWrite n w) s = .next (s.setReg a (BitVec.ofNat 64 (2 ^ 63 + c))).settleAllSlots))

/-- (1) Power states: one transition at a time (`0x4130`), STOW only with nothing in progress; Stowed is reached, and Running
again, when the transition ends; OFF writes the caches back and drops the power request. (2) Measurement: a rail that answers
shows its voltage and power, the third miss in a row loses it (`0x9005`); a regulator's fault enters the safe state; a droop
halves a die's clocks, and ends after 256 of their cycles without another. The model's choices: log 77 (what a transition waits
for), log 84 (rails that the part has not). Rests on R420 to R422, R430, R439, R440. -/
def Obligations.PowerStates : Prop :=
  (∀ (s : State) (w : Wr) (v m : Word),
    let dark := ∀ p, p < 8 → s.portState p ≠ 5
    let ok := s.accepts (pwBase + 0x008) w v m
    let ph := s.power.phase
    let rec_ := fun (st : Status) => .next (s.record pwBase st)
    let row := fun (n : Nat) => if n = 1 then exec (.run w) s else if n = 2 then exec (.stow w) s else exec (.off w) s
    (ok → ∀ n ∈ [1, 2, 3], bits v 0 2 = n → ph = 4 ∨ ph = 5 → row n = rec_ 0x4130) ∧
    (ok → bits v 0 2 = 2 → ph = 2 → row 2 = .next ((s.showPower 2).record pwBase 0)) ∧
    (ok → bits v 0 2 = 2 → ph = 1 → s.stowBusy = true → row 2 = rec_ 0x4130) ∧
    (ok → bits v 0 2 = 2 → ph = 1 → s.stowBusy = false → dark → ∃ r, row 2 = .next r ∧ r.power.phase = 4 ∧ r.mem = s.mem ∧
      bits (r.reg pwBase) 4 4 = 2 ∧ (r.reg (pwBase + 0x010)).getLsbD 0 = true ∧ ∀ t, t < 640 → (r.treg t 0x008).getLsbD 0 = true) ∧
    (ok → bits v 0 2 = 1 → ph = 1 → row 1 = rec_ 0) ∧
    (ok → bits v 0 2 = 1 → ph = 2 → s.power.trimmed = false → ∃ r, row 1 = .next r ∧ r.power.phase = 5 ∧ r.mem = s.mem ∧
      bits (r.reg pwBase) 4 4 = 1 ∧ (r.reg (pwBase + 0x010)).getLsbD 0 = true ∧ r.tiles = s.tiles) ∧
    (ok → bits v 0 2 = 3 → ph = 1 ∨ ph = 2 → s.stowBusy = true → row 3 = rec_ 0x4130) ∧
    (ok → bits v 0 2 = 3 → ph = 1 ∨ ph = 2 → s.stowBusy = false → ∃ r, row 3 = .next r ∧ r.start.boot = .off ∧ r.safety.preq = false ∧
      r.pending = s.pending) ∧
    (s.sextant = true → ph = 4 → ∃ r, exec .powerTransitionDone s = .next r ∧ r.power.phase = 2 ∧ bits (r.reg pwBase) 4 4 = 2 ∧
      (r.reg (pwBase + 0x010)).getLsbD 0 = false ∧ r.mem = s.mem ∧ r.tiles = s.tiles) ∧
    (s.sextant = true → ph = 5 → dark → ∃ r, exec .powerTransitionDone s = .next r ∧ r.power.phase = 1 ∧
      (r.reg (pwBase + 0x010)).getLsbD 0 = false ∧ ∀ t, t < 640 → t ∉ s.power.held → (r.treg t 0x008).getLsbD 0 = false) ∧
    (∀ a, s.sextant = true → s.power.trimmed = true → s.power.cool = some a → 1000000000 ≤ (s.chron - a).toNat → ∃ r,
      exec .trimmedExit s = .next r ∧ r.power.trimmed = false ∧ (∀ i, i < 100 → r.ceiling i = 0) ∧
      r.power.phase = (if s.commanded = 1 ∧ ph = 2 then 5 else ph) ∧ r.mem = s.mem)) ∧
  (∀ (s : State) (rails : List (Option (BitVec 16 × BitVec 16))) (j : Fin 16) (die : Fin 100) (mv watts : BitVec 16), s.sextant = true →
    let valid := fun (k : Nat) => (s.reg (sxBase + 0x100 + 8 * k)).getLsbD 63
    let pwr := fun (k : Nat) => sxBase + 0x180 + 8 * k
    (rails.length ≠ 16 → exec (.pmbusRead rails) s = .refused .illFormed) ∧
    (rails.length = 16 → s.due 4 1000000 = true → ∃ r, exec (.pmbusRead rails) s = .next r ∧ r.power.estSum = 0 ∧ r.power.estN = 0 ∧
      (∀ a b, valid j = true → rails.getD j none = some (a, b) → r.reg (pwr j) = BitVec.ofNat 64 (a.toNat * 2 ^ 16 + b.toNat)) ∧
      (valid j = true → rails.getD j none = none → 2 ≤ FMap.get 0 s.power.missed j → (r.reg (pwr j)).getLsbD 63 = true) ∧
      (valid j = false → r.reg (pwr j) = s.reg (pwr j)) ∧ r.mem = s.mem ∧ r.tiles = s.tiles) ∧
    (valid j = true → ∀ s1, s1 = { s with power := { s.power with missed := FMap.put 0 s.power.missed j 0 } }.setReg (pwr j)
        (BitVec.ofNat 64 (mv.toNat * 2 ^ 16 + watts.toNat)) →
      exec (.pmbusAlert j mv watts false) s = .next s1 ∧ exec (.pmbusAlert j mv watts true) s = .next (s1.quiet 0xF001 11 j)) ∧
    (die.val < 80 → bits (s.reg (pwBase + 0x040)) 0 8 < mv.toNat → exec (.droopEvent die mv) s =
      .next ({ s with power := { s.power with droops := FMap.insert s.power.droops die s.marks.ran } }.count (pwBase + 0x048) 1)) ∧
    (80 ≤ die.val ∨ mv.toNat ≤ bits (s.reg (pwBase + 0x040)) 0 8 → exec (.droopEvent die mv) s = .next s) ∧
    (FMap.find? s.power.droops die = none → exec (.droopRestore die) s = .next s) ∧
    (∀ a, FMap.find? s.power.droops die = some a →
      (s.droopPast die (s.marks.ran - a).toNat = false → exec (.droopRestore die) s = .next s) ∧
      (s.droopPast die (s.marks.ran - a).toNat = true → exec (.droopRestore die) s =
        .next { s with power := { s.power with droops := FMap.erase s.power.droops die } })))

/-- Thermal control: the sensors fill SX_TEMP each 10 µs and 105 °C enters Trimmed; dies at 95 °C fall one step per 100 µs, dies
at 92 °C rise per 10 ms, neighbours more than 40 °C apart are clamped; the trip enters the safe state, and so does a supply fault
outside reset. The model's choices: log 71 (steps of a release), log 84 (sensors that the part has not). Rests on R440, R441,
R487. -/
def Obligations.ThermalControl : Prop :=
  ∀ (s : State) (temps : List (BitVec 16)) (rail : Fin 16) (i : Nat), i < 100 →
    let temp := fun (r : State) => bits (r.reg (sxBase + 0x500 + 8 * i)) 0 16
    let hot := (95 : Int) * 16 ≤ s.tempOf i
    (temps.length ≠ 100 → exec (.thermalSample temps) s = .refused .illFormed) ∧
    (temps.length = 100 → s.sextant = true → s.due 6 10000 = true → ∃ r, exec (.thermalSample temps) s = .next r ∧
      temp r = (temps.getD i 0).toNat ∧ r.ceiling i = s.ceiling i ∧ (r.power.throttled = true ↔ ∃ x ∈ temps, (95 : Int) * 16 ≤ x.toInt) ∧
      (r.power.trimmed = true ↔ s.power.trimmed = true ∨ ∃ x ∈ temps, (105 : Int) * 16 ≤ x.toInt) ∧ r.mem = s.mem ∧ r.tiles = s.tiles) ∧
    (s.sextant = true → s.due 7 100000 = true → ∃ r, exec .throttleStep s = .next r ∧ r.mem = s.mem ∧ r.tiles = s.tiles ∧
      r.ceiling i = (if hot then s.ceiling i - 1 else s.ceiling i) ∧
      (hot → s.ceiling i = 0 → FMap.get 64 r.power.duty i = max 1 (FMap.get 64 s.power.duty i - 8))) ∧
    (s.sextant = true → s.due 8 10000000 = true → s.power.trimmed = false → s.power.clamped = [] → s.ceiling i < 8 → ∃ r, exec .throttleRelease s = .next r ∧
      r.ceiling i = (if s.tempOf i ≤ (92 : Int) * 16 then min 7 (s.ceiling i + 1) else s.ceiling i) ∧ r.mem = s.mem ∧ r.tiles = s.tiles) ∧
    (s.sextant = true → s.due 9 100000 = true → ∃ r, exec .islandTempClamp s = .next r ∧ r.mem = s.mem ∧ r.tiles = s.tiles ∧
      r.ceiling i = (if s.hotterBy i 40 = true then s.ceiling i - 1 else s.ceiling i) ∧ (s.hotterBy i 40 = true → i ∈ r.power.clamped)) ∧
    (s.start.boot ≠ .off → exec .thermalTrip s = .next ({ s with safety := { s.safety with tripN := false } }.quiet 0xF003 12 0)) ∧
    (s.start.boot ≠ .off →
      let low := { s with safety := { s.safety with pg := s.safety.pg &&& ~~~ BitVec.ofNat 16 (2 ^ rail.val) } }
      (s.inReset = false → exec (.supplyFault rail) s = .next (low.quiet 0xF001 11 rail)) ∧
      (s.inReset = true → exec (.supplyFault rail) s = .next low))

/-- (1) A cold reset: every register at its reset value but those that tell of the reset, no context, tile, queue or memory left,
the cause recorded and its land low; the error ring, the fuses and what the package has sent stay. Removed power loses the error
ring too, and nothing but power-on acts on it; emergency-off that power-on finds asserted enters the safe state. (2) Reset
release: the Chronometer is 0, and straps of odd parity give the coordinates and the node number; straps of even parity are
`0xB080`. Staged start begins and the bill line is written, but in the safe state, under emergency-off, and while a power-good
land is low. (3) A warm reset: any write of its register refused while one runs (`0x4140`), held back by a fuse write; sweeping
stops at once; the flush ends within 10 ms with the caches written back and the link down; after 1 ms the package starts again,
with its memory when KEEP applies, and writes the bill line. (4) A tile reset: of a tile that is held and empty (`0x2014`), one at
a time (`0x4140`); its registers return to their reset values and its scratchpad to zero, it goes to point 0 one step at a time,
and its self-test there leaves it in service or Faulted. The model's choices: log 9 (memory after power-on), log 22 (the
Chronometer at a release). Rests on R322, R452 to R458, R523. -/
def Obligations.Resets : Prop :=
  (∀ (s : State) (cause : ColdCause),
    let told := [bnBase + 0x030, bnBase + 0x200, bnBase + 0x208, scBase + 0x020]
    let blank := fun (r : State) => r.tiles = [] ∧ r.ctxs = [] ∧ r.mem.near = [] ∧ r.mem.bad = [] ∧ r.mem.far = s.mem.far ∧
      r.mem.host = s.mem.host ∧ r.pending = s.pending ∧ (∀ a, a ∉ told → r.reg a = resetAt a)
    (s.start.boot ≠ .off → s.safety.eoff = false ∨ s.safety.safe = true → ∃ r, exec (.coldReset cause) s = .next r ∧ blank r ∧
      r.start.boot = .held ∧ r.safety.ring = s.safety.ring ∧ r.safety.retained = s.safety.retained ∧ r.sec.fused = s.sec.fused ∧
      r.sec.fusedB = s.sec.fusedB ∧
      r.reg (bnBase + 0x030) = (match cause with | .powerOn => 1 | .resetLand => 2 | .perst => 3) ∧
      r.start.resetLow = (decide (cause ≠ .perst) || s.start.resetLow) ∧
      r.start.perstLow = (decide (cause ≠ .resetLand) || s.start.perstLow) ∧
      r.safety.safe = (s.safety.safe && s.safety.eoff) ∧ r.chron = s.chron) ∧
    (s.start.boot = .off → s.safety.pg = 0 → s.safety.safe = false →
      ∃ r, exec (.coldReset .powerOn) s = .next r ∧ r.start.boot = .held ∧ r.start.resetLow = true ∧ r.start.perstLow = true ∧
        r.safety.pg = 0xFFFF ∧ r.safety.safe = s.safety.eoff ∧ (s.safety.eoff = false → blank r) ∧
        (s.safety.eoff = true → bits (r.reg (bnBase + 0x208)) 16 16 = 0xF004 ∧ r.safety.faultN = false)) ∧
    (s.start.boot = .off → cause ≠ .powerOn ∨ s.safety.pg ≠ 0 → exec (.coldReset cause) s = .next s) ∧
    (∃ r, exec .powerRemoved s = .next r ∧ blank r ∧ r.start.boot = .off ∧ r.safety.pg = 0 ∧ r.safety.ring = [] ∧ r.safety.retained = [] ∧
      r.chron = 0 ∧ ((∀ v, s.sec.cmd ≠ some (.svn v)) → r.sec.fused = s.sec.fused ∧ r.sec.fusedB = s.sec.fusedB) ∧
      ∀ v, s.sec.cmd = some (.svn v) →
        (s.sec.fused ≤ v → s.sec.fused ≤ r.sec.fused ∧ r.sec.fused ≤ v) ∧ (s.sec.fusedB ≤ v → s.sec.fusedB ≤ r.sec.fusedB ∧ r.sec.fusedB ≤ v))) ∧
  (∀ (s : State) (straps : BitVec 8),
    let odd := (List.range 8).countP (fun i => straps.getLsbD i) % 2 = 1
    let starts := s.safety.safe = false ∧ s.safety.eoff = false ∧ s.safety.pg = 0xFFFF
    let sampled := fun r : State => r.mem = s.mem ∧ r.chron = 0 ∧ r.start.resetLow = false ∧ r.start.perstLow = false ∧
      bits (r.reg lpBase) 0 8 = straps.toNat ∧
      (odd → bits (r.reg (lpBase + 0x008)) 0 8 = 128 + straps.toNat % 128 ∧ r.reg (lpBase + 0x010) =
        BitVec.ofNat 64 (straps.toNat / 16 % 8 * 16 + straps.toNat / 4 % 4 * 4 + straps.toNat % 4)) ∧
      (¬ odd → bits (r.reg (lpBase + 0x028)) 16 16 = 0xB080)
    (s.start.boot = .off ∨ (s.start.resetLow = false ∧ s.start.perstLow = false) → exec (.resetRelease straps) s = .next s) ∧
    (s.start.boot ≠ .off → s.start.resetLow = true ∨ s.start.perstLow = true →
      (¬ starts → ∃ r, exec (.resetRelease straps) s = .next r ∧ sampled r ∧ r.start.boot = .held) ∧
      (starts → ∃ r : State, exec (.resetRelease straps) s = .next r.putBill ∧ sampled r ∧ r.start.boot = .stage))) ∧
  (∀ (s : State) (w : Wr) (v m : Word),
    let ok := s.accepts (bnBase + 0x028) w v m ∧ v.getLsbD 0 = true
    (s.accepts (bnBase + 0x028) w v m → s.start.boot = .warmWait ∨ s.start.boot = .warmFlush → exec (.warmReset w) s = .next (s.record bnBase 0x4140)) ∧
    (∀ n, ok → s.start.boot = .stage → s.dbg.deferred = [] → s.sec.cmd = some (.svn n) → ∃ r, exec (.warmReset w) s = .next r ∧ r.start.boot = .warmWait ∧
      r.start.keep = v.getLsbD 1 ∧ r.ctxs = s.ctxs ∧ r.mem = s.mem ∧ r.sec = s.sec) ∧
    (ok → s.start.boot = .stage → s.dbg.deferred = [] → s.sec.cmd = none → s.ctxs = [] → ∃ r, exec (.warmReset w) s = .next r ∧ r.start.boot = .warmFlush ∧
      r.start.keep = v.getLsbD 1 ∧ r.start.since = s.chron ∧ r.mgmt.loads = [] ∧ r.mgmt.current = none ∧ r.tables.cmd = none ∧ r.mem = s.mem) ∧
    (s.start.boot = .warmFlush → s.safety.safe = false → (∀ p ∈ s.tiles, p.2.work.running = []) ∨ 10000000 ≤ (s.chron - s.start.since).toNat →
      ∃ r, exec .warmResetFlushDone s = .next r ∧ r.start.boot = .warmHold ∧ r.start.since = r.chron ∧
        (r.start.kept = true → r.start.keep = true)) ∧
    (s.start.boot = .warmHold → s.safety.safe = false → 1000000 ≤ (s.chron - s.start.since).toNat → ∃ r : State,
      exec .warmResetRelease s = .next r.putBill ∧ r.chron = 0 ∧ r.start.boot = .stage ∧ r.tiles = [] ∧ r.ctxs = [] ∧
      r.mem.near = (if s.start.kept = true then s.mem.near else []) ∧ r.mem.cache = [] ∧ r.mem.inval = [] ∧
      r.reg (bnBase + 0x030) = (if s.start.kept = true then 5 else 4) ∧ r.reg (bnBase + 0x018) = s.reg (bnBase + 0x018) ∧
      r.reg (sxBase + 0x400) = 0)) ∧
  (∀ (s : State) (t : Tile) (w : Wr) (v m : Word),
    let ok := s.accepts (bnBase + 0x040) w v m
    (ok → 640 ≤ bits v 0 10 → exec (.tileReset w) s = .next (s.record bnBase 0x2006)) ∧
    (ok → bits v 0 10 < 640 → s.start.tileReset.isSome = true ∨ s.start.boot ≠ .stage →
      exec (.tileReset w) s = .next (s.record bnBase 0x4140)) ∧
    (ok → bits v 0 10 < 640 → s.start.tileReset = none → s.start.boot = .stage → s.tileFree (bits v 0 10) = false →
      exec (.tileReset w) s = .next (s.record bnBase 0x2014)) ∧
    (ok → bits v 0 10 = t.val → s.start.tileReset = none → s.start.boot = .stage → s.tileFree t = true → ∃ r,
      exec (.tileReset w) s = .next r ∧ r.start.tileReset = some t.val ∧ (r.reg (bnBase + 0x050)).getLsbD 0 = true ∧
      (∀ o, o < 0x1000 → r.treg t o = resetAt (tileBase t + o)) ∧ (r.tile t).sp = .empty ∧ (r.tile t).work.queues = [] ∧
      (r.tile t).upkeep.wanted = 0 ∧ (r.tile t).upkeep.point = (s.tile t).upkeep.point ∧
      (∀ u, u ≠ t.val → r.tile u = s.tile u) ∧ r.mem = s.mem) ∧
    (∀ pass, (s.tile t).upkeep.point ≠ 0 → exec (.tileResetDone t pass) s = .next s) ∧
    (s.start.tileReset = some t.val → s.safety.safe = false → s.start.boot = .stage → (s.tile t).upkeep.point = 0 →
      (∃ r, exec (.tileResetDone t true) s = .next r ∧ r.start.tileReset = none ∧ (r.tile t).upkeep.state = 0 ∧
        r.reg (bnBase + 0x048) = BitVec.ofNat 64 (2 ^ 63 + t) ∧ r.reg (bnBase + 0x050) = 0 ∧ r.mem = s.mem) ∧
      ∃ r, exec (.tileResetDone t false) s = .next r ∧ (r.tile t).upkeep.state = 3 ∧
        r.reg (bnBase + 0x048) = BitVec.ofNat 64 (2 ^ 63 + 0xB040 * 2 ^ 16 + t)))

/-- (1) Staged start: MEMORY, MESH, LIGHT and TILES each end with the next stage or with their failure; FULL clears HOLD and
zeroes the scratchpads; a stage that passes its time limit fails with `0xB050`; CONTINUE runs a failed stage again. (2) A failed
stage shows its number and status, every tile is held, and no light port carries data. The model's choices: log 84 (lists of
another length). Rests on R463 to R468, R470. -/
def Obligations.StagedStart : Prop :=
  (∀ (s : State) (near : List (Option Bool)) (mid : List (Option (BitVec 2))) (t : Tile) (p : Fin 4) (w : Wr) (v m : Word),
    let cfg := s.reg (bnBase + 0x018)
    let s2 := (s.setReg mtBase (nearState near)).setReg (mtBase + 0x008) (midState mid (bits (s.reg (mtBase + 0x430)) 0 2))
    let enough := bits cfg 0 4 ≤ near.countP (·.isSome) ∧ bits cfg 8 4 ≤ (List.range 6).countP fun g => ! groupAbsent mid g
    let settled := ∀ q, q < 8 → (s.reg (lpCfg q)).getLsbD 8 = true → s.portState q ∈ [1, 5, 6]
    let age := (s.chron - s.start.since).toNat
    (near.length ≠ 12 ∨ mid.length ≠ 24 → exec (.memoryStageDone near mid) s = .refused .illFormed) ∧
    (near.length = 12 → mid.length = 24 → s.inStage 2 = true → age ≤ 30000000000 → enough → ∃ r, exec (.memoryStageDone near mid) s = .next r ∧ r.stage = 3 ∧
      r.start.since = s.chron ∧ r.reg mtBase = nearState near ∧ (s.start.kept = false → r.mem.near = [] ∧ r.mem.bad = []) ∧
      (s.start.kept = true → r.mem = s.mem)) ∧
    (near.length = 12 → mid.length = 24 → s.inStage 2 = true → age ≤ 30000000000 → ¬ enough → exec (.memoryStageDone near mid) s = .next (s2.failStage 2 0xB010)) ∧
    (s.inStage 3 = true → age ≤ 5000000000 → exec (.meshStageDone (some (t, p))) s = .next ((s.setReg (bnBase + 0x010)
      (BitVec.ofNat 64 (2 ^ 63 + 2 ^ 40 + t * 2 ^ 30 + p * 2 ^ 28))).failStage 3 0xB020)) ∧
    (s.inStage 3 = true → age ≤ 5000000000 → s.coordValid = true → exec (.meshStageDone none) s = .next (s.enterStage 4).refreshPorts) ∧
    (s.inStage 3 = true → age ≤ 5000000000 → s.coordValid = false → exec (.meshStageDone none) s = .next ((s.enterStage 4).failStage 4 0xB080)) ∧
    (s.inStage 4 = true → settled ∨ 2000000000 ≤ age → exec .lightStageDone s = .next (s.enterStage 5)) ∧
    (s.inStage 5 = true → age ≤ 10000000000 → ∃ r, exec (.tilesStageDone []) s = .next r ∧ r.stage = 6 ∧ r.mem = s.mem ∧
      ∀ u, u < 640 → (r.treg u 0x008).getLsbD 0 = false ∧ (r.tile u).sp = .empty) ∧
    (s.inStage 5 = true → age ≤ 10000000000 → exec (.tilesStageDone [t]) s = .next ((s.setReg (bnBase + 0x010)
      (BitVec.ofNat 64 (2 ^ 63 + 2 * 2 ^ 40 + t * 2 ^ 30))).failStage 5 0xB040)) ∧
    (∀ n lim, s.start.boot = .stage → s.safety.safe = false → s.stage = n → (n, lim) ∈ [(2, 30000000000), (3, 5000000000), (5, 10000000000)] →
      lim < age → exec .startTimeout s = .next (s.failStage n 0xB050)) ∧
    (near.length = 12 → mid.length = 24 →
      ∀ q ∈ [(2, 30000000000, Instr.memoryStageDone near mid), (3, 5000000000, .meshStageDone none), (5, 10000000000, .tilesStageDone [])],
      s.inStage q.1 = true → q.2.1 < age → exec q.2.2 s = .next (s.failStage q.1 0xB050)) ∧
    (s.accepts (bnBase + 0x020) w v m → bits v 0 2 ≠ 1 → exec (.continue w) s = .next (s.record bnBase 0x2006)) ∧
    (s.accepts (bnBase + 0x020) w v m → bits v 0 2 = 1 → s.stage < 0x80 → exec (.continue w) s = .next (s.record bnBase 0x2140)) ∧
    (s.accepts (bnBase + 0x020) w v m → bits v 0 2 = 1 → 0x80 ≤ s.stage → s.stage ≠ 0x84 →
      exec (.continue w) s = .next ((s.record bnBase 0).enterStage (s.stage - 0x80)))) ∧
  (∀ (s : State) (n : Nat) (st : Status), n < 8 → (∀ p, p < 8 → s.portState p ≠ 5) →
    let r := s.failStage n st
    r.stage = 0x80 + n ∧ bits (r.reg (bnBase + 0x008)) 16 16 = st.toNat ∧ (∀ t, t < 640 → (r.treg t 0x008).getLsbD 0 = true) ∧
    (∀ p, p < 8 → r.portState p = 0) ∧ r.mem = s.mem)

/-- (1) Emergency-off acts in every state; its release only clears the level. (2) Entering the safe state: the link is down, the
fault land is asserted, the cause is shown and the time recorded; a later cause of the same moment shows when its code is lower.
Rests on R486, R488 to R491. -/
def Obligations.EmergencyOffAndSafeState : Prop :=
  (∀ s : State,
    let shown := fun (on : Bool) => { s.setField (bnBase + 0x200) 19 1 (b2n on) with safety := { s.safety with eoff := on } }
    (s.safety.eoff = true → exec .emergencyOff s = .next s) ∧
    (s.safety.eoff = false → s.start.boot ≠ .off → exec .emergencyOff s = .next ((shown true).quiet 0xF004 13 0)) ∧
    (s.safety.eoff = false → s.start.boot = .off → exec .emergencyOff s = .next (shown true)) ∧
    (s.safety.eoff = true → exec .emergencyOffRelease s = .next (shown false))) ∧
  (∀ (s : State) (st : Status),
    let old := s.safety.entry
    let r := s.enterSafe st
    (s.safety.safe = true → r.safety.safe = true ∧ r.safety.faultN = false ∧ r.safety.causes = s.safety.causes ++ [st] ∧
      r.safety.entry = (if s.safety.since = s.chron ∧ st.toNat < old.toNat then st else old) ∧
      bits (r.reg (bnBase + 0x208)) 16 16 = r.safety.entry.toNat ∧
      r.safety.since = s.safety.since ∧ r.safety.preq = (s.safety.preq && decide (st ≠ 0xF004)) ∧ r.mem = s.mem ∧ r.tiles = s.tiles) ∧
    (s.safety.safe = false → s.linkUp = false → (∀ p, p < 8 → s.portState p ≠ 5) → r.safety.safe = true ∧ r.safety.faultN = false ∧
      bits (r.reg (bnBase + 0x208)) 16 16 = st.toNat ∧ r.safety.entry = st ∧ r.safety.since = s.chron ∧ r.linkUp = false ∧ r.mem = s.mem ∧ r.tiles = s.tiles ∧
      ∀ p, p < 8 → r.portState p = 0 ∧ r.gates p = 0 ∧ r.laserOn p = false))

/-- (1) An overrun of an island crossing stops the crossing and is recorded by its owning tiles; what does not pass it goes on:
contexts without a counter set on those tiles, requests, commands, signals, notices, reports and contributions on other ways, and
every queue. A stopped crossing, or one at the edge of the grid, does nothing more; a restart lets it carry traffic again. (2)
Every step in flight of a context that holds a counter set on an owning tile of the crossing reports `ISLAND_OVERRUN` (`0x5070`):
with one running step, within its limit, on tiles that it has reached, the step is flushed for its replay, which counts. (3) A
mesh link that is down trains again, and after the third failure enters the safe state (`0xF005`), as a second cause too when the
package entered it in the same nanosecond; known-answer tests every 1 ms make a failing tile Faulted; once per second what was
corrected is summarised. (4) A tile becomes Faulted: it is counted and recorded once, HOLD is set and its state reads 3, its
running pieces end, and for each of them that no flush has suppressed, and for each queued or parked piece, `TILE_FAULTED`
(`0x6011`) is reported; no signal is sent, then or later. A Faulted tile becomes so once. The model's choices: log 58 (how running
pieces end), log 108 (a flush sent anew, and the order of two steps). Rests on R83, R448, R479, R480, R488, R492, R496. -/
def Obligations.FaultHandling : Prop :=
  (∀ (s : State) (x : Crossing), s.moving = true →
    let hit := s.safety.stopped.any (sameCrossing x)
    let home := fun (r : Rec) (t : Nat) => match s.homeOf r.ctx.toNat with | some h => h.1 | none => t
    (crossingTiles x = [] ∨ hit = true → exec (.islandOverrun x) s = .next s) ∧
    (∀ t rest, crossingTiles x = t :: rest → hit = false → ∃ r, exec (.islandOverrun x) s = .next r ∧
      r.safety.stopped = s.safety.stopped ++ [x] ∧ (∀ u ∈ t :: rest, (r.treg u 0x018).getLsbD 4 = true) ∧
      (∀ c, (∀ u ∈ t :: rest, (s.tile u).work.set? c = none) → r.ctx? c = s.ctx? c) ∧
      (∀ u, s.reqsIn x u = [] → (r.tile u).work.running = (s.tile u).work.running) ∧
      (∀ u, (r.tile u).work.queues = (s.tile u).work.queues ∧ (r.tile u).work.inbox = (s.tile u).work.inbox) ∧
      (∀ y ∈ s.mail.channel, passes x (home y.2 y.1) y.1 = false → y ∈ r.mail.channel) ∧
      (∀ g ∈ s.mail.signals, passes x g.src g.tile = false → (∀ u ∈ t :: rest, (s.tile u).work.set? g.ctx = none) → g ∈ r.mail.signals) ∧
      (∀ y ∈ s.mail.notices, passes x y.tile y.home = false → y ∈ r.mail.notices) ∧
      (∀ y ∈ s.mail.reports, passes x y.tile y.home = false → y ∈ r.mail.reports) ∧
      (∀ y ∈ s.mail.contribs, passes x y.1 y.2.1 = false → y ∈ r.mail.contribs)) ∧
    exec (.crossingRestart x) s =
      .next { s with safety := { s.safety with stopped := s.safety.stopped.filter fun y => ! sameCrossing x y } }) ∧
  (∀ (s : State) (x : Crossing) (t c : Nat) (rest : List Nat) (y : Ctx) (p : Step), s.moving = true → crossingTiles x = t :: rest →
    s.safety.stopped.any (sameCrossing x) = false → (∃ u ∈ t :: rest, ((s.tile u).work.set? c).isSome = true) →
    FMap.sorted s.ctxs = true → s.ctx? c = some y → y.steps = [p] → p.inFlight = true → p.phase = .running → p.tally.tiles ≠ [] →
    p.tally.replays < p.wp.limit → ∃ r y' p', exec (.islandOverrun x) s = .next r ∧ r.ctx? c = some y' ∧ y'.steps = [p'] ∧
      p'.phase = .flushing true ∧ p'.tally.replays = p.tally.replays + 1 ∧ p'.tally.cause = 0x5070 ∧ p'.tally.awaiting = p.tally.tiles ∧
      ∀ u ∈ p.tally.tiles, ⟨u, c, p.stepno.setWidth 2, true⟩ ∈ r.mail.flushes) ∧
  (∀ (s : State) (t : Tile) (port : Fin 4),
    let u := (s.tile t).upkeep
    let n := FMap.get 0 u.retrains port + 1
    let quiet := ∀ c ∈ correctedCounters, bits (s.reg c.1) 0 48 = bits (FMap.get 0 s.safety.summary c.1) 0 48
    (s.moving = true → port.val ∈ u.linkDown → exec (.meshLinkRetrain t port true) s = .next (s.onUpkeep t fun u =>
      { u with linkDown := u.linkDown.filter (· ≠ port.val), retrains := FMap.put 0 u.retrains port 0 })) ∧
    (s.moving = true → port.val ∈ u.linkDown → n < 3 → exec (.meshLinkRetrain t port false) s =
      .next (s.onUpkeep t fun u => { u with retrains := FMap.put 0 u.retrains port n })) ∧
    (s.moving = true ∨ s.justSafe = true → port.val ∈ u.linkDown → 3 ≤ n → exec (.meshLinkRetrain t port false) s =
      .next ((s.enterSafe 0xF005).log (tileFault 0xF005 2 t port 0xFFF 0))) ∧
    (port.val ∉ u.linkDown → ∀ pass, exec (.meshLinkRetrain t port pass) s = .next s) ∧
    (s.moving = true → s.stage = 6 → s.vectorBoundary t = true → s.due (1000 + t) 1000000 = true →
      exec (.vectorKat t true) s = .next ((s.acted (1000 + t)).count (bnBase + 0x298) 1) ∧
      exec (.vectorKat t false) s = .next (((s.acted (1000 + t)).count (bnBase + 0x298) 1).makeFaulted t)) ∧
    (s.runsB s.activeB = true → s.due 10 1000000000 = true → quiet → exec .correctedSummary s = .next (s.acted 10)) ∧
    (s.runsB s.activeB = true → s.due 10 1000000000 = true → exec .correctedSummary s =
      .next (correctedCounters.foldl State.summarise (s.acted 10)))) ∧
  (∀ (s : State) (t : Tile),
    let r := s.makeFaulted t
    let w := (s.tile t).work
    let q := (r.tile t).work
    let told := fun (e : Nat) (m : Rec) (spot : Nat × Nat) => ⟨m.home.toNat, m.ctx.toNat, m.tag, 0x6011, e, t.val, m.layop, true, spot⟩ ∈ r.mail.reports
    r.faultedTile t = true ∧ (∀ u, u ≠ t.val → r.faultedTile u = s.faultedTile u) ∧ bits (r.view (tileBase t + 0x010)) 0 2 = 3 ∧
    (s.faultedTile t = true → r = s) ∧
    (∀ g : Rec, r.sendSignal t g = r) ∧ r.mail.signals = s.mail.signals ∧
    (s.faultedTile t = false → (r.treg t 0x008).getLsbD 0 = true ∧ q.running = [] ∧ q.queues = [] ∧ q.parked = [] ∧
      r.safety = ((s.count (bnBase + 0x280) 1).log (tileFault 0x6011 0 t 0 0xFFF 0)).safety ∧
      (∀ x ∈ w.running, x.suppressed = false → told x.eng x.cmd x.spot) ∧
      (∀ e, ∀ x ∈ w.queue e, told x.cmd.engine.toNat x.cmd (0, 0)) ∧ ∀ x ∈ w.parked, told x.ent.cmd.engine.toNat x.ent.cmd (0, 0)))

/-- (1) Binnacle heartbeats every 50 µs; a path that falls silent while the other is heard is `0xB091`; when both are silent for 1
ms the standby holds the active Binnacle and becomes active (`0xB090`); when neither beats the safe state is entered with `0xF002`
latched; a silent Sextant is `0xF006`, recorded once, in the safe state too. (2) Error injection: an illegal kind or tile is
rejected; kinds 1 to 3 arm one error of the tile's next command; kinds 4 to 6 suppress the active Binnacle's message, line or both
for 2 ms, only at FULL with both Binnacles running (`0x2150`). The model's choices: log 78 (BN_SAFE_CAUSE, and what a takeover
restarts). Rests on R481 to R485, R500. -/
def Obligations.HeartbeatsAndInjection : Prop :=
  (∀ (s : State) (b : Bool),
    let a := s.activeB
    let x := s.beat b
    let msg : Bool := x.quietMsg.toNat ≤ s.chron.toNat
    let line : Bool := x.quietLine.toNat ≤ s.chron.toNat
    (s.runsB b = true → s.due (if b then 12 else 11) 50000 = true → ∃ r, exec (.bnHeartbeat b) s = .next r ∧
      (r.beat b).seq = (if msg = true then x.seq + 1 else x.seq) ∧ (r.beat b).msgAt = (if msg = true then s.chron else x.msgAt) ∧
      (r.beat b).lineAt = (if line = true then s.chron else x.lineAt) ∧ r.beat (! b) = s.beat (! b) ∧ r.mem = s.mem ∧ r.tiles = s.tiles) ∧
    (∀ side good, s.pathChanges a side good = true → ∃ r, exec (.hbPathLost side good) s = .next r ∧
      (if side = true then (r.beat a).lineGood else (r.beat a).msgGood) = good ∧ r.mem = s.mem ∧ r.tiles = s.tiles) ∧
    (∀ side good, s.pathChanges a side good = false → s.pathChanges (! a) side good = false →
      exec (.hbPathLost side good) s = .next s) ∧
    (s.runsB (! a) = true → s.binnacle (! a) = 0 → s.msgSilent a = true → s.lineSilent a = true → s.tables.cmd = none → s.sec.cmd = none →
      s.start.tileReset = none → s.start.boot = .stage → s.stage = 6 → ∃ r, exec .bnTakeover s = .next r ∧ r.binnacle (! a) = 1 ∧
      r.binnacle a = 2 ∧ (r.reg (bnBase + 0x200)).getLsbD 0 = true ∧ r.mem = s.mem ∧ r.tiles = s.tiles ∧ r.ctxs = s.ctxs) ∧
    (s.start.boot ≠ .off → s.lineSilent false = true → s.lineSilent true = true → ∃ r, exec .binnaclesLost s = .next r ∧ r.safety.safe = true ∧
      r.safety.latch = true ∧ r.reg (bnBase + 0x208) = s.reg (bnBase + 0x208)) ∧
    (s.normal = true ∨ s.start.boot = .warmFlush → 0xF006 ∉ s.safety.causes → exec .sextantLost s = .next (s.quiet 0xF006 9 0)) ∧
    (0xF006 ∈ s.safety.causes → exec .sextantLost s = .next s)) ∧
  (∀ (s : State) (w : Wr) (v m : Word),
    let n := bits v 60 4
    let t := bits v 0 10
    let ok := s.accepts (bnBase + 0x268) w v m
    let arms := fun (i : Instr) (k : Nat) (f : Upkeep → Upkeep) => ok → n = k → t < 640 → exec i s = .next (s.onUpkeep t f)
    let x := s.beat s.activeB
    let late := s.chron + 2000000
    let able := s.stage = 6 ∧ (s.reg (bnBase + 0x200)).getLsbD 0 = false
    let rows := [Instr.injectChecksum w, .injectResidue w, .injectVectorResidue w, .injectHbMessage w, .injectLiveLine w, .injectBoth w]
    (ok → n = 0 ∨ 6 < n ∨ (n ≤ 3 ∧ 640 ≤ t) → ∀ i ∈ rows, exec i s = .next (s.record bnBase 0x2006)) ∧
    arms (.injectChecksum w) 1 (fun u => { u with injChecksum := true }) ∧
    arms (.injectResidue w) 2 (fun u => { u with injResidue := true }) ∧
    arms (.injectVectorResidue w) 3 (fun u => { u with injVector := true }) ∧
    (ok → n = 4 → able → exec (.injectHbMessage w) s = .next (s.setBeat s.activeB { x with quietMsg := late })) ∧
    (ok → n = 5 → able → exec (.injectLiveLine w) s = .next (s.setBeat s.activeB { x with quietLine := late })) ∧
    (ok → n = 6 → able → exec (.injectBoth w) s = .next (s.setBeat s.activeB { x with quietMsg := late, quietLine := late })) ∧
    (ok → n = 4 → ¬ able → exec (.injectHbMessage w) s = .next (s.record bnBase 0x2150)) ∧
    (ok → n = 5 → ¬ able → exec (.injectLiveLine w) s = .next (s.record bnBase 0x2150)) ∧
    (ok → n = 6 → ¬ able → exec (.injectBoth w) s = .next (s.record bnBase 0x2150)) ∧
    (s.accepts (bnBase + 0x2F8) w v m → v.getLsbD 0 = true → ∃ r, exec (.bnCntClear w) s = .next r ∧ r = { s with regs := r.regs } ∧
      ∀ i, i < 6 → r.reg (bnBase + 0x270 + 8 * i) = 0))

/-- (1) FIX, RESUME and SCAN: refused while DEBUG_EN is clear (`0x3160`) or a scan runs (`0x2160`); a fix, in Running or Trimmed,
stops the islands and is FIXED after 1 µs; a resume gives what was withheld; a scan writes its buffer, and ends when the link is
lost. (2) Debug registers: DEBUG_EN and LOGLINE_EN are set-only, FIX_ON_ERR needs DEBUG_EN; a watchpoint entry with an impossible
range is rejected; a tag filter or mask write clears its bucket; the counters' clear. (3) The log line takes one packet at a time
from the tiles, in turn, and puts word i of it on lane i mod 8; tag buckets are reported each 10 µs. The model's choices: log 76
(when a scan is accepted, and bytes that the model does not hold). Rests on R501 to R503, R506 to R508, R510 to R515. -/
def Obligations.FixTraceAndCounters : Prop :=
  (∀ (s : State) (w : Wr) (v m : Word) (op : Nat) (i : Instr),
    let ok := s.accepts (dbBase + 0x010) w v m
    let st := s.reg (dbBase + 0x008)
    let opts := bits (s.reg (dbBase + 0x038)) 0 2
    let ours := (op, i) ∈ [(1, Instr.fix w), (2, .fixResume w), (3, .scan w)]
    let ready := ok ∧ (s.reg dbBase).getLsbD 0 = true ∧ s.dbg.scan = none
    (ours → ok → (s.reg dbBase).getLsbD 0 = false → exec i s = .next (s.record dbBase 0x3160)) ∧
    (ours → ready → bits v 0 2 = 0 → exec i s = .next (s.record dbBase 0x2006)) ∧
    (ours → ok → (s.reg dbBase).getLsbD 0 = true → bits v 0 2 = op ∨ bits v 0 2 = 0 → s.dbg.scan.isSome = true → exec i s = .next (s.record dbBase 0x2160)) ∧
    (ready → bits v 0 2 = 1 → s.stage = 6 → s.normal = true → s.running = true ∨ s.power.trimmed = true → st.getLsbD 1 = false → st.getLsbD 2 = false → ∃ r,
      exec (.fix w) s = .next r ∧ (r.reg (dbBase + 0x008)).getLsbD 1 = true ∧ r.reg (dbBase + 0x020) = s.chron ∧
      bits (r.reg (dbBase + 0x018)) 60 3 = 1 ∧ r.mem = s.mem ∧ r.tiles = s.tiles) ∧
    (ready → bits v 0 2 = 1 → s.stage ≠ 6 → exec (.fix w) s = .next (s.record dbBase 0x2160)) ∧
    (st.getLsbD 1 = true → s.safety.safe = false → 1000 ≤ (s.chron - s.reg (dbBase + 0x020)).toNat → ∃ r, exec .fixStopped s = .next r ∧
      (r.reg (dbBase + 0x008)).getLsbD 1 = false ∧ (r.reg (dbBase + 0x008)).getLsbD 2 = true ∧ r.mem = s.mem ∧ r.tiles = s.tiles) ∧
    (ready → bits v 0 2 = 2 → st.getLsbD 1 = true ∨ st.getLsbD 2 = true →
      exec (.fixResume w) s = .next ((s.record dbBase 0).resumeFix 0)) ∧
    (ready → bits v 0 2 = 2 → st.getLsbD 1 = true ∨ st.getLsbD 2 = true → s.dbg.deferred = [] → ∃ r, exec (.fixResume w) s = .next r ∧
      (r.reg (dbBase + 0x008)).getLsbD 1 = false ∧ (r.reg (dbBase + 0x008)).getLsbD 2 = false ∧ (∀ n : Fin 8, (r.port n).withheld = []) ∧
      r.mem = s.mem ∧ r.tiles = s.tiles) ∧
    (ready → bits v 0 2 = 3 → st.getLsbD 1 = true ∨ st.getLsbD 2 = true → scanSize opts ≤ (s.reg (dbBase + 0x030)).toNat → ∃ r,
      exec (.scan w) s = .next r ∧ r.dbg.scan = some ((s.reg (dbBase + 0x028)).toNat, opts) ∧ (r.reg (dbBase + 0x008)).getLsbD 3 = true ∧
      r.mem = s.mem ∧ r.tiles = s.tiles) ∧
    (ready → bits v 0 2 = 3 → st.getLsbD 1 = true ∨ st.getLsbD 2 = true → (s.reg (dbBase + 0x030)).toNat < scanSize opts →
      exec (.scan w) s = .next (s.record dbBase 0x4160)) ∧
    (∀ a k, s.dbg.scan = some (a, k) → st.getLsbD 2 = true → s.safety.safe = false → s.linkUp = true → ∃ r, exec (.scanDone true) s = .next r ∧
      r.dbg.scan = none ∧ (r.reg (dbBase + 0x008)).getLsbD 3 = false ∧ r.reg (dbBase + 0x040) = BitVec.ofNat 64 (scanSize k) ∧
      r.mem = (s.hostWrite pf0Space a (s.scanBytes k)).mem ∧ r.tiles = s.tiles)) ∧
  (∀ (s : State) (n : Fin 16) (k : Fin 8) (mask : Bool) (w : Wr) (v m : Word),
    let old := s.reg dbBase
    let a := dbBase + 0x100 + 0x20 * n.val
    let new := ((s.reg a &&& ~~~ m) ||| (v &&& m)) &&& 0xFF80000000000FFF#64
    let lo := bits (s.reg (a + 8)) 0 56
    let hi := bits (s.reg (a + 16)) 0 56
    let bad := bits new 61 2 = 3 ∨ hi < lo ∨ (bits new 61 2 = 0 ∧ spRangeBad lo hi = true)
    let b := dbBase + 0x400 + 0x10 * k.val + (if mask then 8 else 0)
    (s.accepts dbBase w v m → (v &&& m).getLsbD 2 = true → old.getLsbD 0 = false → exec (.dbCfgWrite w) s = .next (s.record dbBase 0x3160)) ∧
    (s.accepts dbBase w v m → (v &&& m).getLsbD 2 = false ∨ old.getLsbD 0 = true → ∃ r, exec (.dbCfgWrite w) s = .next r ∧
      r = { s with regs := r.regs } ∧ (∀ j, j < 2 → ((r.reg dbBase).getLsbD j = true ↔ old.getLsbD j = true ∨ (v &&& m).getLsbD j = true)) ∧
      ((r.reg dbBase).getLsbD 2 = if m.getLsbD 2 = true then v.getLsbD 2 else old.getLsbD 2)) ∧
    (s.accepts a w v m → new.getLsbD 56 = true → old.getLsbD 0 = false → exec (.dbWpCfgWrite n w) s = .next (s.record dbBase 0x3160)) ∧
    (s.accepts a w v m → new.getLsbD 56 = false ∨ old.getLsbD 0 = true → bad → exec (.dbWpCfgWrite n w) s = .next (s.record dbBase 0x2006)) ∧
    (s.accepts a w v m → new.getLsbD 56 = false ∨ old.getLsbD 0 = true → ¬ bad → ∃ r, exec (.dbWpCfgWrite n w) s = .next r ∧ r.reg a = new ∧
      r.mem = s.mem ∧ r.tiles = s.tiles) ∧
    (s.accepts b w v m → ∃ r, exec (.dbTagfWrite k mask w) s = .next r ∧ r = { s with regs := r.regs } ∧
      r.reg b = ((s.reg b &&& ~~~ m) ||| (v &&& m)) &&& (if mask then 0xFFFFFFFF#64 else 0xC0000FFFFFFFFFFF#64) ∧
      ∀ i, i < 6 → r.reg (dbBase + 0x500 + 0x30 * k + 8 * i) = 0) ∧
    (s.accepts (dbBase + 0x7F8) w v m → v.getLsbD 0 = true → ∃ r, exec (.dbCntClear w) s = .next r ∧ r = { s with regs := r.regs } ∧
      (∀ i, i < 4 → r.reg (dbBase + 0x318 + 8 * i) = 0) ∧ r.reg (a + 0x18) = 0 ∧ ∀ i, i < 60 → r.reg (dbBase + 0x500 + 8 * i) = 0)) ∧
  (∀ s : State, s.moving = true →
    (∀ c r p rest, (s.reg dbBase).getLsbD 1 = true → s.dbg.column < 20 → s.dbg.column = c → s.nextRow c = some r →
      (s.tile (20 * r + c)).upkeep.trace = p :: rest → ∃ t, exec .logPacketSend s = .next t ∧ t.dbg.sent = s.dbg.sent ++ lanesOf p ∧
      (t.tile (20 * r + c)).upkeep.trace = rest ∧ t.dbg.column = (c + 1) % 20 ∧ t.mem = s.mem ∧
      ∀ u, u ≠ 20 * r + c → t.tile u = s.tile u) ∧
    ((∀ t, (s.tile t).upkeep.trace = []) → exec .logPacketSend s = .next s) ∧
    (s.due 13 10000 = true → ∃ r, exec .tagBucketReport s = .next r ∧ (∀ t, (r.tile t).upkeep.tagSums = []) ∧ r.mem = s.mem) ∧
    (∀ ws : List Word, lanesOf ws = ws.zipIdx.map fun x => ⟨x.2 % 8, 1, x.1⟩))

/-- (1) REGISTER_WRITE, of the 8 bytes of a register or of one half: a read-only register and one with a row of its own ignore it,
another size or place is `0x2007`, ones clear write-one-to-clear bits but those that hardware set in the same nanosecond (the
model's clock cycle, log 88), and each field of a writable register takes its value or, when its encoding is illegal, stays and is
recorded. A new value of `SX_WB_LIMIT` is part of the bill: its epoch counts and its line is written; one illegal pair leaves it
all unchanged. (2) What PF0 may write: a virtual function's write outside its own window, which is read-only, is counted and
`0x3001`, a closed window is `0xB002` with its error record, a write of an illegal size to a block `0x2007`; half a command
register that holds none of its fields starts nothing; in the safe state, with the link down or the package off nothing arrives.
(3) A read of a register, which is no command of the part but what PF0, PF1 and the virtual functions see of it: 8 bytes, or half
a register; the low half of a counter latches its high half for the function; a refused read is zero, and recorded where a write
would be. The model's choices: log 14 (reads are no command), log 15 (rows that divide the registers), log 88 (one clock cycle),
log 89 (half a command register). Rests on R5, R7 to R10, R53, R277, R278, R365, R366, R516. -/
def Obligations.RegisterWrites : Prop :=
  (∀ (s : State) (addr : BitVec 23) (w : Wr) (v m : Word),
    let at_ := addr.toNat + w.sub
    let a := at_ - at_ % 8
    let w' := { w with sub := at_ % 8 }
    let plain := a ≠ hiBase + 0x048 ∧ a ≠ sxBase + 0x010 ∧ (a < lpBase + 0x8000 ∨ lpBase + 0x10000 ≤ a) ∧ a ≠ hiBase + 0x020 ∧
      a ≠ hiBase + 0x028 ∧ a ≠ hiBase + 0x040 ∧ a ≠ sxBase + 0x410 ∧ a ≠ dbBase + 0x308
    let reaches := s.safety.safe = false ∧ s.linkUp = true ∧ s.start.boot ≠ .off ∧ w.fn.val = 0 ∧ s.open a = true ∧
      (s.fixed = true → runsInFix a = true)
    (reaches → wrPart w' = none → exec (.registerWrite addr w) s = .next (if owned a = true then s.record a 0x2007 else s)) ∧
    (s.accepts a w' v m → accessAt a = .ro ∨ accessAt a = .own → exec (.registerWrite addr w) s = .next s) ∧
    (∀ k, s.accepts a w' v m → accessAt a = .rw1c k → ∃ r, exec (.registerWrite addr w) s = .next r ∧ r = { s with regs := r.regs } ∧
      ∀ i, i < 64 → (a = pwBase + 0x038 → i ≠ 0) → ((r.reg a).getLsbD i = true ↔ (s.reg a).getLsbD i = true ∧
        ¬ ((v &&& m).getLsbD i = true ∧ k.testBit i = true ∧ (FMap.get 0 s.marks.fresh a).getLsbD i = false))) ∧
    (s.accepts a w' v m → a = sxBase + 0x410 → ∃ q, exec (.registerWrite addr w) s = .next (if q.reg a = s.reg a then q else q.changeLimits) ∧
      q = { s with regs := q.regs } ∧ (∀ o, o ≠ a → o ≠ statusReg a → q.reg o = s.reg o) ∧
      (m = BitVec.allOnes 64 → (∃ b, b < 6 ∧ limitPair (bits v (8 * b) 8) = false) → q.reg a = s.reg a ∧
        bits (q.reg (statusReg a)) 16 16 = 0x2006)) ∧
    (s.accepts a w' v m → a = dbBase + 0x308 → bits (merge (s.reg a) v m) 16 10 < bits (merge (s.reg a) v m) 0 10 ∨
      639 < bits (merge (s.reg a) v m) 16 10 → m &&& 0x03FF03FF#64 ≠ 0 → exec (.registerWrite addr w) s =
        .next ((s.setReg a (s.reg a)).record a 0x2006)) ∧
    (∀ fs, s.accepts a w' v m → accessAt a = .rw fs → plain → ∃ r, exec (.registerWrite addr w) s = .next r ∧
      r = { s with regs := r.regs } ∧ (∀ o, o ≠ a → o ≠ statusReg a → r.reg o = s.reg o) ∧
      (a ≠ statusReg a → r.reg a = (writeFields (s.reg a) v m fs).1) ∧
      ((writeFields (s.reg a) v m fs).2 = true → bits (r.reg (statusReg a)) 16 16 = 0x2006) ∧
      ((writeFields (s.reg a) v m fs).2 = false → a ≠ statusReg a → r.reg (statusReg a) = s.reg (statusReg a)))) ∧
  (∀ (s : State) (a : Nat) (w : Wr) (k : State → Word → Word → State),
    let reaches := s.safety.safe = false ∧ s.linkUp = true ∧ s.start.boot ≠ .off
    (∀ v m, s.accepts a w v m → s.write a w k = k s v m) ∧
    (¬ reaches → s.write a w k = s) ∧
    (reaches → w.fn.val ≠ 0 → a < 0x1000 → s.write a w k = if wrPart w = none then s.record a 0x2007 else s) ∧
    (reaches → w.fn.val ≠ 0 → 0x1000 ≤ a → s.write a w k = (s.record hiBase 0x3001).count (hiBase + 0x130) 1) ∧
    (reaches → w.fn.val = 0 → s.open a = false → s.write a w k = (s.record hiBase 0xB002).log (packageFault 0xB002 8 0 a)) ∧
    (reaches → w.fn.val = 0 → s.open a = true → (s.fixed = false ∨ runsInFix a = true) → wrPart w = none →
      s.write a w k = if owned a = true then s.record a 0x2007 else s) ∧
    (∀ v m, reaches → w.fn.val = 0 → s.open a = true → (s.fixed = false ∨ runsInFix a = true) → wrPart w = some (v, m) →
      reachesField a m = false → s.write a w k = s) ∧
    (reaches → w.fn.val = 0 → s.open a = true → s.fixed = true → runsInFix a = false → s.write a w k = s)) ∧
  (∀ (s : State) (fn : Fin 257) (a : Nat), a % 8 = 0 →
    let reaches := s.safety.safe = false ∧ s.linkUp = true ∧ s.start.boot ≠ .off
    let pf0 := reaches ∧ fn = 0 ∧ s.open a = true ∧ (s.fixed = true → runsInFix a = true)
    let hi := BitVec.ofNat 64 (bits (s.view a) 32 32)
    let low := s.readReg fn a 4
    (pf0 → s.readReg fn a 8 = (s, s.view a)) ∧
    (pf0 → low.2 = BitVec.ofNat 64 (bits (s.view a) 0 32) ∧ (isCounter a = false → low.1 = s) ∧
      (isCounter a = true → ∀ t : State, t.dbg.latched = low.1.dbg.latched → t.safety.safe = false → t.linkUp = true →
        t.start.boot ≠ .off → t.open a = true → (t.fixed = true → runsInFix a = true) → (t.readReg fn (a + 4) 4).2 = hi)) ∧
    (pf0 → FMap.find? s.dbg.latched (latchKey fn a) = none → (s.readReg fn (a + 4) 4).2 = hi) ∧
    (∀ at_ n, pf0 → at_ - at_ % 8 = a → (n, at_ % 8) ∉ [(8, 0), (4, 0), (4, 4)] →
      s.readReg fn at_ n = (if owned a = true then s.record a 0x2007 else s, 0)) ∧
    (reaches → fn ≠ 0 → a < 0x1000 → s.readReg fn a 8 = (s, s.viewFn (fn.val - 1) a) ∧
      s.readReg fn a 4 = (s, BitVec.ofNat 64 (bits (s.viewFn (fn.val - 1) a) 0 32)) ∧ s.readReg fn (a + 4) 4 = (s, BitVec.ofNat 64 (bits (s.viewFn (fn.val - 1) a) 32 32)) ∧
      ∀ at_ n, at_ - at_ % 8 = a → (n, at_ % 8) ∉ [(8, 0), (4, 0), (4, 4)] → s.readReg fn at_ n = (s.record a 0x2007, 0)) ∧
    (∀ n, s.viewFn n 0 = BitVec.ofNat 64 n) ∧
    (reaches → fn ≠ 0 → 0x1000 ≤ a → s.readReg fn a 8 = ((s.record hiBase 0x3001).count (hiBase + 0x130) 1, 0)) ∧
    (reaches → fn = 0 → s.open a = false → s.readReg fn a 8 = ((s.record hiBase 0xB002).log (packageFault 0xB002 8 0 a), 0)) ∧
    (¬ reaches → s.readReg fn a 8 = (s, 0)))

/-- The management port answers while a Binnacle runs; reading ERR_HEAD releases the alert. Rests on R530. -/
def Obligations.ManagementPort : Prop :=
  ∀ (s : State) (entry : Fin 16) (seq : BitVec 32), s.runsB false = true ∨ s.runsB true = true →
    let out := fun (ws : List Word) => { s with dbg := { s.dbg with mgmtOut := ws } }
    exec .ident s = .next (out [s.reg bnBase]) ∧
    exec .state s = .next (out [s.reg (bnBase + 0x008), s.reg (bnBase + 0x200), s.reg (bnBase + 0x208)]) ∧
    exec .errHead s = .next { out [BitVec.ofNat 64 (s.safety.lastSeq.toNat * 2 ^ 32 + s.safety.ring.length)] with
      safety := { s.safety with
        alertN := true } } ∧
    exec (.errRead true entry seq) s = .next (out (s.safety.retained.getD entry (List.replicate 8 0))) ∧
    exec (.errRead false entry seq) s =
      .next (out ((s.safety.ring.find? fun r => bits (r.getD 1 0) 32 32 = seq.toNat).getD (List.replicate 8 0)))

/-- The test access port: each instruction selects its data register; those that drive lands do so only while `BN_RESET_N` is low,
and select bypass at any other time. The observe-only cells of the boundary register hold the levels of their lands as it was
selected; the identification register captures the code, bypass a zero. The model's choices: log 80 (CLAMP and HIGHZ select
bypass), log 113 (when observe-only cells capture). Rests on R535 to R537. -/
def Obligations.TestAccessPort : Prop :=
  ∀ (s : State) (code : BitVec 8),
    let cap := observed.map fun l => (l, s.landLevel l)
    let sel := fun (ir : BitVec 8) (tap : TapReg) (pins : Pins) => .next { s with dbg := { s.dbg with ir := ir, tap := tap, pins := pins } }
    let scan := fun (ir : BitVec 8) (pins : Pins) =>
      .next { s with dbg := { s.dbg with ir := ir, tap := .boundary, pins := pins, cells := cap } }
    let low := s.start.resetLow = true
    exec .tapReset s = sel 0x01 .idcode .service ∧ exec .idcode s = sel 0x01 .idcode .service ∧ exec .samplePreload s = scan 0x02 .service ∧
    (low → exec .extest s = scan 0x03 .extest ∧ exec .extestPulse s = scan 0x04 .pulse ∧ exec .extestTrain s = scan 0x05 .train ∧
      exec .clamp s = sel 0x06 .bypass .clamp ∧ exec .highz s = sel 0x07 .bypass .highz) ∧
    (¬ low → ∀ p ∈ [(0x03#8, Instr.extest), (0x04, .extestPulse), (0x05, .extestTrain), (0x06, .clamp), (0x07, .highz)],
      exec p.2 s = sel p.1 .bypass .service) ∧
    (code = 0 ∨ 7 < code.toNat → exec (.bypass code) s = sel code .bypass .service) ∧
    (s.dbg.tap = .idcode → s.captured = some 0x1716058B) ∧ (s.dbg.tap = .bypass → s.captured = some 0)
end

