-- ==== Sys2Proof/Laws/Map.lean ====
section
/-! SUPPORT. What a sparse map reads as after each operation, and that each operation keeps the canonical form. -/

namespace Sys2Proof.Machine

variable {β : Type}

/-! ### Reads -/

@[simp] theorem FMap.find?_nil (k : Nat) : FMap.find? ([] : FMap β) k = none := rfl

theorem FMap.find?_insert_same (m : FMap β) (k : Nat) (b : β) : FMap.find? (FMap.insert m k b) k = some b := by
  induction m with
  | nil => simp [FMap.insert, FMap.find?]
  | cons x m ih =>
    obtain ⟨a, c⟩ := x
    simp only [FMap.insert]
    split
    · simp [FMap.find?]
    · split
      · simp [FMap.find?]
      · rename_i h
        simp [FMap.find?, Ne.symm h, ih]

theorem FMap.find?_insert_other (m : FMap β) (k j : Nat) (b : β) (h : j ≠ k) :
    FMap.find? (FMap.insert m k b) j = FMap.find? m j := by
  induction m with
  | nil => simp [FMap.insert, FMap.find?, Ne.symm h]
  | cons x m ih =>
    obtain ⟨a, c⟩ := x
    simp only [FMap.insert]
    split
    · simp [FMap.find?, Ne.symm h]
    · split
      · rename_i h1; subst h1; simp [FMap.find?, Ne.symm h]
      · simp [FMap.find?, ih]

theorem FMap.find?_erase_same (m : FMap β) (k : Nat) : FMap.find? (FMap.erase m k) k = none := by
  induction m with
  | nil => rfl
  | cons x m ih =>
    obtain ⟨a, c⟩ := x
    simp only [FMap.erase]
    split
    · exact ih
    · rename_i h; simp [FMap.find?, h, ih]

theorem FMap.find?_erase_other (m : FMap β) (k j : Nat) (h : j ≠ k) : FMap.find? (FMap.erase m k) j = FMap.find? m j := by
  induction m with
  | nil => rfl
  | cons x m ih =>
    obtain ⟨a, c⟩ := x
    simp only [FMap.erase]
    split
    · rename_i h1; subst h1; simp [FMap.find?, Ne.symm h, ih]
    · simp [FMap.find?, ih]

@[simp] theorem FMap.get_put_same [DecidableEq β] (d : β) (m : FMap β) (k : Nat) (b : β) :
    FMap.get d (FMap.put d m k b) k = b := by
  unfold FMap.get FMap.put
  split
  · rename_i h; simp [FMap.find?_erase_same, h]
  · simp [FMap.find?_insert_same]

theorem FMap.get_put_other [DecidableEq β] (d e : β) (m : FMap β) (k j : Nat) (b : β) (h : j ≠ k) :
    FMap.get e (FMap.put d m k b) j = FMap.get e m j := by
  unfold FMap.get FMap.put
  split
  · rw [FMap.find?_erase_other m k j h]
  · rw [FMap.find?_insert_other m k j b h]

/-- A byte outside a written range reads as before. -/
theorem FMap.get_putList_other [DecidableEq β] (d : β) (bs : List β) (m : FMap β) (k j : Nat)
    (h : j < k ∨ k + bs.length ≤ j) : FMap.get d (FMap.putList d m k bs) j = FMap.get d m j := by
  induction bs generalizing m k with
  | nil => rfl
  | cons b bs ih =>
    simp only [FMap.putList]
    rw [ih _ _ (by simp at h; omega), FMap.get_put_other d d m k j b (by simp at h; omega)]

/-- A byte of a written range reads as the byte written. -/
theorem FMap.get_putList_same [DecidableEq β] (d : β) (bs : List β) (m : FMap β) (k i : Nat) (h : i < bs.length) :
    FMap.get d (FMap.putList d m k bs) (k + i) = bs[i] := by
  induction bs generalizing m k i with
  | nil => simp at h
  | cons b bs ih =>
    simp only [FMap.putList]
    cases i with
    | zero => simp only [Nat.add_zero]; rw [FMap.get_putList_other d bs _ _ _ (.inl (by omega)), FMap.get_put_same]; rfl
    | succ i =>
      have := ih (FMap.put d m k b) (k + 1) i (by simpa using h)
      rw [show k + (i + 1) = k + 1 + i by omega, this]; rfl

/-! ### The canonical form -/

theorem FMap.sorted_iff {m : FMap β} : FMap.sorted m = true ↔ m.Pairwise fun x y => x.1 < y.1 := by simp [FMap.sorted]

theorem FMap.canon_iff [DecidableEq β] {d : β} {m : FMap β} :
    FMap.canon d m = true ↔ FMap.sorted m = true ∧ ∀ x ∈ m, x.2 ≠ d := by simp [FMap.canon]

@[simp] theorem FMap.sorted_nil : FMap.sorted ([] : FMap β) = true := by simp [FMap.sorted]

@[simp] theorem FMap.canon_nil [DecidableEq β] (d : β) : FMap.canon d ([] : FMap β) = true := by simp [FMap.canon]

theorem FMap.sorted_filter (p : Nat × β → Bool) {m : FMap β} (h : FMap.sorted m = true) : FMap.sorted (m.filter p) = true :=
  FMap.sorted_iff.2 (List.Pairwise.filter p (FMap.sorted_iff.1 h))

theorem FMap.erase_eq_filter (m : FMap β) (k : Nat) : FMap.erase m k = m.filter (fun x => x.1 != k) := by
  induction m with
  | nil => rfl
  | cons x m ih =>
    obtain ⟨a, c⟩ := x
    by_cases h : a = k <;> simp [FMap.erase, h, ih]

theorem FMap.sorted_erase {m : FMap β} (k : Nat) (h : FMap.sorted m = true) : FMap.sorted (FMap.erase m k) = true := by
  rw [FMap.erase_eq_filter]; exact FMap.sorted_filter _ h

theorem FMap.mem_insert {m : FMap β} {k : Nat} {b : β} {x : Nat × β} (h : x ∈ FMap.insert m k b) : x = (k, b) ∨ x ∈ m := by
  induction m with
  | nil => simp [FMap.insert] at h; exact .inl h
  | cons y m ih =>
    obtain ⟨a, c⟩ := y
    simp only [FMap.insert] at h
    split at h
    · simpa using h
    · split at h
      · simp at h ⊢; rcases h with h | h <;> simp [h]
      · simp at h ⊢
        rcases h with h | h
        · simp [h]
        · rcases ih h with h | h <;> simp [h]

theorem FMap.sorted_insert {m : FMap β} (k : Nat) (b : β) (h : FMap.sorted m = true) : FMap.sorted (FMap.insert m k b) = true := by
  rw [FMap.sorted_iff] at h ⊢
  induction m with
  | nil => simp [FMap.insert]
  | cons y m ih =>
    obtain ⟨a, c⟩ := y
    have h' := List.pairwise_cons.1 h
    simp only [FMap.insert]
    split
    · rename_i lt
      refine List.pairwise_cons.2 ⟨fun x hx => ?_, h⟩
      simp at hx
      rcases hx with rfl | hx
      · exact lt
      · exact lt_trans lt (h'.1 x hx)
    · rename_i nlt
      split
      · rename_i eq; subst eq
        exact List.pairwise_cons.2 ⟨fun x hx => h'.1 x hx, h'.2⟩
      · rename_i ne
        refine List.pairwise_cons.2 ⟨fun x hx => ?_, ih h'.2⟩
        rcases FMap.mem_insert hx with rfl | hx
        · simp only; omega
        · exact h'.1 x hx

theorem FMap.sorted_put [DecidableEq β] (d : β) {m : FMap β} (k : Nat) (b : β) (h : FMap.sorted m = true) :
    FMap.sorted (FMap.put d m k b) = true := by
  unfold FMap.put; split
  · exact FMap.sorted_erase k h
  · exact FMap.sorted_insert k b h

theorem FMap.mem_put [DecidableEq β] {d : β} {m : FMap β} {k : Nat} {b : β} {x : Nat × β} (h : x ∈ FMap.put d m k b) :
    (x = (k, b) ∧ b ≠ d) ∨ x ∈ m := by
  unfold FMap.put at h; split at h
  · rw [FMap.erase_eq_filter] at h; exact .inr (List.mem_filter.1 h).1
  · rename_i ne
    rcases FMap.mem_insert h with h | h
    · exact .inl ⟨h, ne⟩
    · exact .inr h

theorem FMap.canon_put [DecidableEq β] {d : β} {m : FMap β} (k : Nat) (b : β) (h : FMap.canon d m = true) :
    FMap.canon d (FMap.put d m k b) = true := by
  rw [FMap.canon_iff] at h ⊢
  exact ⟨FMap.sorted_put d k b h.1, fun x hx => by
    rcases FMap.mem_put hx with ⟨rfl, ne⟩ | hx
    · exact ne
    · exact h.2 x hx⟩

theorem FMap.canon_filter [DecidableEq β] {d : β} (p : Nat × β → Bool) {m : FMap β} (h : FMap.canon d m = true) :
    FMap.canon d (m.filter p) = true := by
  rw [FMap.canon_iff] at h ⊢
  exact ⟨FMap.sorted_filter _ h.1, fun x hx => h.2 x (List.mem_filter.1 hx).1⟩

theorem FMap.canon_erase [DecidableEq β] {d : β} {m : FMap β} (k : Nat) (h : FMap.canon d m = true) :
    FMap.canon d (FMap.erase m k) = true := by
  rw [FMap.erase_eq_filter]; exact FMap.canon_filter _ h

theorem FMap.canon_putList [DecidableEq β] {d : β} (bs : List β) {m : FMap β} (k : Nat) (h : FMap.canon d m = true) :
    FMap.canon d (FMap.putList d m k bs) = true := by
  induction bs generalizing m k with
  | nil => exact h
  | cons b bs ih => exact ih _ (FMap.canon_put k b h)

theorem FMap.sorted_keep (p : Nat → Bool) {m : FMap β} (h : FMap.sorted m = true) : FMap.sorted (FMap.keep p m) = true :=
  FMap.sorted_filter _ h

theorem FMap.canon_keep [DecidableEq β] {d : β} (p : Nat → Bool) {m : FMap β} (h : FMap.canon d m = true) :
    FMap.canon d (FMap.keep p m) = true := FMap.canon_filter _ h

theorem FMap.sorted_clear {m : FMap β} (k n : Nat) (h : FMap.sorted m = true) : FMap.sorted (FMap.clear m k n) = true :=
  FMap.sorted_keep _ h

theorem FMap.canon_clear [DecidableEq β] {d : β} {m : FMap β} (k n : Nat) (h : FMap.canon d m = true) :
    FMap.canon d (FMap.clear m k n) = true := FMap.canon_keep _ h

theorem FMap.sorted_map {γ : Type} (f : Nat × β → γ) {m : FMap β} (h : FMap.sorted m = true) :
    FMap.sorted (m.map fun p => (p.1, f p)) = true := by
  rw [FMap.sorted_iff] at h ⊢
  exact List.pairwise_map.2 h

end Sys2Proof.Machine
end

