-- ==== Sys2Proof/Laws/State.lean ====
section
/-! SUPPORT. What each primitive operation leaves of each field of the state, and what a register, a tile or a context reads
as after it. -/

namespace Sys2Proof.Machine

open Sys2Proof

variable (s : State)

/-! ### Fields that an operation leaves -/

@[simp] theorem State.setReg_chron (a : Nat) (v : Word) : (s.setReg a v).chron = s.chron := rfl
@[simp] theorem State.setReg_free (a : Nat) (v : Word) : (s.setReg a v).free = s.free := rfl
@[simp] theorem State.setReg_mem (a : Nat) (v : Word) : (s.setReg a v).mem = s.mem := rfl
@[simp] theorem State.setReg_marks (a : Nat) (v : Word) : (s.setReg a v).marks = s.marks := rfl
@[simp] theorem State.setReg_tiles (a : Nat) (v : Word) : (s.setReg a v).tiles = s.tiles := rfl
@[simp] theorem State.setReg_ctxs (a : Nat) (v : Word) : (s.setReg a v).ctxs = s.ctxs := rfl
@[simp] theorem State.setReg_mail (a : Nat) (v : Word) : (s.setReg a v).mail = s.mail := rfl
@[simp] theorem State.setReg_mgmt (a : Nat) (v : Word) : (s.setReg a v).mgmt = s.mgmt := rfl
@[simp] theorem State.setReg_light (a : Nat) (v : Word) : (s.setReg a v).light = s.light := rfl
@[simp] theorem State.setReg_tables (a : Nat) (v : Word) : (s.setReg a v).tables = s.tables := rfl
@[simp] theorem State.setReg_sec (a : Nat) (v : Word) : (s.setReg a v).sec = s.sec := rfl
@[simp] theorem State.setReg_power (a : Nat) (v : Word) : (s.setReg a v).power = s.power := rfl
@[simp] theorem State.setReg_start (a : Nat) (v : Word) : (s.setReg a v).start = s.start := rfl
@[simp] theorem State.setReg_safety (a : Nat) (v : Word) : (s.setReg a v).safety = s.safety := rfl
@[simp] theorem State.setReg_debug (a : Nat) (v : Word) : (s.setReg a v).dbg = s.dbg := rfl
@[simp] theorem State.setReg_outside (a : Nat) (v : Word) : (s.setReg a v).outside = s.outside := rfl
@[simp] theorem State.setReg_pending (a : Nat) (v : Word) : (s.setReg a v).pending = s.pending := rfl

@[simp] theorem State.setField_chron (a lo w x : Nat) : (s.setField a lo w x).chron = s.chron := rfl
@[simp] theorem State.setField_free (a lo w x : Nat) : (s.setField a lo w x).free = s.free := rfl
@[simp] theorem State.setField_mem (a lo w x : Nat) : (s.setField a lo w x).mem = s.mem := rfl
@[simp] theorem State.setField_marks (a lo w x : Nat) : (s.setField a lo w x).marks = s.marks := rfl
@[simp] theorem State.setField_tiles (a lo w x : Nat) : (s.setField a lo w x).tiles = s.tiles := rfl
@[simp] theorem State.setField_ctxs (a lo w x : Nat) : (s.setField a lo w x).ctxs = s.ctxs := rfl
@[simp] theorem State.setField_mail (a lo w x : Nat) : (s.setField a lo w x).mail = s.mail := rfl
@[simp] theorem State.setField_mgmt (a lo w x : Nat) : (s.setField a lo w x).mgmt = s.mgmt := rfl
@[simp] theorem State.setField_light (a lo w x : Nat) : (s.setField a lo w x).light = s.light := rfl
@[simp] theorem State.setField_tables (a lo w x : Nat) : (s.setField a lo w x).tables = s.tables := rfl
@[simp] theorem State.setField_sec (a lo w x : Nat) : (s.setField a lo w x).sec = s.sec := rfl
@[simp] theorem State.setField_power (a lo w x : Nat) : (s.setField a lo w x).power = s.power := rfl
@[simp] theorem State.setField_start (a lo w x : Nat) : (s.setField a lo w x).start = s.start := rfl
@[simp] theorem State.setField_safety (a lo w x : Nat) : (s.setField a lo w x).safety = s.safety := rfl
@[simp] theorem State.setField_debug (a lo w x : Nat) : (s.setField a lo w x).dbg = s.dbg := rfl
@[simp] theorem State.setField_outside (a lo w x : Nat) : (s.setField a lo w x).outside = s.outside := rfl
@[simp] theorem State.setField_pending (a lo w x : Nat) : (s.setField a lo w x).pending = s.pending := rfl

@[simp] theorem State.orReg_chron (a m : Nat) : (s.orReg a m).chron = s.chron := rfl
@[simp] theorem State.orReg_free (a m : Nat) : (s.orReg a m).free = s.free := rfl
@[simp] theorem State.orReg_mem (a m : Nat) : (s.orReg a m).mem = s.mem := rfl
@[simp] theorem State.orReg_tiles (a m : Nat) : (s.orReg a m).tiles = s.tiles := rfl
@[simp] theorem State.orReg_ctxs (a m : Nat) : (s.orReg a m).ctxs = s.ctxs := rfl
@[simp] theorem State.orReg_mail (a m : Nat) : (s.orReg a m).mail = s.mail := rfl
@[simp] theorem State.orReg_mgmt (a m : Nat) : (s.orReg a m).mgmt = s.mgmt := rfl
@[simp] theorem State.orReg_light (a m : Nat) : (s.orReg a m).light = s.light := rfl
@[simp] theorem State.orReg_tables (a m : Nat) : (s.orReg a m).tables = s.tables := rfl
@[simp] theorem State.orReg_sec (a m : Nat) : (s.orReg a m).sec = s.sec := rfl
@[simp] theorem State.orReg_power (a m : Nat) : (s.orReg a m).power = s.power := rfl
@[simp] theorem State.orReg_start (a m : Nat) : (s.orReg a m).start = s.start := rfl
@[simp] theorem State.orReg_safety (a m : Nat) : (s.orReg a m).safety = s.safety := rfl
@[simp] theorem State.orReg_debug (a m : Nat) : (s.orReg a m).dbg = s.dbg := rfl
@[simp] theorem State.orReg_outside (a m : Nat) : (s.orReg a m).outside = s.outside := rfl
@[simp] theorem State.orReg_pending (a m : Nat) : (s.orReg a m).pending = s.pending := rfl

@[simp] theorem State.setTreg_chron (t o : Nat) (v : Word) : (s.setTreg t o v).chron = s.chron := rfl
@[simp] theorem State.setTreg_free (t o : Nat) (v : Word) : (s.setTreg t o v).free = s.free := rfl
@[simp] theorem State.setTreg_mem (t o : Nat) (v : Word) : (s.setTreg t o v).mem = s.mem := rfl
@[simp] theorem State.setTreg_marks (t o : Nat) (v : Word) : (s.setTreg t o v).marks = s.marks := rfl
@[simp] theorem State.setTreg_tiles (t o : Nat) (v : Word) : (s.setTreg t o v).tiles = s.tiles := rfl
@[simp] theorem State.setTreg_ctxs (t o : Nat) (v : Word) : (s.setTreg t o v).ctxs = s.ctxs := rfl
@[simp] theorem State.setTreg_mail (t o : Nat) (v : Word) : (s.setTreg t o v).mail = s.mail := rfl
@[simp] theorem State.setTreg_mgmt (t o : Nat) (v : Word) : (s.setTreg t o v).mgmt = s.mgmt := rfl
@[simp] theorem State.setTreg_light (t o : Nat) (v : Word) : (s.setTreg t o v).light = s.light := rfl
@[simp] theorem State.setTreg_tables (t o : Nat) (v : Word) : (s.setTreg t o v).tables = s.tables := rfl
@[simp] theorem State.setTreg_sec (t o : Nat) (v : Word) : (s.setTreg t o v).sec = s.sec := rfl
@[simp] theorem State.setTreg_power (t o : Nat) (v : Word) : (s.setTreg t o v).power = s.power := rfl
@[simp] theorem State.setTreg_start (t o : Nat) (v : Word) : (s.setTreg t o v).start = s.start := rfl
@[simp] theorem State.setTreg_safety (t o : Nat) (v : Word) : (s.setTreg t o v).safety = s.safety := rfl
@[simp] theorem State.setTreg_debug (t o : Nat) (v : Word) : (s.setTreg t o v).dbg = s.dbg := rfl
@[simp] theorem State.setTreg_outside (t o : Nat) (v : Word) : (s.setTreg t o v).outside = s.outside := rfl
@[simp] theorem State.setTreg_pending (t o : Nat) (v : Word) : (s.setTreg t o v).pending = s.pending := rfl

@[simp] theorem State.record_chron (a : Nat) (st : Status) : (s.record a st).chron = s.chron := rfl
@[simp] theorem State.record_free (a : Nat) (st : Status) : (s.record a st).free = s.free := rfl
@[simp] theorem State.record_mem (a : Nat) (st : Status) : (s.record a st).mem = s.mem := rfl
@[simp] theorem State.record_marks (a : Nat) (st : Status) : (s.record a st).marks = s.marks := rfl
@[simp] theorem State.record_tiles (a : Nat) (st : Status) : (s.record a st).tiles = s.tiles := rfl
@[simp] theorem State.record_ctxs (a : Nat) (st : Status) : (s.record a st).ctxs = s.ctxs := rfl
@[simp] theorem State.record_mail (a : Nat) (st : Status) : (s.record a st).mail = s.mail := rfl
@[simp] theorem State.record_mgmt (a : Nat) (st : Status) : (s.record a st).mgmt = s.mgmt := rfl
@[simp] theorem State.record_light (a : Nat) (st : Status) : (s.record a st).light = s.light := rfl
@[simp] theorem State.record_tables (a : Nat) (st : Status) : (s.record a st).tables = s.tables := rfl
@[simp] theorem State.record_sec (a : Nat) (st : Status) : (s.record a st).sec = s.sec := rfl
@[simp] theorem State.record_power (a : Nat) (st : Status) : (s.record a st).power = s.power := rfl
@[simp] theorem State.record_start (a : Nat) (st : Status) : (s.record a st).start = s.start := rfl
@[simp] theorem State.record_safety (a : Nat) (st : Status) : (s.record a st).safety = s.safety := rfl
@[simp] theorem State.record_debug (a : Nat) (st : Status) : (s.record a st).dbg = s.dbg := rfl
@[simp] theorem State.record_outside (a : Nat) (st : Status) : (s.record a st).outside = s.outside := rfl
@[simp] theorem State.record_pending (a : Nat) (st : Status) : (s.record a st).pending = s.pending := rfl

@[simp] theorem State.interrupt_chron (fn vec : Nat) : (s.interrupt fn vec).chron = s.chron := rfl
@[simp] theorem State.interrupt_free (fn vec : Nat) : (s.interrupt fn vec).free = s.free := rfl
@[simp] theorem State.interrupt_regs (fn vec : Nat) : (s.interrupt fn vec).regs = s.regs := rfl
@[simp] theorem State.interrupt_mem (fn vec : Nat) : (s.interrupt fn vec).mem = s.mem := rfl
@[simp] theorem State.interrupt_marks (fn vec : Nat) : (s.interrupt fn vec).marks = s.marks := rfl
@[simp] theorem State.interrupt_tiles (fn vec : Nat) : (s.interrupt fn vec).tiles = s.tiles := rfl
@[simp] theorem State.interrupt_ctxs (fn vec : Nat) : (s.interrupt fn vec).ctxs = s.ctxs := rfl
@[simp] theorem State.interrupt_mail (fn vec : Nat) : (s.interrupt fn vec).mail = s.mail := rfl
@[simp] theorem State.interrupt_mgmt (fn vec : Nat) : (s.interrupt fn vec).mgmt = s.mgmt := rfl
@[simp] theorem State.interrupt_light (fn vec : Nat) : (s.interrupt fn vec).light = s.light := rfl
@[simp] theorem State.interrupt_tables (fn vec : Nat) : (s.interrupt fn vec).tables = s.tables := rfl
@[simp] theorem State.interrupt_sec (fn vec : Nat) : (s.interrupt fn vec).sec = s.sec := rfl
@[simp] theorem State.interrupt_power (fn vec : Nat) : (s.interrupt fn vec).power = s.power := rfl
@[simp] theorem State.interrupt_start (fn vec : Nat) : (s.interrupt fn vec).start = s.start := rfl
@[simp] theorem State.interrupt_safety (fn vec : Nat) : (s.interrupt fn vec).safety = s.safety := rfl
@[simp] theorem State.interrupt_debug (fn vec : Nat) : (s.interrupt fn vec).dbg = s.dbg := rfl
@[simp] theorem State.interrupt_pending (fn vec : Nat) : (s.interrupt fn vec).pending = s.pending := rfl

@[simp] theorem State.setTile_chron (t : Nat) (x : TileState) : (s.setTile t x).chron = s.chron := rfl
@[simp] theorem State.setTile_free (t : Nat) (x : TileState) : (s.setTile t x).free = s.free := rfl
@[simp] theorem State.setTile_regs (t : Nat) (x : TileState) : (s.setTile t x).regs = s.regs := rfl
@[simp] theorem State.setTile_mem (t : Nat) (x : TileState) : (s.setTile t x).mem = s.mem := rfl
@[simp] theorem State.setTile_marks (t : Nat) (x : TileState) : (s.setTile t x).marks = s.marks := rfl
@[simp] theorem State.setTile_ctxs (t : Nat) (x : TileState) : (s.setTile t x).ctxs = s.ctxs := rfl
@[simp] theorem State.setTile_mail (t : Nat) (x : TileState) : (s.setTile t x).mail = s.mail := rfl
@[simp] theorem State.setTile_mgmt (t : Nat) (x : TileState) : (s.setTile t x).mgmt = s.mgmt := rfl
@[simp] theorem State.setTile_light (t : Nat) (x : TileState) : (s.setTile t x).light = s.light := rfl
@[simp] theorem State.setTile_tables (t : Nat) (x : TileState) : (s.setTile t x).tables = s.tables := rfl
@[simp] theorem State.setTile_sec (t : Nat) (x : TileState) : (s.setTile t x).sec = s.sec := rfl
@[simp] theorem State.setTile_power (t : Nat) (x : TileState) : (s.setTile t x).power = s.power := rfl
@[simp] theorem State.setTile_start (t : Nat) (x : TileState) : (s.setTile t x).start = s.start := rfl
@[simp] theorem State.setTile_safety (t : Nat) (x : TileState) : (s.setTile t x).safety = s.safety := rfl
@[simp] theorem State.setTile_debug (t : Nat) (x : TileState) : (s.setTile t x).dbg = s.dbg := rfl
@[simp] theorem State.setTile_outside (t : Nat) (x : TileState) : (s.setTile t x).outside = s.outside := rfl
@[simp] theorem State.setTile_pending (t : Nat) (x : TileState) : (s.setTile t x).pending = s.pending := rfl

@[simp] theorem State.onTile_chron (t : Nat) (f : TileState → TileState) : (s.onTile t f).chron = s.chron := rfl
@[simp] theorem State.onTile_free (t : Nat) (f : TileState → TileState) : (s.onTile t f).free = s.free := rfl
@[simp] theorem State.onTile_regs (t : Nat) (f : TileState → TileState) : (s.onTile t f).regs = s.regs := rfl
@[simp] theorem State.onTile_mem (t : Nat) (f : TileState → TileState) : (s.onTile t f).mem = s.mem := rfl
@[simp] theorem State.onTile_marks (t : Nat) (f : TileState → TileState) : (s.onTile t f).marks = s.marks := rfl
@[simp] theorem State.onTile_ctxs (t : Nat) (f : TileState → TileState) : (s.onTile t f).ctxs = s.ctxs := rfl
@[simp] theorem State.onTile_mail (t : Nat) (f : TileState → TileState) : (s.onTile t f).mail = s.mail := rfl
@[simp] theorem State.onTile_mgmt (t : Nat) (f : TileState → TileState) : (s.onTile t f).mgmt = s.mgmt := rfl
@[simp] theorem State.onTile_light (t : Nat) (f : TileState → TileState) : (s.onTile t f).light = s.light := rfl
@[simp] theorem State.onTile_tables (t : Nat) (f : TileState → TileState) : (s.onTile t f).tables = s.tables := rfl
@[simp] theorem State.onTile_sec (t : Nat) (f : TileState → TileState) : (s.onTile t f).sec = s.sec := rfl
@[simp] theorem State.onTile_power (t : Nat) (f : TileState → TileState) : (s.onTile t f).power = s.power := rfl
@[simp] theorem State.onTile_start (t : Nat) (f : TileState → TileState) : (s.onTile t f).start = s.start := rfl
@[simp] theorem State.onTile_safety (t : Nat) (f : TileState → TileState) : (s.onTile t f).safety = s.safety := rfl
@[simp] theorem State.onTile_debug (t : Nat) (f : TileState → TileState) : (s.onTile t f).dbg = s.dbg := rfl
@[simp] theorem State.onTile_outside (t : Nat) (f : TileState → TileState) : (s.onTile t f).outside = s.outside := rfl
@[simp] theorem State.onTile_pending (t : Nat) (f : TileState → TileState) : (s.onTile t f).pending = s.pending := rfl

@[simp] theorem State.onWork_chron (t : Nat) (f : Work → Work) : (s.onWork t f).chron = s.chron := rfl
@[simp] theorem State.onWork_free (t : Nat) (f : Work → Work) : (s.onWork t f).free = s.free := rfl
@[simp] theorem State.onWork_regs (t : Nat) (f : Work → Work) : (s.onWork t f).regs = s.regs := rfl
@[simp] theorem State.onWork_mem (t : Nat) (f : Work → Work) : (s.onWork t f).mem = s.mem := rfl
@[simp] theorem State.onWork_marks (t : Nat) (f : Work → Work) : (s.onWork t f).marks = s.marks := rfl
@[simp] theorem State.onWork_ctxs (t : Nat) (f : Work → Work) : (s.onWork t f).ctxs = s.ctxs := rfl
@[simp] theorem State.onWork_mail (t : Nat) (f : Work → Work) : (s.onWork t f).mail = s.mail := rfl
@[simp] theorem State.onWork_mgmt (t : Nat) (f : Work → Work) : (s.onWork t f).mgmt = s.mgmt := rfl
@[simp] theorem State.onWork_light (t : Nat) (f : Work → Work) : (s.onWork t f).light = s.light := rfl
@[simp] theorem State.onWork_tables (t : Nat) (f : Work → Work) : (s.onWork t f).tables = s.tables := rfl
@[simp] theorem State.onWork_sec (t : Nat) (f : Work → Work) : (s.onWork t f).sec = s.sec := rfl
@[simp] theorem State.onWork_power (t : Nat) (f : Work → Work) : (s.onWork t f).power = s.power := rfl
@[simp] theorem State.onWork_start (t : Nat) (f : Work → Work) : (s.onWork t f).start = s.start := rfl
@[simp] theorem State.onWork_safety (t : Nat) (f : Work → Work) : (s.onWork t f).safety = s.safety := rfl
@[simp] theorem State.onWork_debug (t : Nat) (f : Work → Work) : (s.onWork t f).dbg = s.dbg := rfl
@[simp] theorem State.onWork_outside (t : Nat) (f : Work → Work) : (s.onWork t f).outside = s.outside := rfl
@[simp] theorem State.onWork_pending (t : Nat) (f : Work → Work) : (s.onWork t f).pending = s.pending := rfl

@[simp] theorem State.onUpkeep_chron (t : Nat) (f : Upkeep → Upkeep) : (s.onUpkeep t f).chron = s.chron := rfl
@[simp] theorem State.onUpkeep_free (t : Nat) (f : Upkeep → Upkeep) : (s.onUpkeep t f).free = s.free := rfl
@[simp] theorem State.onUpkeep_regs (t : Nat) (f : Upkeep → Upkeep) : (s.onUpkeep t f).regs = s.regs := rfl
@[simp] theorem State.onUpkeep_mem (t : Nat) (f : Upkeep → Upkeep) : (s.onUpkeep t f).mem = s.mem := rfl
@[simp] theorem State.onUpkeep_marks (t : Nat) (f : Upkeep → Upkeep) : (s.onUpkeep t f).marks = s.marks := rfl
@[simp] theorem State.onUpkeep_ctxs (t : Nat) (f : Upkeep → Upkeep) : (s.onUpkeep t f).ctxs = s.ctxs := rfl
@[simp] theorem State.onUpkeep_mail (t : Nat) (f : Upkeep → Upkeep) : (s.onUpkeep t f).mail = s.mail := rfl
@[simp] theorem State.onUpkeep_mgmt (t : Nat) (f : Upkeep → Upkeep) : (s.onUpkeep t f).mgmt = s.mgmt := rfl
@[simp] theorem State.onUpkeep_light (t : Nat) (f : Upkeep → Upkeep) : (s.onUpkeep t f).light = s.light := rfl
@[simp] theorem State.onUpkeep_tables (t : Nat) (f : Upkeep → Upkeep) : (s.onUpkeep t f).tables = s.tables := rfl
@[simp] theorem State.onUpkeep_sec (t : Nat) (f : Upkeep → Upkeep) : (s.onUpkeep t f).sec = s.sec := rfl
@[simp] theorem State.onUpkeep_power (t : Nat) (f : Upkeep → Upkeep) : (s.onUpkeep t f).power = s.power := rfl
@[simp] theorem State.onUpkeep_start (t : Nat) (f : Upkeep → Upkeep) : (s.onUpkeep t f).start = s.start := rfl
@[simp] theorem State.onUpkeep_safety (t : Nat) (f : Upkeep → Upkeep) : (s.onUpkeep t f).safety = s.safety := rfl
@[simp] theorem State.onUpkeep_debug (t : Nat) (f : Upkeep → Upkeep) : (s.onUpkeep t f).dbg = s.dbg := rfl
@[simp] theorem State.onUpkeep_outside (t : Nat) (f : Upkeep → Upkeep) : (s.onUpkeep t f).outside = s.outside := rfl
@[simp] theorem State.onUpkeep_pending (t : Nat) (f : Upkeep → Upkeep) : (s.onUpkeep t f).pending = s.pending := rfl

@[simp] theorem State.setCtx_chron (c : Nat) (x : Ctx) : (s.setCtx c x).chron = s.chron := rfl
@[simp] theorem State.setCtx_free (c : Nat) (x : Ctx) : (s.setCtx c x).free = s.free := rfl
@[simp] theorem State.setCtx_regs (c : Nat) (x : Ctx) : (s.setCtx c x).regs = s.regs := rfl
@[simp] theorem State.setCtx_mem (c : Nat) (x : Ctx) : (s.setCtx c x).mem = s.mem := rfl
@[simp] theorem State.setCtx_marks (c : Nat) (x : Ctx) : (s.setCtx c x).marks = s.marks := rfl
@[simp] theorem State.setCtx_tiles (c : Nat) (x : Ctx) : (s.setCtx c x).tiles = s.tiles := rfl
@[simp] theorem State.setCtx_mail (c : Nat) (x : Ctx) : (s.setCtx c x).mail = s.mail := rfl
@[simp] theorem State.setCtx_mgmt (c : Nat) (x : Ctx) : (s.setCtx c x).mgmt = s.mgmt := rfl
@[simp] theorem State.setCtx_light (c : Nat) (x : Ctx) : (s.setCtx c x).light = s.light := rfl
@[simp] theorem State.setCtx_tables (c : Nat) (x : Ctx) : (s.setCtx c x).tables = s.tables := rfl
@[simp] theorem State.setCtx_sec (c : Nat) (x : Ctx) : (s.setCtx c x).sec = s.sec := rfl
@[simp] theorem State.setCtx_power (c : Nat) (x : Ctx) : (s.setCtx c x).power = s.power := rfl
@[simp] theorem State.setCtx_start (c : Nat) (x : Ctx) : (s.setCtx c x).start = s.start := rfl
@[simp] theorem State.setCtx_safety (c : Nat) (x : Ctx) : (s.setCtx c x).safety = s.safety := rfl
@[simp] theorem State.setCtx_debug (c : Nat) (x : Ctx) : (s.setCtx c x).dbg = s.dbg := rfl
@[simp] theorem State.setCtx_outside (c : Nat) (x : Ctx) : (s.setCtx c x).outside = s.outside := rfl
@[simp] theorem State.setCtx_pending (c : Nat) (x : Ctx) : (s.setCtx c x).pending = s.pending := rfl

@[simp] theorem State.onCtx_chron (c : Nat) (f : Ctx → Ctx) : (s.onCtx c f).chron = s.chron := by unfold State.onCtx; split <;> rfl
@[simp] theorem State.onCtx_free (c : Nat) (f : Ctx → Ctx) : (s.onCtx c f).free = s.free := by unfold State.onCtx; split <;> rfl
@[simp] theorem State.onCtx_regs (c : Nat) (f : Ctx → Ctx) : (s.onCtx c f).regs = s.regs := by unfold State.onCtx; split <;> rfl
@[simp] theorem State.onCtx_mem (c : Nat) (f : Ctx → Ctx) : (s.onCtx c f).mem = s.mem := by unfold State.onCtx; split <;> rfl
@[simp] theorem State.onCtx_tiles (c : Nat) (f : Ctx → Ctx) : (s.onCtx c f).tiles = s.tiles := by unfold State.onCtx; split <;> rfl
@[simp] theorem State.onCtx_mail (c : Nat) (f : Ctx → Ctx) : (s.onCtx c f).mail = s.mail := by unfold State.onCtx; split <;> rfl
@[simp] theorem State.onCtx_mgmt (c : Nat) (f : Ctx → Ctx) : (s.onCtx c f).mgmt = s.mgmt := by unfold State.onCtx; split <;> rfl
@[simp] theorem State.onCtx_light (c : Nat) (f : Ctx → Ctx) : (s.onCtx c f).light = s.light := by unfold State.onCtx; split <;> rfl
@[simp] theorem State.onCtx_tables (c : Nat) (f : Ctx → Ctx) : (s.onCtx c f).tables = s.tables := by unfold State.onCtx; split <;> rfl
@[simp] theorem State.onCtx_sec (c : Nat) (f : Ctx → Ctx) : (s.onCtx c f).sec = s.sec := by unfold State.onCtx; split <;> rfl
@[simp] theorem State.onCtx_power (c : Nat) (f : Ctx → Ctx) : (s.onCtx c f).power = s.power := by unfold State.onCtx; split <;> rfl
@[simp] theorem State.onCtx_start (c : Nat) (f : Ctx → Ctx) : (s.onCtx c f).start = s.start := by unfold State.onCtx; split <;> rfl
@[simp] theorem State.onCtx_safety (c : Nat) (f : Ctx → Ctx) : (s.onCtx c f).safety = s.safety := by unfold State.onCtx; split <;> rfl
@[simp] theorem State.onCtx_debug (c : Nat) (f : Ctx → Ctx) : (s.onCtx c f).dbg = s.dbg := by unfold State.onCtx; split <;> rfl
@[simp] theorem State.onCtx_outside (c : Nat) (f : Ctx → Ctx) : (s.onCtx c f).outside = s.outside := by unfold State.onCtx; split <;> rfl
@[simp] theorem State.onCtx_pending (c : Nat) (f : Ctx → Ctx) : (s.onCtx c f).pending = s.pending := by unfold State.onCtx; split <;> rfl

@[simp] theorem State.overflow_chron (a : Nat) : (s.overflow a).chron = s.chron := by grind [State.overflow, State.orReg_chron, State.interrupt_chron]
@[simp] theorem State.overflow_free (a : Nat) : (s.overflow a).free = s.free := by grind [State.overflow, State.orReg_free, State.interrupt_free]
@[simp] theorem State.overflow_mem (a : Nat) : (s.overflow a).mem = s.mem := by grind [State.overflow, State.orReg_mem, State.interrupt_mem]
@[simp] theorem State.overflow_tiles (a : Nat) : (s.overflow a).tiles = s.tiles := by grind [State.overflow, State.orReg_tiles, State.interrupt_tiles]
@[simp] theorem State.overflow_ctxs (a : Nat) : (s.overflow a).ctxs = s.ctxs := by grind [State.overflow, State.orReg_ctxs, State.interrupt_ctxs]
@[simp] theorem State.overflow_mail (a : Nat) : (s.overflow a).mail = s.mail := by grind [State.overflow, State.orReg_mail, State.interrupt_mail]
@[simp] theorem State.overflow_mgmt (a : Nat) : (s.overflow a).mgmt = s.mgmt := by grind [State.overflow, State.orReg_mgmt, State.interrupt_mgmt]
@[simp] theorem State.overflow_light (a : Nat) : (s.overflow a).light = s.light := by grind [State.overflow, State.orReg_light, State.interrupt_light]
@[simp] theorem State.overflow_tables (a : Nat) : (s.overflow a).tables = s.tables := by grind [State.overflow, State.orReg_tables, State.interrupt_tables]
@[simp] theorem State.overflow_sec (a : Nat) : (s.overflow a).sec = s.sec := by grind [State.overflow, State.orReg_sec, State.interrupt_sec]
@[simp] theorem State.overflow_power (a : Nat) : (s.overflow a).power = s.power := by grind [State.overflow, State.orReg_power, State.interrupt_power]
@[simp] theorem State.overflow_start (a : Nat) : (s.overflow a).start = s.start := by grind [State.overflow, State.orReg_start, State.interrupt_start]
@[simp] theorem State.overflow_safety (a : Nat) : (s.overflow a).safety = s.safety := by grind [State.overflow, State.orReg_safety, State.interrupt_safety]
@[simp] theorem State.overflow_debug (a : Nat) : (s.overflow a).dbg = s.dbg := by grind [State.overflow, State.orReg_debug, State.interrupt_debug]
@[simp] theorem State.overflow_pending (a : Nat) : (s.overflow a).pending = s.pending := by grind [State.overflow, State.orReg_pending, State.interrupt_pending]

@[simp] theorem State.count_chron (a n : Nat) : (s.count a n).chron = s.chron := by grind [State.count, State.overflow_chron, State.setReg_chron]
@[simp] theorem State.count_free (a n : Nat) : (s.count a n).free = s.free := by grind [State.count, State.overflow_free, State.setReg_free]
@[simp] theorem State.count_mem (a n : Nat) : (s.count a n).mem = s.mem := by grind [State.count, State.overflow_mem, State.setReg_mem]
@[simp] theorem State.count_tiles (a n : Nat) : (s.count a n).tiles = s.tiles := by grind [State.count, State.overflow_tiles, State.setReg_tiles]
@[simp] theorem State.count_ctxs (a n : Nat) : (s.count a n).ctxs = s.ctxs := by grind [State.count, State.overflow_ctxs, State.setReg_ctxs]
@[simp] theorem State.count_mail (a n : Nat) : (s.count a n).mail = s.mail := by grind [State.count, State.overflow_mail, State.setReg_mail]
@[simp] theorem State.count_mgmt (a n : Nat) : (s.count a n).mgmt = s.mgmt := by grind [State.count, State.overflow_mgmt, State.setReg_mgmt]
@[simp] theorem State.count_light (a n : Nat) : (s.count a n).light = s.light := by grind [State.count, State.overflow_light, State.setReg_light]
@[simp] theorem State.count_tables (a n : Nat) : (s.count a n).tables = s.tables := by grind [State.count, State.overflow_tables, State.setReg_tables]
@[simp] theorem State.count_sec (a n : Nat) : (s.count a n).sec = s.sec := by grind [State.count, State.overflow_sec, State.setReg_sec]
@[simp] theorem State.count_power (a n : Nat) : (s.count a n).power = s.power := by grind [State.count, State.overflow_power, State.setReg_power]
@[simp] theorem State.count_start (a n : Nat) : (s.count a n).start = s.start := by grind [State.count, State.overflow_start, State.setReg_start]
@[simp] theorem State.count_safety (a n : Nat) : (s.count a n).safety = s.safety := by grind [State.count, State.overflow_safety, State.setReg_safety]
@[simp] theorem State.count_debug (a n : Nat) : (s.count a n).dbg = s.dbg := by grind [State.count, State.overflow_debug, State.setReg_debug]
@[simp] theorem State.count_pending (a n : Nat) : (s.count a n).pending = s.pending := by grind [State.count, State.overflow_pending, State.setReg_pending]

@[simp] theorem State.tcount_chron (t o n : Nat) : (s.tcount t o n).chron = s.chron := by simp [State.tcount]
@[simp] theorem State.tcount_free (t o n : Nat) : (s.tcount t o n).free = s.free := by simp [State.tcount]
@[simp] theorem State.tcount_mem (t o n : Nat) : (s.tcount t o n).mem = s.mem := by simp [State.tcount]
@[simp] theorem State.tcount_tiles (t o n : Nat) : (s.tcount t o n).tiles = s.tiles := by simp [State.tcount]
@[simp] theorem State.tcount_ctxs (t o n : Nat) : (s.tcount t o n).ctxs = s.ctxs := by simp [State.tcount]
@[simp] theorem State.tcount_mail (t o n : Nat) : (s.tcount t o n).mail = s.mail := by simp [State.tcount]
@[simp] theorem State.tcount_mgmt (t o n : Nat) : (s.tcount t o n).mgmt = s.mgmt := by simp [State.tcount]
@[simp] theorem State.tcount_light (t o n : Nat) : (s.tcount t o n).light = s.light := by simp [State.tcount]
@[simp] theorem State.tcount_tables (t o n : Nat) : (s.tcount t o n).tables = s.tables := by simp [State.tcount]
@[simp] theorem State.tcount_sec (t o n : Nat) : (s.tcount t o n).sec = s.sec := by simp [State.tcount]
@[simp] theorem State.tcount_power (t o n : Nat) : (s.tcount t o n).power = s.power := by simp [State.tcount]
@[simp] theorem State.tcount_start (t o n : Nat) : (s.tcount t o n).start = s.start := by simp [State.tcount]
@[simp] theorem State.tcount_safety (t o n : Nat) : (s.tcount t o n).safety = s.safety := by simp [State.tcount]
@[simp] theorem State.tcount_debug (t o n : Nat) : (s.tcount t o n).dbg = s.dbg := by simp [State.tcount]
@[simp] theorem State.tcount_pending (t o n : Nat) : (s.tcount t o n).pending = s.pending := by simp [State.tcount]

@[simp] theorem State.clearRegs_chron (as : List Nat) : (s.clearRegs as).chron = s.chron := by unfold State.clearRegs; induction as generalizing s with | nil => rfl | cons a l ih => simpa using ih (s.setReg a 0)
@[simp] theorem State.clearRegs_free (as : List Nat) : (s.clearRegs as).free = s.free := by unfold State.clearRegs; induction as generalizing s with | nil => rfl | cons a l ih => simpa using ih (s.setReg a 0)
@[simp] theorem State.clearRegs_mem (as : List Nat) : (s.clearRegs as).mem = s.mem := by unfold State.clearRegs; induction as generalizing s with | nil => rfl | cons a l ih => simpa using ih (s.setReg a 0)
@[simp] theorem State.clearRegs_tiles (as : List Nat) : (s.clearRegs as).tiles = s.tiles := by unfold State.clearRegs; induction as generalizing s with | nil => rfl | cons a l ih => simpa using ih (s.setReg a 0)
@[simp] theorem State.clearRegs_ctxs (as : List Nat) : (s.clearRegs as).ctxs = s.ctxs := by unfold State.clearRegs; induction as generalizing s with | nil => rfl | cons a l ih => simpa using ih (s.setReg a 0)
@[simp] theorem State.clearRegs_mail (as : List Nat) : (s.clearRegs as).mail = s.mail := by unfold State.clearRegs; induction as generalizing s with | nil => rfl | cons a l ih => simpa using ih (s.setReg a 0)
@[simp] theorem State.clearRegs_mgmt (as : List Nat) : (s.clearRegs as).mgmt = s.mgmt := by unfold State.clearRegs; induction as generalizing s with | nil => rfl | cons a l ih => simpa using ih (s.setReg a 0)
@[simp] theorem State.clearRegs_light (as : List Nat) : (s.clearRegs as).light = s.light := by unfold State.clearRegs; induction as generalizing s with | nil => rfl | cons a l ih => simpa using ih (s.setReg a 0)
@[simp] theorem State.clearRegs_tables (as : List Nat) : (s.clearRegs as).tables = s.tables := by unfold State.clearRegs; induction as generalizing s with | nil => rfl | cons a l ih => simpa using ih (s.setReg a 0)
@[simp] theorem State.clearRegs_sec (as : List Nat) : (s.clearRegs as).sec = s.sec := by unfold State.clearRegs; induction as generalizing s with | nil => rfl | cons a l ih => simpa using ih (s.setReg a 0)
@[simp] theorem State.clearRegs_power (as : List Nat) : (s.clearRegs as).power = s.power := by unfold State.clearRegs; induction as generalizing s with | nil => rfl | cons a l ih => simpa using ih (s.setReg a 0)
@[simp] theorem State.clearRegs_start (as : List Nat) : (s.clearRegs as).start = s.start := by unfold State.clearRegs; induction as generalizing s with | nil => rfl | cons a l ih => simpa using ih (s.setReg a 0)
@[simp] theorem State.clearRegs_safety (as : List Nat) : (s.clearRegs as).safety = s.safety := by unfold State.clearRegs; induction as generalizing s with | nil => rfl | cons a l ih => simpa using ih (s.setReg a 0)
@[simp] theorem State.clearRegs_debug (as : List Nat) : (s.clearRegs as).dbg = s.dbg := by unfold State.clearRegs; induction as generalizing s with | nil => rfl | cons a l ih => simpa using ih (s.setReg a 0)
@[simp] theorem State.clearRegs_outside (as : List Nat) : (s.clearRegs as).outside = s.outside := by unfold State.clearRegs; induction as generalizing s with | nil => rfl | cons a l ih => simpa using ih (s.setReg a 0)
@[simp] theorem State.clearRegs_pending (as : List Nat) : (s.clearRegs as).pending = s.pending := by unfold State.clearRegs; induction as generalizing s with | nil => rfl | cons a l ih => simpa using ih (s.setReg a 0)

/-! ### Reads after writes -/

@[simp] theorem State.reg_setReg_same (a : Nat) (v : Word) : (s.setReg a v).reg a = v := by
  simp [State.reg, State.setReg]

theorem State.reg_setReg_other (a b : Nat) (v : Word) (h : b ≠ a) : (s.setReg a v).reg b = s.reg b := by
  simp only [State.reg, State.setReg]; exact FMap.get_put_other _ _ _ _ _ _ h

@[simp] theorem State.tile_setTile_same (t : Nat) (x : TileState) : (s.setTile t x).tile t = x := by
  simp [State.tile, State.setTile]

theorem State.tile_setTile_other (t u : Nat) (x : TileState) (h : u ≠ t) : (s.setTile t x).tile u = s.tile u := by
  simp only [State.tile, State.setTile]; exact FMap.get_put_other _ _ _ _ _ _ h

@[simp] theorem State.tile_onTile_same (t : Nat) (f : TileState → TileState) : (s.onTile t f).tile t = f (s.tile t) := by
  simp [State.onTile]

theorem State.tile_onTile_other (t u : Nat) (f : TileState → TileState) (h : u ≠ t) : (s.onTile t f).tile u = s.tile u :=
  s.tile_setTile_other t u _ h

@[simp] theorem State.ctx?_setCtx_same (c : Nat) (x : Ctx) : (s.setCtx c x).ctx? c = some x := by
  simp [State.ctx?, State.setCtx, FMap.find?_insert_same]

theorem State.ctx?_setCtx_other (c d : Nat) (x : Ctx) (h : d ≠ c) : (s.setCtx c x).ctx? d = s.ctx? d := by
  simp only [State.ctx?, State.setCtx]; exact FMap.find?_insert_other _ _ _ _ h

/-! ### Reads that an operation leaves -/

@[simp] theorem State.tile_setReg (a : Nat) (v : Word) (t : Nat) : (s.setReg a v).tile t = s.tile t := rfl
@[simp] theorem State.ctx?_setReg (a : Nat) (v : Word) (c : Nat) : (s.setReg a v).ctx? c = s.ctx? c := rfl
@[simp] theorem State.reg_setTile (t : Nat) (x : TileState) (a : Nat) : (s.setTile t x).reg a = s.reg a := rfl
@[simp] theorem State.reg_onTile (t : Nat) (f : TileState → TileState) (a : Nat) : (s.onTile t f).reg a = s.reg a := rfl
@[simp] theorem State.ctx?_setTile (t : Nat) (x : TileState) (c : Nat) : (s.setTile t x).ctx? c = s.ctx? c := rfl
@[simp] theorem State.ctx?_onTile (t : Nat) (f : TileState → TileState) (c : Nat) : (s.onTile t f).ctx? c = s.ctx? c := rfl
@[simp] theorem State.reg_setCtx (c : Nat) (x : Ctx) (a : Nat) : (s.setCtx c x).reg a = s.reg a := rfl
@[simp] theorem State.tile_setCtx (c : Nat) (x : Ctx) (t : Nat) : (s.setCtx c x).tile t = s.tile t := rfl
@[simp] theorem State.reg_interrupt (fn vec a : Nat) : (s.interrupt fn vec).reg a = s.reg a := rfl

end Sys2Proof.Machine
end

