-- ==== Sys2Proof/Laws/Keeps.lean ====
section
/-! SUPPORT. What every operation keeps: the queue of waiting commands, the invariant, and the fused minimum version; the operations over registers, memory, the host and steps. -/

set_option Elab.async false
set_option linter.unusedTactic false
set_option linter.unreachableTactic false

namespace Sys2Proof.Machine

open Sys2Proof

variable {s0 s : State}

/-- What every command and every operation keeps: the queue of waiting commands, and the invariant; the fused minimum version
never falls, and the safe state stays. -/
structure Keeps (s t : State) : Prop where
  queue : t.pending = s.pending
  inv : s.Inv → t.Inv
  fused : s.Inv → s.sec.fused ≤ t.sec.fused
  safe : s.safety.safe = true → t.safety.safe = true

theorem Keeps.refl (s : State) : Keeps s s := ⟨rfl, id, fun _ => le_refl _, id⟩

theorem Keeps.trans {t u : State} (h : Keeps s t) (k : Keeps t u) : Keeps s u :=
  ⟨k.queue.trans h.queue, k.inv ∘ h.inv, fun i => (h.fused i).trans (k.fused (h.inv i)), k.safe ∘ h.safe⟩

theorem keeps_pair {α : Type} {x : State × α} {s1 : State} {a : α} (e : x = (s1, a)) (h : Keeps s0 x.1) : Keeps s0 s1 := by
  subst e; exact h

/-! ### Fields that the invariant does not read -/

theorem Keeps.chron (x) (h : Keeps s0 s) : Keeps s0 { s with chron := x } := ⟨h.queue, fun i => { h.inv i with }, h.fused, h.safe⟩
theorem Keeps.free (x) (h : Keeps s0 s) : Keeps s0 { s with free := x } := ⟨h.queue, fun i => { h.inv i with }, h.fused, h.safe⟩
theorem Keeps.mail (x) (h : Keeps s0 s) : Keeps s0 { s with mail := x } := ⟨h.queue, fun i => { h.inv i with }, h.fused, h.safe⟩
theorem Keeps.mgmt (x) (h : Keeps s0 s) : Keeps s0 { s with mgmt := x } := ⟨h.queue, fun i => { h.inv i with }, h.fused, h.safe⟩
theorem Keeps.light (x) (h : Keeps s0 s) : Keeps s0 { s with light := x } := ⟨h.queue, fun i => { h.inv i with }, h.fused, h.safe⟩
theorem Keeps.marks (x) (h : Keeps s0 s) : Keeps s0 { s with marks := x } := ⟨h.queue, fun i => { h.inv i with }, h.fused, h.safe⟩
theorem Keeps.tables (x) (h : Keeps s0 s) : Keeps s0 { s with tables := x } := ⟨h.queue, fun i => { h.inv i with }, h.fused, h.safe⟩
theorem Keeps.outside (x) (h : Keeps s0 s) : Keeps s0 { s with outside := x } := ⟨h.queue, fun i => { h.inv i with }, h.fused, h.safe⟩

/-! ### Fields of which it reads a part -/

theorem Keeps.mem (x) (h : Keeps s0 s) (hx : s.mem.wf → x.wf) : Keeps s0 { s with mem := x } :=
  ⟨h.queue, fun i => { h.inv i with mem := hx (h.inv i).mem }, h.fused, h.safe⟩

theorem Keeps.safety (x) (h : Keeps s0 s) (hx : s.safety.ring.length ≤ 1024 → x.ring.length ≤ 1024)
    (hy : s.safety.retained.length ≤ 16 → x.retained.length ≤ 16) (hz : s.safety.safe = true → x.safe = true) :
    Keeps s0 { s with safety := x } :=
  ⟨h.queue, fun i => { h.inv i with ring := hx (h.inv i).ring, retained := hy (h.inv i).retained }, h.fused, hz ∘ h.safe⟩

theorem Keeps.power (x) (h : Keeps s0 s) (hx : x.phase = s.power.phase) : Keeps s0 { s with power := x } :=
  ⟨h.queue, fun i => { h.inv i with phase := by have := (h.inv i).phase; simp only [hx]; exact this }, h.fused, h.safe⟩

theorem Keeps.start (x) (h : Keeps s0 s) (hx : x.resetLow = s.start.resetLow) : Keeps s0 { s with start := x } :=
  ⟨h.queue, fun i => { h.inv i with pins := by have := (h.inv i).pins; simp only [hx]; exact this }, h.fused, h.safe⟩

theorem Keeps.dbg (x) (h : Keeps s0 s) (hx : x.pins = s.dbg.pins) : Keeps s0 { s with dbg := x } :=
  ⟨h.queue, fun i => { h.inv i with pins := by have := (h.inv i).pins; simp only [hx]; exact this }, h.fused, h.safe⟩

theorem Keeps.sec (x) (h : Keeps s0 s) (hf : s.sec.fused ≤ x.fused)
    (hx : (∀ v, s.sec.cmd = some (.svn v) → s.sec.fused ≤ v) → ∀ v, x.cmd = some (.svn v) → x.fused ≤ v) : Keeps s0 { s with sec := x } :=
  ⟨h.queue, fun i => { h.inv i with fuse := hx (h.inv i).fuse }, fun i => (h.fused i).trans hf, h.safe⟩

theorem Keeps.tiles (x) (h : Keeps s0 s) (hx : FMap.sorted s.tiles → FMap.sorted x) : Keeps s0 { s with tiles := x } :=
  ⟨h.queue, fun i => { h.inv i with tiles := hx (h.inv i).tiles }, h.fused, h.safe⟩

theorem Keeps.ctxs (x) (h : Keeps s0 s) (hx : FMap.sorted s.ctxs → FMap.sorted x) : Keeps s0 { s with ctxs := x } :=
  ⟨h.queue, fun i => { h.inv i with ctxs := hx (h.inv i).ctxs }, h.fused, h.safe⟩

theorem Keeps.regs (x) (h : Keeps s0 s) (hx : regsWf s.regs → regsWf x) : Keeps s0 { s with regs := x } :=
  ⟨h.queue, fun i => { h.inv i with regs := hx (h.inv i).regs }, h.fused, h.safe⟩

/-- An update of several fields at once. -/
theorem Keeps.fields {t : State} (h : Keeps s0 s) (q : t.pending = s.pending) (m : t.mem.wf = true ∨ t.mem = s.mem)
    (r : t.regs = [] ∨ t.regs = s.regs) (ti : t.tiles = [] ∨ t.tiles = s.tiles) (cs : t.ctxs = [] ∨ t.ctxs = s.ctxs)
    (ri : t.safety.ring = [] ∨ t.safety.ring = s.safety.ring) (re : t.safety.retained = [] ∨ t.safety.retained = s.safety.retained)
    (se : t.sec = s.sec ∨ (t.sec.cmd = none ∧ t.sec.fused = s.sec.fused)) (ph : t.power.phase = 1 ∨ t.power.phase = s.power.phase)
    (pi : t.dbg.pins = .service ∨ t.start.resetLow = true ∨ (t.dbg.pins = s.dbg.pins ∧ t.start.resetLow = s.start.resetLow))
    (sa : s.safety.safe = true → t.safety.safe = true) : Keeps s0 t :=
  ⟨q.trans h.queue, fun i => by
    have i := h.inv i
    exact {
      mem := by rcases m with m | m <;> simp [m, i.mem]
      regs := by rcases r with r | r <;> simp [r, i.regs]; simp [regsWf]
      tiles := by rcases ti with e | e <;> simp [e, i.tiles]
      ctxs := by rcases cs with e | e <;> simp [e, i.ctxs]
      ring := by rcases ri with e | e <;> simp [e, i.ring]
      retained := by rcases re with e | e <;> simp [e, i.retained]
      phase := by rcases ph with e | e <;> simp [e]; exact i.phase
      pins := by
        rcases pi with e | e | ⟨e, e2⟩
        · simp [e]
        · simp [e]
        · rw [e, e2]; exact i.pins
      fuse := by
        rcases se with e | ⟨e, -⟩
        · rw [e]; exact i.fuse
        · simp [e] }, fun i => by
    rcases se with e | ⟨-, e⟩ <;> (rw [e]; exact h.fused i), sa ∘ h.safe⟩

theorem foldl_keeps {α : Type} (f : State → α → State) (l : List α) (h : Keeps s0 s)
    (hf : ∀ acc x, Keeps s0 acc → Keeps s0 (f acc x)) : Keeps s0 (l.foldl f s) := by
  induction l generalizing s with
  | nil => exact h
  | cons a l ih => exact ih (hf s a h)

theorem foldl_keeps_fst {α β : Type} (f : State × β → α → State × β) (l : List α) (r : State × β) (h : Keeps s0 r.1)
    (hf : ∀ acc x, Keeps s0 acc.1 → Keeps s0 (f acc x).1) : Keeps s0 (l.foldl f r).1 := by
  induction l generalizing r with
  | nil => exact h
  | cons a l ih => exact ih _ (hf r a h)

theorem foldl_keeps_snd {α β : Type} (f : β × State → α → β × State) (l : List α) (r : β × State) (h : Keeps s0 r.2)
    (hf : ∀ acc x, Keeps s0 acc.2 → Keeps s0 (f acc x).2) : Keeps s0 (l.foldl f r).2 := by
  induction l generalizing r with
  | nil => exact h
  | cons a l ih => exact ih _ (hf r a h)

/-- The state of a pair is kept: the pair itself is not looked into. -/
def KeepsR {α : Type} (s0 : State) (r : State × α) : Prop := Keeps s0 r.1

theorem KeepsR.fst {α : Type} {r : State × α} (h : KeepsR s0 r) : Keeps s0 r.1 := h

/-! ### Ops -/

theorem regsWf_put {m : FMap Word} (a : Nat) (v : Word) (h : regsWf m = true) : regsWf (FMap.put (resetAt a) m a v) = true := by
  simp only [regsWf, Bool.and_eq_true, List.all_eq_true, decide_eq_true_eq] at h ⊢
  exact ⟨FMap.sorted_put _ _ _ h.1, fun x hx => by
    rcases FMap.mem_put hx with ⟨rfl, ne⟩ | hx
    · exact ne
    · exact h.2 x hx⟩

theorem regsWf_keep {m : FMap Word} (p : Nat → Bool) (h : regsWf m = true) : regsWf (FMap.keep p m) = true := by
  simp only [regsWf, Bool.and_eq_true, List.all_eq_true, decide_eq_true_eq] at h ⊢
  exact ⟨FMap.sorted_keep _ h.1, fun x hx => h.2 x (List.mem_filter.1 hx).1⟩

theorem State.setReg_keeps (a v) (h : Keeps s0 s) : Keeps s0 (s.setReg a v) := h.regs _ (regsWf_put a v)

theorem State.setField_keeps (a : Nat) (lo : Nat) (w : Nat) (x : Nat) (h : Keeps s0 s) : Keeps s0 (s.setField a lo w x) := by
  unfold State.setField
  with_reducible repeat' first | assumption | apply State.setReg_keeps | split | dsimp only | intro

theorem State.orReg_keeps (a : Nat) (m : Nat) (h : Keeps s0 s) : Keeps s0 (s.orReg a m) := by
  unfold State.orReg
  with_reducible repeat' first | assumption | apply State.setReg_keeps | apply Keeps.marks | rfl | exact id | split | dsimp only | intro

theorem State.setTreg_keeps (t : Nat) (o : Nat) (v : Word) (h : Keeps s0 s) : Keeps s0 (s.setTreg t o v) := by
  unfold State.setTreg
  with_reducible repeat' first | assumption | apply State.setReg_keeps | split | dsimp only | intro

theorem State.record_keeps (a : Nat) (st : Status) (h : Keeps s0 s) : Keeps s0 (s.record a st) := by
  unfold State.record
  with_reducible repeat' first | assumption | apply State.setField_keeps | split | dsimp only | intro

theorem State.interrupt_keeps (fn : Nat) (vec : Nat) (h : Keeps s0 s) : Keeps s0 (s.interrupt fn vec) := by
  grind [State.interrupt, Keeps.outside]

theorem State.overflow_keeps (a : Nat) (h : Keeps s0 s) : Keeps s0 (s.overflow a) := by
  unfold State.overflow
  with_reducible repeat' first | assumption | apply State.interrupt_keeps | apply State.orReg_keeps | split | dsimp only | intro

theorem State.count_keeps (a : Nat) (n : Nat) (h : Keeps s0 s) : Keeps s0 (s.count a n) := by
  unfold State.count
  with_reducible repeat' first | assumption | apply State.overflow_keeps | apply State.setReg_keeps | split | dsimp only | intro

theorem State.tcount_keeps (t : Nat) (o : Nat) (n : Nat) (h : Keeps s0 s) : Keeps s0 (s.tcount t o n) := by
  unfold State.tcount
  with_reducible repeat' first | assumption | apply State.count_keeps | split | dsimp only | intro

theorem State.clearRegs_keeps (as : List Nat) (h : Keeps s0 s) : Keeps s0 (s.clearRegs as) := by
  grind [State.clearRegs, State.setReg_keeps, Keeps.marks, foldl_keeps, foldl_keeps_fst, foldl_keeps_snd]

theorem State.setTile_keeps (t x) (h : Keeps s0 s) : Keeps s0 (s.setTile t x) := h.tiles _ (FMap.sorted_put _ _ _)

theorem State.onTile_keeps (t : Nat) (f : TileState → TileState) (h : Keeps s0 s) : Keeps s0 (s.onTile t f) := by
  unfold State.onTile
  with_reducible repeat' first | assumption | apply State.setTile_keeps | split | dsimp only | intro

theorem State.setCtx_keeps (c x) (h : Keeps s0 s) : Keeps s0 (s.setCtx c x) := h.ctxs _ (FMap.sorted_insert _ _)

theorem State.onCtx_keeps (c : Nat) (f : Ctx → Ctx) (h : Keeps s0 s) : Keeps s0 (s.onCtx c f) := by
  unfold State.onCtx
  with_reducible repeat' first | assumption | apply State.setCtx_keeps | split | dsimp only | intro

theorem State.onWork_keeps (t : Nat) (f : Work → Work) (h : Keeps s0 s) : Keeps s0 (s.onWork t f) := by
  unfold State.onWork
  with_reducible repeat' first | assumption | apply State.onTile_keeps | split | dsimp only | intro

theorem State.onUpkeep_keeps (t : Nat) (f : Upkeep → Upkeep) (h : Keeps s0 s) : Keeps s0 (s.onUpkeep t f) := by
  unfold State.onUpkeep
  with_reducible repeat' first | assumption | apply State.onTile_keeps | split | dsimp only | intro

theorem State.draw_keeps  (h : Keeps s0 s) : Keeps s0 (s.draw).2 := by
  grind [State.draw, Keeps.free]

theorem State.acted_keeps (row : Nat) (h : Keeps s0 s) : Keeps s0 (s.acted row) := by
  unfold State.acted
  with_reducible repeat' first | assumption | apply Keeps.power | rfl | exact id | split | dsimp only | intro

/-! ### Observe -/

theorem State.sendPacket_keeps (p : List Word) (h : Keeps s0 s) : Keeps s0 (s.sendPacket p) :=
  (State.count_keeps _ _ h).dbg _ (by simp)

theorem State.buffer_keeps (t : Nat) (p : List Word) (h : Keeps s0 s) : Keeps s0 (s.buffer t p) := by
  unfold State.buffer
  dsimp only
  split
  · exact (State.count_keeps _ _ h).dbg _ (by simp)
  · exact (State.onUpkeep_keeps t _ h).dbg _ rfl

theorem State.emit_keeps (e : Event) (h : Keeps s0 s) : Keeps s0 (s.emit e) := by
  grind [State.emit, State.buffer_keeps, State.sendPacket_keeps]

theorem State.trigger_keeps (cause : Nat) (wp : Nat) (seq : Nat) (h : Keeps s0 s) : Keeps s0 (s.trigger cause wp seq) := by
  unfold State.trigger
  with_reducible repeat' first | assumption | apply State.count_keeps | apply State.orReg_keeps | apply State.setReg_keeps | split | dsimp only | intro

theorem State.hit_keeps (n : Nat) (ctx : Nat) (lo : Nat) (tile : Option Nat) (h : Keeps s0 s) : Keeps s0 (s.hit n ctx lo tile) := by
  unfold State.hit
  with_reducible repeat' first | assumption | apply State.count_keeps | apply State.emit_keeps | apply State.trigger_keeps | split | dsimp only | intro

theorem State.watch_keeps (ctx : Nat) (k : Touch) (xs : List Span) (h : Keeps s0 s) : Keeps s0 (s.watch ctx k xs) := by
  grind [State.watch, State.hit_keeps, foldl_keeps, foldl_keeps_fst, foldl_keeps_snd]

theorem mergeRing_length (w0 now : Word) (n : Nat) (rs out : List (List Word)) (h : mergeRing w0 now n rs = some out) :
    out.length = rs.length := by
  revert out
  fun_induction mergeRing w0 now n rs <;> grind [Option.map_eq_some_iff]

theorem State.log_keeps (f : Fault495) (h : Keeps s0 s) : Keeps s0 (s.log f) := by
  unfold State.log
  dsimp only
  split
  · next ring e => exact h.safety _ (fun i => by simpa [mergeRing_length _ _ _ _ _ e] using i) (by simp) id
  · grind [State.emit_keeps, State.interrupt_keeps, State.trigger_keeps, Keeps.safety, State.interrupt_safety]

theorem State.logIf_keeps (f : Fault495) (h : Keeps s0 s) : Keeps s0 (s.logIf f) := by
  unfold State.logIf
  with_reducible repeat' first | assumption | apply State.log_keeps | split | dsimp only | intro

/-! ### Write -/

theorem State.wrongSize_keeps (a : Nat) (h : Keeps s0 s) : Keeps s0 (s.wrongSize a) := by
  grind [State.wrongSize, State.record_keeps]

theorem State.turnedAway_keeps (fn a : Nat) (h : Keeps s0 s) (s1 : State) (e : s.turnedAway fn a = some s1) : Keeps s0 s1 := by
  grind [State.turnedAway, State.record_keeps, State.count_keeps, State.log_keeps]

theorem State.write_keeps (a w k) (h : Keeps s0 s) (hk : ∀ s v m, Keeps s0 s → Keeps s0 (k s v m)) : Keeps s0 (s.write a w k) := by
  grind [State.write, State.wrongSize_keeps, State.turnedAway_keeps]

/-! ### Access -/

theorem State.setPa_keeps (a : Nat) (bs : List Byte) (h : Keeps s0 s) : Keeps s0 (s.setPa a bs) := by
  grind [State.setPa, Keeps.mem, Memory.wf, FMap.canon_put, FMap.canon_clear, FMap.sorted_nil, FMap.canon_putList, FMap.canon_erase, FMap.canon_keep, FMap.sorted_clear, FMap.sorted_insert, FMap.sorted_erase, FMap.canon_nil]

theorem State.setPa64_keeps (a : Nat) (v : Word) (h : Keeps s0 s) : Keeps s0 (s.setPa64 a v) := by
  unfold State.setPa64
  with_reducible repeat' first | assumption | apply State.setPa_keeps | split | dsimp only | intro

theorem State.noteFlaw_keeps (pa : Nat) (st : Status) (h : Keeps s0 s) : Keeps s0 (s.noteFlaw pa st) := by
  unfold State.noteFlaw
  with_reducible repeat' first | assumption | apply State.count_keeps | apply State.log_keeps | apply State.orReg_keeps | apply State.setReg_keeps | split | dsimp only | intro

theorem State.noteXlat_keeps (c : Nat) (cause : Nat) (cva : Nat) (h : Keeps s0 s) : Keeps s0 (s.noteXlat c cause cva) := by
  unfold State.noteXlat
  with_reducible repeat' first | assumption | apply State.setReg_keeps | split | dsimp only | intro

theorem State.blamePa_keeps (a : Nat) (h : Keeps s0 s) : Keeps s0 (s.blamePa a) := by
  grind [State.blamePa, Keeps.marks]

theorem State.deviceParts_keeps (c root : Nat) (k : Touch) (l : List (Nat × Nat)) (h : Keeps s0 s) : Keeps s0 (s.deviceParts c root k l).1 := by
  revert h
  fun_induction State.deviceParts s c root k l <;> grind [State.noteFlaw_keeps, State.noteXlat_keeps, State.blamePa_keeps]

theorem State.cvaParts_keeps (c : Nat) (cva : Nat) (n : Nat) (k : Touch) (h : Keeps s0 s) : Keeps s0 (s.cvaParts c cva n k).1 := by
  grind [State.cvaParts, State.deviceParts_keeps]

theorem State.globalParts_keeps (c : Nat) (ga : Nat) (n : Nat) (k : Touch) (h : Keeps s0 s) : Keeps s0 (s.globalParts c ga n k).1 := by
  unfold State.globalParts
  with_reducible repeat' first | assumption | apply State.cvaParts_keeps | split | dsimp only | intro

theorem State.operandParts_keeps (c : Nat) (o : Operand) (off : Nat) (n : Nat) (k : Touch) (h : Keeps s0 s) : Keeps s0 (s.operandParts c o off n k).1 := by
  unfold State.operandParts
  with_reducible repeat' first | assumption | apply State.cvaParts_keeps | apply State.globalParts_keeps | split | dsimp only | intro

theorem State.markFrame_keeps (leaf : Nat) (i : Nat) (h : Keeps s0 s) : Keeps s0 (s.markFrame leaf i) := by
  unfold State.markFrame
  with_reducible repeat' first | assumption | apply State.count_keeps | apply State.setPa64_keeps | split | dsimp only | intro

theorem State.markDirty_keeps (leaf : Option Nat) (poff n : Nat) (h : Keeps s0 s) : Keeps s0 (s.markDirty leaf poff n) := by
  unfold State.markDirty
  split
  · exact h
  · dsimp only
    split
    · exact h
    · exact foldl_keeps _ _ h fun acc i h => State.markFrame_keeps _ _ h

theorem FMap.sorted_foldl_insert {β : Type} (f : Nat → Nat) (g : Nat → β) (l : List Nat) {m : FMap β} (h : FMap.sorted m = true) :
    FMap.sorted (l.foldl (fun c i => FMap.insert c (f i) (g i)) m) = true := by
  induction l generalizing m with
  | nil => exact h
  | cons a l ih => exact ih (FMap.sorted_insert _ _ h)

theorem State.cacheStore_keeps (p a bs) (h : Keeps s0 s) : Keeps s0 (s.cacheStore p a bs) :=
  h.mem _ fun i => by
    simp only [Memory.wf, Bool.and_eq_true] at i ⊢
    exact ⟨⟨i.1.1, FMap.sorted_foldl_insert _ _ _ i.1.2⟩, FMap.canon_put _ _ i.2⟩

theorem State.healBlock_keeps (b : Nat) (h : Keeps s0 s) : Keeps s0 (s.healBlock b) := by
  grind [State.healBlock, State.setReg_keeps, Keeps.mem, State.setReg_mem, Memory.wf, FMap.canon_put, FMap.canon_clear, FMap.sorted_nil, FMap.canon_putList, FMap.canon_erase, FMap.canon_keep, FMap.sorted_clear, FMap.sorted_insert, FMap.sorted_erase, FMap.canon_nil, foldl_keeps, foldl_keeps_fst, foldl_keeps_snd]

theorem State.writeBack_keeps (line : Nat) (h : Keeps s0 s) : Keeps s0 (s.writeBack line) := by
  unfold State.writeBack
  split
  · exact h
  · refine foldl_keeps _ _ ?_ fun acc x h => State.markDirty_keeps _ _ _ h
    refine Keeps.mem (s := List.foldl _ (s.healBlock line) (List.range 64)) _ ?_ ?_
    · refine foldl_keeps _ _ (State.healBlock_keeps _ h) fun acc x h => ?_
      split
      · exact h.mem _ fun i => by
          simp only [Memory.wf, Bool.and_eq_true] at i ⊢
          exact ⟨⟨⟨⟨⟨FMap.canon_put _ _ i.1.1.1.1.1, i.1.1.1.1.2⟩, i.1.1.1.2⟩, i.1.1.2⟩, FMap.sorted_erase _ i.1.2⟩, i.2⟩
      · exact h
    · intro i
      simp only [Memory.wf, Bool.and_eq_true] at i ⊢
      exact ⟨i.1, FMap.canon_erase _ i.2⟩

theorem State.writeBackAll_keeps (lines : List Nat) (h : Keeps s0 s) : Keeps s0 (s.writeBackAll lines) := by
  unfold State.writeBackAll
  with_reducible repeat' first | assumption | apply State.writeBack_keeps | apply foldl_keeps | apply foldl_keeps_fst | apply foldl_keeps_snd | split | dsimp only | intro

theorem State.flushCaches_keeps  (h : Keeps s0 s) : Keeps s0 (s.flushCaches) := by
  unfold State.flushCaches
  with_reducible repeat' first | assumption | apply State.writeBackAll_keeps | split | dsimp only | intro

theorem State.supersede_keeps (a : Nat) (n : Nat) (h : Keeps s0 s) : Keeps s0 (s.supersede a n) := by
  grind [State.supersede, Keeps.mem, Memory.wf, FMap.canon_put, FMap.canon_clear, FMap.sorted_nil, FMap.canon_putList, FMap.canon_erase, FMap.canon_keep, FMap.sorted_clear, FMap.sorted_insert, FMap.sorted_erase, FMap.canon_nil]

theorem State.loseUnit_keeps (mid : Bool) (n : Nat) (h : Keeps s0 s) : Keeps s0 (s.loseUnit mid n) := by
  unfold State.loseUnit
  with_reducible repeat' first | assumption | apply State.setField_keeps | split | dsimp only | intro

theorem State.loseLine_keeps (c : Nat) (line : Nat) (h : Keeps s0 s) : Keeps s0 (s.loseLine c line) := by
  unfold State.loseLine
  with_reducible repeat' first | assumption | apply State.log_keeps | apply State.loseUnit_keeps | apply State.orReg_keeps | apply State.record_keeps | apply State.setReg_keeps | split | dsimp only | intro

theorem State.dropLine_keeps (line : Nat) (h : Keeps s0 s) : Keeps s0 (s.dropLine line) := by
  grind [State.dropLine, Keeps.mem, Memory.wf, FMap.canon_put, FMap.canon_clear, FMap.sorted_nil, FMap.canon_putList, FMap.canon_erase, FMap.canon_keep, FMap.sorted_clear, FMap.sorted_insert, FMap.sorted_erase, FMap.canon_nil]

theorem State.cacheError_keeps (t : Nat) (c : Nat) (line : Nat) (tag : Bool) (h : Keeps s0 s) : Keeps s0 (s.cacheError t c line tag) := by
  unfold State.cacheError
  with_reducible repeat' first | assumption | apply State.dropLine_keeps | apply State.loseLine_keeps | apply State.orReg_keeps | split | dsimp only | intro

theorem State.noteSp_keeps (t : Nat) (off : Nat) (ctx : Nat) (h : Keeps s0 s) : Keeps s0 (s.noteSp t off ctx) := by
  unfold State.noteSp
  with_reducible repeat' first | assumption | apply State.log_keeps | apply State.orReg_keeps | apply State.setTreg_keeps | split | dsimp only | intro

theorem State.spWrite_keeps (t : Nat) (off : Nat) (bs : List Byte) (h : Keeps s0 s) : Keeps s0 (s.spWrite t off bs) := by
  unfold State.spWrite
  with_reducible repeat' first | assumption | apply State.onTile_keeps | split | dsimp only | intro

theorem FMap.canon_foldl {α β : Type} [DecidableEq β] (d : β) (f : FMap β → α → FMap β) (l : List α) {m : FMap β} (h : FMap.canon d m = true)
    (hf : ∀ m x, FMap.canon d m = true → FMap.canon d (f m x) = true) : FMap.canon d (l.foldl f m) = true := by
  induction l generalizing m with
  | nil => exact h
  | cons a l ih => exact ih (hf _ _ h)

theorem State.hostWrite_keeps (space : Nat) (a : Nat) (bs : List Byte) (h : Keeps s0 s) : Keeps s0 (s.hostWrite space a bs) :=
  h.mem _ fun i => by
    simp only [Memory.wf, Bool.and_eq_true] at i ⊢
    refine ⟨⟨⟨⟨i.1.1.1.1, FMap.canon_foldl _ _ _ i.1.1.1.2 fun m x hm => ?_⟩, i.1.1.2⟩, i.1.2⟩, i.2⟩
    split
    · exact hm
    · exact FMap.canon_putList _ _ hm

theorem State.corrected_keeps (a : Nat) (h : Keeps s0 s) : Keeps s0 (s.corrected a) := by
  unfold State.corrected
  with_reducible repeat' first | assumption | apply State.count_keeps | apply State.orReg_keeps | split | dsimp only | intro

theorem State.spoilBlock_keeps (a : Nat) (h : Keeps s0 s) : Keeps s0 (s.spoilBlock a) := by
  grind [State.spoilBlock, Keeps.mem, Memory.wf, FMap.canon_put, FMap.canon_clear, FMap.sorted_nil, FMap.canon_putList, FMap.canon_erase, FMap.canon_keep, FMap.sorted_clear, FMap.sorted_insert, FMap.sorted_erase, FMap.canon_nil]

theorem State.timedOut_keeps (n : Nat) (h : Keeps s0 s) : Keeps s0 (s.timedOut n) := by
  unfold State.timedOut
  with_reducible repeat' first | assumption | apply State.count_keeps | apply State.orReg_keeps | split | dsimp only | intro

theorem State.timedOutOpen_keeps (t : Nat) (h : Keeps s0 s) : Keeps s0 (s.timedOutOpen t) := by
  grind [State.timedOutOpen, State.onUpkeep_keeps, State.timedOut_keeps]

theorem State.countLate_keeps (tier : Nat) (h : Keeps s0 s) : Keeps s0 (s.countLate tier) := by
  grind [State.countLate, State.count_keeps]

theorem State.blame_keeps (ps : List Part) (h : Keeps s0 s) : Keeps s0 (s.blame ps) := by
  cases ps with
  | nil => exact h
  | cons p l => exact h.marks _

theorem State.meet_keeps (t : Nat) (c : Nat) (helm : Bool) (h' : Hazard) (k : Touch) (ps : List Part) (h : Keeps s0 s) : Keeps s0 (s.meet t c helm h' k ps).1 := by
  unfold State.meet
  with_reducible repeat' first | assumption | apply State.blame_keeps | apply State.cacheError_keeps | apply State.corrected_keeps | apply State.countLate_keeps | apply State.noteFlaw_keeps | apply State.orReg_keeps | apply State.spoilBlock_keeps | apply State.timedOutOpen_keeps | split | dsimp only | intro

theorem State.touch_keeps (c : Nat) (k : Touch) (ps : List Part) (h : Keeps s0 s) : Keeps s0 (s.touch c k ps) := by
  grind [State.touch, State.watch_keeps]

theorem State.fetchPart_keeps (c : Nat) (helm : Bool) (p : Part) (h : Keeps s0 s) : Keeps s0 (s.fetchPart c helm p).1 := by
  grind [State.fetchPart, State.blame_keeps, State.blamePa_keeps, State.count_keeps, State.noteFlaw_keeps, State.noteSp_keeps, Keeps.free]

theorem State.fetchParts_keeps (c : Nat) (helm : Bool) (z1 : List Part) (h : Keeps s0 s) : Keeps s0 (s.fetchParts c helm z1).1 := by
  revert h
  fun_induction State.fetchParts s c helm z1 <;> grind [State.fetchPart_keeps]

theorem State.readParts_keeps (c : Nat) (helm : Bool) (ps : List Part) (h : Keeps s0 s) : Keeps s0 (s.readParts c helm ps).1 := by
  unfold State.readParts
  with_reducible repeat' first | assumption | apply State.fetchParts_keeps | apply State.touch_keeps | split | dsimp only | intro

theorem State.readPart_keeps (c : Nat) (helm : Bool) (p : Part) (h : Keeps s0 s) : Keeps s0 (s.readPart c helm p).1 := by
  grind [State.readPart, State.fetchPart_keeps, State.touch_keeps]

theorem State.refuseWrite_keeps (c : Nat) (p : Part) (h : Keeps s0 s) (x : State × Status) (e : s.refuseWrite c p = some x) : Keeps s0 x.1 := by
  have blamed : ∀ (u : State) (st : Status), Keeps s0 u → (u.blame [p], st) = x → Keeps s0 x.1 := by
    rintro u st hu rfl
    show Keeps s0 (u.blame [p])
    exact State.blame_keeps _ hu
  unfold State.refuseWrite at e
  split at e
  · obtain ⟨w, -, e⟩ := Option.map_eq_some_iff.1 e
    exact blamed _ _ (State.noteSp_keeps _ _ _ h) e
  · obtain ⟨w, -, rfl⟩ := Option.map_eq_some_iff.1 e
    split
    · exact (State.blamePa_keeps (s := s.noteFlaw _ _) _ (State.noteFlaw_keeps _ _ h) :)
    · exact (State.blamePa_keeps _ h :)
  · split at e
    · cases e
    · exact blamed _ _ h (Option.some.inj e)
  · split at e
    · cases e
    · exact blamed _ _ h (Option.some.inj e)
  · cases e

theorem findSome?_keeps {α β : Type} (f : α → Option (State × β)) (l : List α) (x : State × β) (e : l.findSome? f = some x)
    (hf : ∀ a x, f a = some x → Keeps s0 x.1) : Keeps s0 x.1 := by
  obtain ⟨a, -, ha⟩ := List.exists_of_findSome?_eq_some e
  exact hf a x ha

theorem State.putPart_keeps (p bs) (h : Keeps s0 s) : Keeps s0 (s.putPart p bs) := by
  have far : ∀ b, Keeps s0 { s with mem := { s.mem with far := FMap.putList 0 s.mem.far b bs } } := fun b => h.mem _ fun i => by
    simp only [Memory.wf, Bool.and_eq_true] at i ⊢
    exact ⟨⟨⟨⟨⟨i.1.1.1.1.1, FMap.canon_putList _ _ i.1.1.1.1.2⟩, i.1.1.1.2⟩, i.1.1.2⟩, i.1.2⟩, i.2⟩
  unfold State.putPart
  split
  · exact State.spWrite_keeps _ _ _ h
  · exact State.markDirty_keeps _ _ _ (State.setPa_keeps _ _ (State.supersede_keeps _ _
      (foldl_keeps _ _ h fun acc x h => State.healBlock_keeps _ h)))
  · exact State.markDirty_keeps _ _ _ (far _)
  · exact State.hostWrite_keeps _ _ _ h
  · exact h

theorem State.putParts_keeps (z1 : List Part) (z2 : List Byte) (h : Keeps s0 s) : Keeps s0 (s.putParts z1 z2) := by
  revert h
  fun_induction State.putParts s z1 z2 <;> grind [State.putPart_keeps]

theorem State.storeParts_keeps (c ps bs) (h : Keeps s0 s) : Keeps s0 (s.storeParts c ps bs).1 := by
  unfold State.storeParts
  split
  · rename_i x e
    exact findSome?_keeps _ _ x e fun p x => State.refuseWrite_keeps c p h x
  · exact State.putParts_keeps _ _ h

theorem State.storeSeq_keeps (c : Nat) (xs : List (List Part × List Byte)) (h : Keeps s0 s) (s1 : State) (e : s.storeSeq c xs = .ok s1) :
    Keeps s0 s1 := by
  revert h
  fun_induction State.storeSeq s c xs <;> grind [State.putParts_keeps]

theorem State.storeUnit_keeps (c : Nat) (xs : List (List Part × List Byte)) (h : Keeps s0 s) : Keeps s0 (s.storeUnit c xs).1 := by
  unfold State.storeUnit
  split
  · next s1 e => exact State.storeSeq_keeps c xs h s1 e
  · split
    · next x e => exact State.refuseWrite_keeps c _ h x e
    · exact h

theorem State.writeParts_keeps (c : Nat) (k : Touch) (ps : List Part) (bs : List Byte) (h : Keeps s0 s) : Keeps s0 (s.writeParts c k ps bs).1 := by
  grind [State.writeParts, State.storeParts_keeps, State.touch_keeps]

theorem State.writePart_keeps (c k p bs) (h : Keeps s0 s) : Keeps s0 (s.writePart c k p bs).1 := State.writeParts_keeps _ _ _ _ h

/-! ### HostOps -/

theorem State.putLog_keeps (e : List Word) (h : Keeps s0 s) : Keeps s0 (s.putLog e) := by
  unfold State.putLog
  with_reducible repeat' first | assumption | apply State.hostWrite_keeps | apply Keeps.mgmt | rfl | exact id | split | dsimp only | intro

theorem State.drainEvents_keeps (z1 : Nat) (h : Keeps s0 s) : Keeps s0 (State.drainEvents z1 s) := by
  revert h
  fun_induction State.drainEvents z1 s <;> grind [State.putLog_keeps, Keeps.mgmt]

theorem State.event_keeps (e : List Word) (h : Keeps s0 s) : Keeps s0 (s.event e) := by
  grind [State.event, State.count_keeps, State.drainEvents_keeps, Keeps.mgmt, State.count_mgmt]

theorem State.enterFaulted_keeps (c : Nat) (st : Status) (h : Keeps s0 s) : Keeps s0 (s.enterFaulted c st) := by
  unfold State.enterFaulted
  with_reducible repeat' first | assumption | apply State.event_keeps | apply State.onCtx_keeps | split | dsimp only | intro

theorem State.tryStatusLine_keeps (c : Nat) (h : Keeps s0 s) : Keeps s0 (s.tryStatusLine c).1 := by
  unfold State.tryStatusLine
  with_reducible repeat' first | assumption | apply State.count_keeps | apply State.hostWrite_keeps | split | dsimp only | intro

theorem State.statusLine_keeps (c : Nat) (h : Keeps s0 s) : Keeps s0 (s.statusLine c) := by
  grind [State.statusLine, State.enterFaulted_keeps, State.tryStatusLine_keeps]

theorem State.faultCtx_keeps (c : Nat) (st : Status) (h : Keeps s0 s) : Keeps s0 (s.faultCtx c st) := by
  unfold State.faultCtx
  with_reducible repeat' first | assumption | apply State.enterFaulted_keeps | apply State.statusLine_keeps | split | dsimp only | intro

theorem State.putCompletion_keeps (c : Nat) (i : Nat) (ws : List Word) (irq : Bool) (h : Keeps s0 s) : Keeps s0 (s.putCompletion c i ws irq) := by
  unfold State.putCompletion
  with_reducible repeat' first | assumption | apply State.count_keeps | apply State.emit_keeps | apply State.enterFaulted_keeps | apply State.hostWrite_keeps | apply State.interrupt_keeps | apply State.onCtx_keeps | apply State.statusLine_keeps | split | dsimp only | intro

/-! ### Operands -/

theorem State.lineParts_keeps (c : Nat) (o : Operand) (g : Geo) (k : Touch) (z1 : List Nat) (h : Keeps s0 s) : Keeps s0 (s.lineParts c o g k z1).1 := by
  revert h
  fun_induction State.lineParts s c o g k z1 <;> grind [State.operandParts_keeps]

theorem State.geoParts_keeps (c : Nat) (o : Operand) (g : Geo) (k : Touch) (h : Keeps s0 s) : Keeps s0 (s.geoParts c o g k).1 := by
  unfold State.geoParts
  with_reducible repeat' first | assumption | apply State.lineParts_keeps | split | dsimp only | intro

theorem State.readLines_keeps (c : Nat) (z1 : List (List Part)) (h : Keeps s0 s) : Keeps s0 (s.readLines c z1).1 := by
  revert h
  fun_induction State.readLines s c z1 <;> grind [State.readParts_keeps]

theorem State.writeLines_keeps (c : Nat) (ps : List (List Part)) (bs : List (List Byte)) (h : Keeps s0 s) : Keeps s0 (s.writeLines c ps bs).1 := by
  grind [State.writeLines, State.storeUnit_keeps, State.touch_keeps, State.write_keeps, foldl_keeps, foldl_keeps_fst, foldl_keeps_snd]

theorem State.partsIf_keeps (c : Nat) (o : Operand) (g : Geo) (k : Touch) (h : Keeps s0 s) : Keeps s0 (s.partsIf c o g k).1 := by
  unfold State.partsIf
  with_reducible repeat' first | assumption | apply State.geoParts_keeps | split | dsimp only | intro

/-! ### Counters -/

theorem State.allocSet_keeps (t : Nat) (c : Nat) (h : Keeps s0 s) : Keeps s0 (s.allocSet t c) := by
  unfold State.allocSet
  with_reducible repeat' first | assumption | apply State.onWork_keeps | split | dsimp only | intro

theorem State.addCounter_keeps (t : Nat) (c : Nat) (k : Nat) (n : Nat) (h : Keeps s0 s) : Keeps s0 (s.addCounter t c k n) := by
  unfold State.addCounter
  with_reducible repeat' first | assumption | apply State.onWork_keeps | split | dsimp only | intro

theorem State.dropSet_keeps (t : Nat) (c : Nat) (h : Keeps s0 s) : Keeps s0 (s.dropSet t c) := by
  unfold State.dropSet
  with_reducible repeat' first | assumption | apply State.onWork_keeps | split | dsimp only | intro

theorem State.restoreCounters_keeps (t : Nat) (c : Nat) (wp : FMap (BitVec 32)) (h : Keeps s0 s) : Keeps s0 (s.restoreCounters t c wp) := by
  unfold State.restoreCounters
  with_reducible repeat' first | assumption | apply State.onWork_keeps | split | dsimp only | intro

/-! ### Device -/

theorem State.nearPages_keeps (c : Nat) (root : Nat) (quiet : Bool) (z1 : List (Nat × Nat)) (h : Keeps s0 s) : Keeps s0 (s.nearPages c root quiet z1).1 := by
  revert h
  fun_induction State.nearPages s c root quiet z1 <;> grind [State.blamePa_keeps, State.noteFlaw_keeps, State.noteXlat_keeps]

theorem State.nearParts_keeps (c : Nat) (root : Nat) (cva : Nat) (n : Nat) (h : Keeps s0 s) : Keeps s0 (s.nearParts c root cva n).1 := by
  unfold State.nearParts
  with_reducible repeat' first | assumption | apply State.nearPages_keeps | apply State.noteXlat_keeps | split | dsimp only | intro

theorem State.devRead_keeps (c : Nat) (cva : Nat) (n : Nat) (h : Keeps s0 s) : Keeps s0 (s.devRead c cva n).1 := by
  grind [State.devRead, State.nearParts_keeps, State.readParts_keeps]

theorem State.devWrite_keeps (c : Nat) (cva : Nat) (bs : List Byte) (h : Keeps s0 s) : Keeps s0 (s.devWrite c cva bs).1 := by
  grind [State.devWrite, State.nearParts_keeps, State.write_keeps, State.writeParts_keeps]

theorem State.checkedParts_keeps (c : Nat) (o : Operand) (n : Nat) (k : Touch) (h : Keeps s0 s) : Keeps s0 (s.checkedParts c o n k).1 := by
  unfold State.checkedParts
  with_reducible repeat' first | assumption | apply State.operandParts_keeps | split | dsimp only | intro

theorem State.copyBytes_keeps (c : Nat) (src : Operand) (dst : Operand) (n : Nat) (h : Keeps s0 s) : Keeps s0 (s.copyBytes c src dst n).1 := by
  unfold State.copyBytes
  (repeat' split) <;> grind [State.checkedParts_keeps, State.readParts_keeps, State.write_keeps, State.writeParts_keeps]

theorem State.copySaves_keeps (c : Nat) (back : Bool) (z1 : List Save) (h : Keeps s0 s) : Keeps s0 (s.copySaves c back z1).1 := by
  revert h
  fun_induction State.copySaves s c back z1 <;> grind [State.copyBytes_keeps]

theorem State.convertOperand_keeps (c : Nat) (mode : Rnd) (a : Operand) (ga : Geo) (d : Operand) (gd : Geo) (h : Keeps s0 s) : Keeps s0 (s.convertOperand c mode a ga d gd).1 := by
  unfold State.convertOperand
  (repeat' split) <;> grind [State.geoParts_keeps, State.readLines_keeps, State.write_keeps, State.writeLines_keeps]

theorem State.convertBatch_keeps (c : Nat) (t : Nat) (m : Desc) (k : Desc) (z1 : List Nat) (h : Keeps s0 s) : Keeps s0 (s.convertBatch c t m k z1).1 := by
  revert h
  fun_induction State.convertBatch s c t m k z1 <;> grind [State.convertOperand_keeps]

theorem State.recomputeOne_keeps (c : Nat) (t : Nat) (ws : List Word) (h : Keeps s0 s) : Keeps s0 (s.recomputeOne c t ws).1 := by
  unfold State.recomputeOne
  with_reducible repeat' first | assumption | apply State.convertBatch_keeps | split | dsimp only | intro

theorem State.recompute_keeps (c : Nat) (t : Nat) (z1 : List (List Word)) (h : Keeps s0 s) : Keeps s0 (s.recompute c t z1).1 := by
  revert h
  fun_induction State.recompute s c t z1 <;> grind [State.recomputeOne_keeps]

/-! ### Home -/

theorem State.onStep_keeps (c : Nat) (no : BitVec 32) (f : Step → Step) (h : Keeps s0 s) : Keeps s0 (s.onStep c no f) := by
  unfold State.onStep
  with_reducible repeat' first | assumption | apply State.onCtx_keeps | split | dsimp only | intro

theorem State.onTally_keeps (c : Nat) (no : BitVec 32) (f : Tally → Tally) (h : Keeps s0 s) : Keeps s0 (s.onTally c no f) := by
  unfold State.onTally
  with_reducible repeat' first | assumption | apply State.onStep_keeps | split | dsimp only | intro

theorem State.onHomeSlot_keeps (c : Nat) (f : Slot → Slot) (h : Keeps s0 s) : Keeps s0 (s.onHomeSlot c f) := by
  unfold State.onHomeSlot
  with_reducible repeat' first | assumption | apply State.onTile_keeps | split | dsimp only | intro

theorem State.stopCode_keeps (c : Nat) (no : BitVec 32) (h : Keeps s0 s) : Keeps s0 (s.stopCode c no) := by
  unfold State.stopCode
  with_reducible repeat' first | assumption | apply State.onHomeSlot_keeps | split | dsimp only | intro

theorem State.sendFlush_keeps (c : Nat) (p : Step) (replay : Bool) (h : Keeps s0 s) : Keeps s0 (s.sendFlush c p replay) := by
  grind [State.sendFlush, State.onStep_keeps, State.stopCode_keeps, Keeps.mail]

theorem State.endStep_keeps (c : Nat) (no : BitVec 32) (st : Status) (h : Keeps s0 s) : Keeps s0 (s.endStep c no st) := by
  unfold State.endStep
  with_reducible repeat' first | assumption | apply State.onStep_keeps | split | dsimp only | intro

theorem State.rootSteps_keeps (c : Nat) (h : Keeps s0 s) : Keeps s0 (s.rootSteps c) := by
  unfold State.rootSteps
  with_reducible repeat' first | assumption | apply State.onCtx_keeps | split | dsimp only | intro

theorem State.backCounters_keeps (c : Nat) (p : Step) (h : Keeps s0 s) : Keeps s0 (s.backCounters c p) := by
  grind [State.backCounters, State.restoreCounters_keeps, Keeps.mail, foldl_keeps, foldl_keeps_fst, foldl_keeps_snd]

theorem State.stopStep_keeps (c : Nat) (p : Step) (h : Keeps s0 s) : Keeps s0 (s.stopStep c p) := by
  unfold State.stopStep
  with_reducible repeat' first | assumption | apply State.backCounters_keeps | apply State.onStep_keeps | split | dsimp only | intro

theorem State.flushOff_keeps (c : Nat) (no : BitVec 32) (h : Keeps s0 s) : Keeps s0 (s.flushOff c no) := by
  unfold State.flushOff
  with_reducible repeat' first | assumption | apply State.sendFlush_keeps | apply State.stopStep_keeps | split | dsimp only | intro

theorem State.abortOthers_keeps (c : Nat) (no : BitVec 32) (st : Status) (h : Keeps s0 s) : Keeps s0 (s.abortOthers c no st) := by
  unfold State.abortOthers
  with_reducible repeat' first | assumption | apply State.flushOff_keeps | apply State.onStep_keeps | apply State.onTally_keeps | apply foldl_keeps | apply foldl_keeps_fst | apply foldl_keeps_snd | split | dsimp only | intro

theorem State.countReplay_keeps (c : Nat) (cause : Status) (h : Keeps s0 s) : Keeps s0 (s.countReplay c cause) := by
  unfold State.countReplay
  with_reducible repeat' first | assumption | apply State.tcount_keeps | split | dsimp only | intro

theorem State.limitReached_keeps (c : Nat) (no : BitVec 32) (o : Origin) (h : Keeps s0 s) : Keeps s0 (s.limitReached c no o) := by
  unfold State.limitReached
  with_reducible repeat' first | assumption | apply State.onTally_keeps | apply State.tcount_keeps | split | dsimp only | intro

theorem State.faultWith_keeps (c : Nat) (no : BitVec 32) (st : Status) (h : Keeps s0 s) : Keeps s0 (s.faultWith c no st) := by
  unfold State.faultWith
  with_reducible repeat' first | assumption | apply State.abortOthers_keeps | apply State.faultCtx_keeps | apply State.rootSteps_keeps | split | dsimp only | intro

theorem State.restore_keeps (z1 : Nat) (z2 : Nat) (z3 : Nat) (z4 : BitVec 32) (h : Keeps s0 s) : Keeps s0 (State.restore z1 s z2 z3 z4) := by
  revert h
  fun_induction State.restore z1 s z2 z3 z4 <;> grind [State.copySaves_keeps, State.countReplay_keeps, State.endStep_keeps, State.faultWith_keeps, State.limitReached_keeps, State.onStep_keeps, State.onTally_keeps, State.recompute_keeps]

theorem State.flushed_keeps (c : Nat) (no : BitVec 32) (h : Keeps s0 s) : Keeps s0 (s.flushed c no) := by
  unfold State.flushed
  (repeat' split) <;> grind [State.backCounters_keeps, State.restore_keeps, State.stopStep_keeps]

theorem State.flushStep_keeps (c : Nat) (no : BitVec 32) (replay : Bool) (h : Keeps s0 s) : Keeps s0 (s.flushStep c no replay) := by
  unfold State.flushStep
  with_reducible repeat' first | assumption | apply State.flushed_keeps | apply State.sendFlush_keeps | split | dsimp only | intro

theorem State.abortLater_keeps (c : Nat) (no : BitVec 32) (wp : FMap (BitVec 32)) (h : Keeps s0 s) : Keeps s0 (s.abortLater c no wp) := by
  unfold State.abortLater
  with_reducible repeat' first | assumption | apply State.flushStep_keeps | apply State.onStep_keeps | apply foldl_keeps | apply foldl_keeps_fst | apply foldl_keeps_snd | split | dsimp only | intro

theorem State.abortStep_keeps (c : Nat) (no : BitVec 32) (replay : Bool) (h : Keeps s0 s) : Keeps s0 (s.abortStep c no replay) := by
  unfold State.abortStep
  with_reducible repeat' first | assumption | apply State.abortLater_keeps | apply State.flushStep_keeps | split | dsimp only | intro

theorem State.failStep_keeps (c : Nat) (p : Step) (st : Status) (o : Origin) (h : Keeps s0 s) : Keeps s0 (s.failStep c p st o) := by
  unfold State.failStep
  with_reducible repeat' first | assumption | apply State.abortOthers_keeps | apply State.abortStep_keeps | apply State.countReplay_keeps | apply State.faultCtx_keeps | apply State.flushStep_keeps | apply State.limitReached_keeps | apply State.onTally_keeps | apply State.rootSteps_keeps | split | dsimp only | intro

theorem State.takeStatus_keeps (c : Nat) (no : BitVec 32) (st : Status) (o : Origin) (h : Keeps s0 s) : Keeps s0 (s.takeStatus c no st o) := by
  unfold State.takeStatus
  with_reducible repeat' first | assumption | apply State.failStep_keeps | apply State.onTally_keeps | split | dsimp only | intro

theorem State.logStatus_keeps (st : Status) (t : Nat) (eng : Nat) (c : Nat) (layop : BitVec 32) (no : BitVec 32) (spot : Nat × Nat) (h : Keeps s0 s) : Keeps s0 (s.logStatus st t eng c layop no spot) := by
  grind [State.logStatus, State.logIf_keeps]

theorem State.raise_keeps (t : Nat) (n : Nat) (st : Status) (pc : BitVec 48) (h : Keeps s0 s) : Keeps s0 (s.raise t n st pc) := by
  unfold State.raise
  with_reducible repeat' first | assumption | apply State.logStatus_keeps | apply State.onTile_keeps | apply State.setField_keeps | apply State.setTreg_keeps | apply State.takeStatus_keeps | split | dsimp only | intro

theorem State.startCode_keeps (c : Nat) (p : Step) (fallback : Bool) (h : Keeps s0 s) : Keeps s0 (s.startCode c p fallback) := by
  grind [State.startCode, State.emit_keeps, State.onStep_keeps, State.onTile_keeps, State.watch_keeps, Keeps.start, State.onTile_start]

end Sys2Proof.Machine
end

