-- ==== Sys2Proof/Laws/KeepsTile.lean ====
section
/-! SUPPORT. What the operations of tiles keep: Helm cores, queues, engines, requests, collectives, reports. -/

set_option Elab.async false
set_option linter.unusedTactic false
set_option linter.unreachableTactic false

namespace Sys2Proof.Machine

open Sys2Proof

variable {s0 s : State}

/-! ### Helm -/

theorem State.retire_keeps (t : Nat) (n : Nat) (len : Nat) (f : Slot → Slot) (h : Keeps s0 s) : Keeps s0 (s.retire t n len f) := by
  unfold State.retire
  with_reducible repeat' first | assumption | apply State.onTile_keeps | apply State.tcount_keeps | split | dsimp only | intro

theorem State.retireTo_keeps (t : Nat) (n : Nat) (f : Slot → Slot) (pc : BitVec 48) (h : Keeps s0 s) : Keeps s0 (s.retireTo t n f pc) := by
  unfold State.retireTo
  with_reducible repeat' first | assumption | apply State.onTile_keeps | apply State.tcount_keeps | split | dsimp only | intro

theorem State.except_keeps (t : Nat) (n : Nat) (st : Status) (h : Keeps s0 s) : Keeps s0 (s.except t n st) := by
  unfold State.except
  with_reducible repeat' first | assumption | apply State.raise_keeps | split | dsimp only | intro

theorem State.scalar_keeps (t : Nat) (len : Nat) (bad : Slot → Option Status) (f : Slot → Slot) (h : Keeps s0 s) : Keeps s0 (s.scalar t len bad f) := by
  unfold State.scalar
  with_reducible repeat' first | assumption | apply State.except_keeps | apply State.retire_keeps | split | dsimp only | intro

theorem State.alu_keeps (t : Nat) (rd : Nat) (ra : Nat) (rb : Nat) (op : Word → Word → Word) (h : Keeps s0 s) : Keeps s0 (s.alu t rd ra rb op) := by
  unfold State.alu
  with_reducible repeat' first | assumption | apply State.scalar_keeps | split | dsimp only | intro

theorem State.alui_keeps (t : Nat) (rd : Nat) (ra : Nat) (imm : BitVec 15) (op : Word → Word → Word) (h : Keeps s0 s) : Keeps s0 (s.alui t rd ra imm op) := by
  unfold State.alui
  with_reducible repeat' first | assumption | apply State.scalar_keeps | split | dsimp only | intro

theorem State.fp_keeps (t : Nat) (m : FpMode) (unary : Bool) (plain : Bool) (rb : Nat) (f : Rnd → Slot → Slot) (h : Keeps s0 s) : Keeps s0 (s.fp t m unary plain rb f) := by
  unfold State.fp
  with_reducible repeat' first | assumption | apply State.scalar_keeps | split | dsimp only | intro

theorem State.fp2_keeps (t : Nat) (m : FpMode) (rd : Nat) (ra : Nat) (rb : Nat) (op : Rnd → Num → Num → Num) (h : Keeps s0 s) : Keeps s0 (s.fp2 t m rd ra rb op) := by
  unfold State.fp2
  with_reducible repeat' first | assumption | apply State.fp_keeps | split | dsimp only | intro

theorem State.fcmp_keeps (t : Nat) (m : FpMode) (rd : Nat) (ra : Nat) (rb : Nat) (op : Num → Num → Bool) (h : Keeps s0 s) : Keeps s0 (s.fcmp t m rd ra rb op) := by
  unfold State.fcmp
  with_reducible repeat' first | assumption | apply State.fp_keeps | split | dsimp only | intro

/-! ### Queue -/

theorem State.tell_keeps (t : Nat) (e : Nat) (r : Rec) (st : Status) (spot : Nat × Nat) (h : Keeps s0 s) : Keeps s0 (s.tell t e r st spot) := by
  grind [State.tell, State.emit_keeps, Keeps.mail]

theorem State.sendSignal_keeps (t : Nat) (r : Rec) (h : Keeps s0 s) : Keeps s0 (s.sendSignal t r) := by
  grind [State.sendSignal, Keeps.mail]

theorem State.highWater_keeps (t : Nat) (o : Nat) (lo : Nat) (w : Nat) (n : Nat) (h : Keeps s0 s) : Keeps s0 (s.highWater t o lo w n) := by
  unfold State.highWater
  with_reducible repeat' first | assumption | apply State.setField_keeps | split | dsimp only | intro

theorem State.intoInbox_keeps (t : Nat) (r : Rec) (h : Keeps s0 s) : Keeps s0 (s.intoInbox t r) := by
  unfold State.intoInbox
  with_reducible repeat' first | assumption | apply State.highWater_keeps | apply State.onWork_keeps | split | dsimp only | intro

theorem State.park_keeps (t : Nat) (n : Nat) (e : Entry) (h : Keeps s0 s) : Keeps s0 (s.park t n e) := by
  unfold State.park
  have hw : ∀ c a bs, Keeps s0 (s.devWrite c a bs).1 := fun c a bs => State.devWrite_keeps c a bs h
  dsimp only
  split
  · exact State.tell_keeps _ _ _ _ _ h
  · generalize parkArea _ _ = area
    generalize s.reserve _ + area + _ = a
    have hx := hw e.cmd.ctx.toNat a (wordBytes e.cmd.words)
    generalize s.devWrite _ a _ = x at hx ⊢
    obtain ⟨s1, _ | _⟩ := x <;> dsimp only at hx ⊢ <;>
      with_reducible repeat' first | assumption | apply State.setField_keeps | apply State.tcount_keeps | apply State.onWork_keeps | split

theorem State.enqueue_keeps (t : Nat) (e : Nat) (x : Entry) (h : Keeps s0 s) : Keeps s0 (s.enqueue t e x) := by
  unfold State.enqueue
  with_reducible repeat' first | assumption | apply State.highWater_keeps | apply State.onWork_keeps | split | dsimp only | intro

theorem State.admitEntry_keeps (t : Nat) (e : Nat) (x : Entry) (h : Keeps s0 s) : Keeps s0 (s.admitEntry t e x) := by
  unfold State.admitEntry
  with_reducible repeat' first | assumption | apply State.enqueue_keeps | apply State.park_keeps | split | dsimp only | intro

theorem State.flitCheck_keeps (t : Nat) (f : Flits) (h : Keeps s0 s) : Keeps s0 (s.flitCheck t f) := by
  unfold State.flitCheck
  with_reducible repeat' first | assumption | apply State.corrected_keeps | apply State.log_keeps | apply State.orReg_keeps | split | dsimp only | intro

theorem State.reenter_keeps (t : Nat) (x : Entry) (h : Keeps s0 s) : Keeps s0 (s.reenter t x) := by
  unfold State.reenter
  with_reducible repeat' first | assumption | apply State.admitEntry_keeps | apply State.onWork_keeps | apply State.tell_keeps | split | dsimp only | intro

theorem State.select_keeps (t : Nat) (e : Nat) (x : Entry) (floor : Bool) (h : Keeps s0 s) : Keeps s0 (s.select t e x floor) := by
  unfold State.select
  with_reducible repeat' first | assumption | apply State.emit_keeps | apply State.onWork_keeps | apply State.tcount_keeps | split | dsimp only | intro

theorem State.dropUnissued_keeps (t : Nat) (e : Nat) (r : Rec) (h : Keeps s0 s) : Keeps s0 (s.dropUnissued t e r) := by
  grind [State.dropUnissued, State.onWork_keeps, Keeps.mail]

theorem State.onRun_keeps (t : Nat) (ord : Nat) (f : Run → Run) (h : Keeps s0 s) : Keeps s0 (s.onRun t ord f) := by
  unfold State.onRun
  with_reducible repeat' first | assumption | apply State.onWork_keeps | split | dsimp only | intro

theorem State.dropRun_keeps (t : Nat) (ord : Nat) (h : Keeps s0 s) : Keeps s0 (s.dropRun t ord) := by
  unfold State.dropRun
  with_reducible repeat' first | assumption | apply State.onWork_keeps | split | dsimp only | intro

theorem State.failRun_keeps (t : Nat) (ord : Nat) (st : Status) (h : Keeps s0 s) : Keeps s0 (s.failRun t ord st) := by
  unfold State.failRun
  with_reducible repeat' first | assumption | apply State.onRun_keeps | split | dsimp only | intro

theorem State.tagWork_keeps (t : Nat) (r : Run) (st : Status) (h : Keeps s0 s) : Keeps s0 (s.tagWork t r st) := by
  unfold State.tagWork
  with_reducible repeat' first | assumption | apply State.onUpkeep_keeps | apply foldl_keeps | apply foldl_keeps_fst | apply foldl_keeps_snd | split | dsimp only | intro

theorem State.endRun_keeps (t : Nat) (r : Run) (st : Status) (h : Keeps s0 s) : Keeps s0 (s.endRun t r st) := by
  unfold State.endRun
  with_reducible repeat' first | assumption | apply State.dropRun_keeps | apply State.tagWork_keeps | apply State.tell_keeps | split | dsimp only | intro

/-! ### Engine -/

theorem thenDo_keeps {α β : Type} (x : State × Except Status α) (f : State → α → State × Except Status β)
    (h : Keeps s0 x.1) (hk : ∀ s a, Keeps s0 s → Keeps s0 (f s a).1) : Keeps s0 (thenDo x f).1 := by
  unfold thenDo
  split
  · exact hk _ _ h
  · exact h

theorem State.recParts_keeps (c : Nat) (o : Operand) (g : Option Geo) (k : Touch) (h : Keeps s0 s) : Keeps s0 (s.recParts c o g k).1 := by
  unfold State.recParts
  with_reducible repeat' first | assumption | apply State.partsIf_keeps | apply thenDo_keeps | split | dsimp only | intro

theorem State.allParts_keeps (r : Rec) (h : Keeps s0 s) : Keeps s0 (s.allParts r).1 := by
  unfold State.allParts
  with_reducible repeat' first | assumption | apply State.recParts_keeps | apply State.write_keeps | apply thenDo_keeps | split | dsimp only | intro

theorem State.dropKept_keeps (t : Nat) (c : Nat) (tag : BitVec 2) (h : Keeps s0 s) : Keeps s0 (s.dropKept t c tag) := by
  unfold State.dropKept
  with_reducible repeat' first | assumption | apply State.onWork_keeps | split | dsimp only | intro

theorem State.writeOut_keeps (r : Rec) (g : Geo) (pd : List (List Part)) (mode : Rnd) (xs : List (List Num)) (quiet : Nat) (h : Keeps s0 s) : Keeps s0 (s.writeOut r g pd mode xs quiet).1 := by
  unfold State.writeOut
  with_reducible repeat' first | assumption | apply State.writeLines_keeps | apply thenDo_keeps | split | dsimp only | intro

theorem State.write32_keeps (r : Rec) (g : Geo) (pd : List (List Part)) (xs : List (List (BitVec 32))) (quiet : Nat) (h : Keeps s0 s) : Keeps s0 (s.write32 r g pd xs quiet).1 := by
  unfold State.write32
  with_reducible repeat' first | assumption | apply State.writeLines_keeps | apply State.writeOut_keeps | apply thenDo_keeps | apply foldl_keeps | apply foldl_keeps_fst | apply foldl_keeps_snd | split | dsimp only | intro

theorem State.takeMatrixFault_keeps (t : Nat) (u : Upset) (h : Keeps s0 s) : Keeps s0 (s.takeMatrixFault t u).1 := by
  unfold State.takeMatrixFault
  with_reducible repeat' first | assumption | apply State.onUpkeep_keeps | apply State.orReg_keeps | split | dsimp only | intro

theorem State.takeVectorFault_keeps (t : Nat) (u : Upset) (h : Keeps s0 s) : Keeps s0 (s.takeVectorFault t u).1 := by
  unfold State.takeVectorFault
  with_reducible repeat' first | assumption | apply State.onUpkeep_keeps | split | dsimp only | intro

/-! ### Request -/

theorem State.spoilRun_keeps (t : Nat) (ord : Nat) (st : Status) (h : Keeps s0 s) : Keeps s0 (s.spoilRun t ord st) := by
  unfold State.spoilRun
  with_reducible repeat' first | assumption | apply State.onRun_keeps | split | dsimp only | intro

theorem State.answerReqs_keeps (t : Nat) (ord : Nat) (test : Req → Bool) (res : Except Status (List Byte)) (h : Keeps s0 s) : Keeps s0 (s.answerReqs t ord test res) := by
  unfold State.answerReqs
  with_reducible repeat' first | assumption | apply State.onRun_keeps | split | dsimp only | intro

theorem State.freshParts_keeps (c : Nat) (k : Touch) (z1 : List Part) (h : Keeps s0 s) : Keeps s0 (s.freshParts c k z1).1 := by
  revert h
  fun_induction State.freshParts s c k z1 <;> grind [State.deviceParts_keeps, thenDo_keeps]

theorem State.atomicAt_keeps {w : Nat} (c : Nat) (ps : List Part) (n : Nat) (f : BitVec w → BitVec w) (h : Keeps s0 s) :
    Keeps s0 (s.atomicAt c ps n f).1 := by
  unfold State.atomicAt
  split
  · rename_i x e
    exact findSome?_keeps _ _ x e fun p x => State.refuseWrite_keeps c p h x
  · refine thenDo_keeps _ _ (State.fetchParts_keeps _ _ _ (State.touch_keeps _ _ _ (foldl_keeps _ _ h fun acc p h => ?_))) fun s a h =>
      thenDo_keeps _ _ (State.storeParts_keeps _ _ _ h) fun s b h => h
    split
    · exact State.writeBack_keeps _ h
    · exact h

theorem State.performReq_keeps (r : Run) (q : Req) (h : Keeps s0 s) : Keeps s0 (s.performReq r q).1 := by
  unfold State.performReq
  with_reducible repeat' first | assumption | apply State.atomicAt_keeps | apply State.readParts_keeps | apply State.write_keeps | apply State.writeParts_keeps | apply thenDo_keeps | split | dsimp only | intro

theorem State.rowParts_keeps (c : Nat) (z1 : List Req) (h : Keeps s0 s) : Keeps s0 (s.rowParts c z1).1 := by
  revert h
  fun_induction State.rowParts s c z1 <;> grind [State.freshParts_keeps, State.write_keeps, thenDo_keeps]

theorem State.perform_keeps (t : Nat) (r : Run) (q : Req) (h : Keeps s0 s) : Keeps s0 (s.perform t r q) := by
  grind [State.perform, State.answerReqs_keeps, State.performReq_keeps, State.rowParts_keeps, State.write_keeps, State.writeParts_keeps, thenDo_keeps]

theorem State.performBefore_keeps (z1 : Nat) (z2 : Nat) (z3 : Nat) (h : Keeps s0 s) : Keeps s0 (State.performBefore z1 s z2 z3) := by
  revert h
  fun_induction State.performBefore z1 s z2 z3 <;> grind [State.perform_keeps]

theorem State.drain_keeps (t : Nat) (h : Keeps s0 s) : Keeps s0 (s.drain t) := State.performBefore_keeps _ _ _ h

theorem State.compute_keeps (t e code : Nat) (k : State → Rec → State × Except Status Done) (h : Keeps s0 s)
    (hk : ∀ s y1, Keeps s0 s → Keeps s0 (k s y1).1) : Keeps s0 (s.compute t e code k) := by
  grind [State.compute, State.dropKept_keeps, State.onRun_keeps, State.failRun_keeps, State.drain_keeps]

/-! ### LoadStore -/

theorem State.turn_keeps (t : Nat) (h : Keeps s0 s) : Keeps s0 (s.turn t) := by
  unfold State.turn
  with_reducible repeat' first | assumption | apply State.drain_keeps | split | dsimp only | intro

theorem State.newRemote_keeps (t : Nat) (kind : BitVec 4) (op : BitVec 4) (node : Nat) (off : Nat) (len : Nat) (w3 : Word) (w4 : Word) (data : List Byte) (ctx : Nat) (owner : Owner) (h : Keeps s0 s) : Keeps s0 (s.newRemote t kind op node off len w3 w4 data ctx owner) := by
  unfold State.newRemote
  with_reducible repeat' first | assumption | apply State.onTile_keeps | split | dsimp only | intro

theorem State.stallOn_keeps (t : Nat) (n : Nat) (len : Nat) (id : BitVec 32) (h : Keeps s0 s) : Keeps s0 (s.stallOn t n len id) := by
  unfold State.stallOn
  with_reducible repeat' first | assumption | apply State.onTile_keeps | split | dsimp only | intro

theorem State.datapathFault_keeps (t : Nat) (n : Nat) (h : Keeps s0 s) : Keeps s0 (s.datapathFault t n) := by
  unfold State.datapathFault
  with_reducible repeat' first | assumption | apply State.draw_keeps | apply State.except_keeps | split | dsimp only | intro

theorem State.load_keeps (t : Nat) (len : Nat) (rd : Nat) (f : LoadForm) (h' : Hazard) (addr : Slot → Word) (h : Keeps s0 s) : Keeps s0 (s.load t len rd f h' addr) := by
  grind (splits := 20) (gen := 20) [State.load, State.datapathFault_keeps, State.except_keeps, State.meet_keeps, State.newRemote_keeps, State.operandParts_keeps, State.readPart_keeps, State.retire_keeps, State.stallOn_keeps]

theorem State.illegalAt_keeps (t : Nat) (h : Keeps s0 s) : Keeps s0 (s.illegalAt t) := by
  unfold State.illegalAt
  with_reducible repeat' first | assumption | apply State.except_keeps | split | dsimp only | intro

theorem State.storeNear_keeps (t : Nat) (n : Nat) (c : Nat) (k : Touch) (p : Part) (a : Nat) (bs : List Byte) (h : Keeps s0 s) : Keeps s0 (s.storeNear t n c k p a bs).1 := by
  unfold State.storeNear
  with_reducible repeat' first | assumption | apply State.blamePa_keeps | apply State.cacheStore_keeps | apply State.noteFlaw_keeps | apply State.onTile_keeps | apply State.touch_keeps | split | dsimp only | intro

theorem State.helmWrite_keeps (t : Nat) (n : Nat) (c : Nat) (k : Touch) (p : Part) (bs : List Byte) (h : Keeps s0 s) : Keeps s0 (s.helmWrite t n c k p bs).1 := by
  unfold State.helmWrite
  with_reducible repeat' first | assumption | apply State.onTile_keeps | apply State.storeNear_keeps | apply State.writePart_keeps | split | dsimp only | intro

theorem State.mayApply_keeps (st : Status) (k : State → State) (h : Keeps s0 s) (hk : ∀ s, Keeps s0 s → Keeps s0 (k s)) :
    Keeps s0 (s.mayApply st k) := by
  unfold State.mayApply
  split
  · exact h
  · dsimp only
    split
    · exact hk _ (State.draw_keeps h)
    · exact State.draw_keeps h

theorem State.store_keeps (t len size : Nat) (h' : Hazard) (addr : Slot → Word) (val : Slot → List Byte) (h : Keeps s0 s) :
    Keeps s0 (s.store t len size h' addr val) := by
  unfold State.store
  dsimp only
  (repeat' split) <;> grind [State.except_keeps, State.helmWrite_keeps, State.meet_keeps, State.newRemote_keeps, State.operandParts_keeps, State.retire_keeps, State.mayApply_keeps, State.datapathFault_keeps]

theorem State.amoAt_keeps (t : Nat) (n : Nat) (c : Nat) (fn : Nat) (p : Part) (b : Word) (cmp : Word) (h : Keeps s0 s) : Keeps s0 (s.amoAt t n c fn p b cmp).1 := by
  grind [State.amoAt, State.fetchPart_keeps, State.helmWrite_keeps]

theorem State.amo_keeps (t fn rd ra rb : Nat) (h' : Hazard) (h : Keeps s0 s) : Keeps s0 (s.amo t fn rd ra rb h') := by
  unfold State.amo
  dsimp only
  (repeat' split) <;> grind [State.except_keeps, State.amoAt_keeps, State.meet_keeps, State.newRemote_keeps, State.operandParts_keeps, State.retire_keeps, State.stallOn_keeps, State.mayApply_keeps, State.datapathFault_keeps]

theorem State.fenceBack_keeps (t : Nat) (n : Nat) (h : Keeps s0 s) : Keeps s0 (s.fenceBack t n) := by
  unfold State.fenceBack
  with_reducible repeat' first | assumption | apply State.onTile_keeps | apply State.writeBackAll_keeps | split | dsimp only | intro

theorem State.stallFence_keeps (t : Nat) (n : Nat) (k : Stall) (h : Keeps s0 s) : Keeps s0 (s.stallFence t n k) := by
  unfold State.stallFence
  with_reducible repeat' first | assumption | apply State.fenceBack_keeps | apply State.onTile_keeps | split | dsimp only | intro

theorem State.fence_keeps (t : Nat) (scope : BitVec 2) (h : Keeps s0 s) : Keeps s0 (s.fence t scope) := by
  unfold State.fence
  (repeat' split) <;> grind [State.stallFence_keeps]

/-! ### Tensor -/

theorem State.acceptOne_keeps (t : Nat) (c : Nat) (no : BitVec 32) (p : Nat × Rec) (h : Keeps s0 s) : Keeps s0 (s.acceptOne t c no p) := by
  grind [State.acceptOne, State.intoInbox_keeps, State.onTally_keeps, State.tcount_keeps, Keeps.mail, Keeps.tiles]

theorem State.acceptSome_keeps (t : Nat) (c : Nat) (no : BitVec 32) (z1 : List (Nat × Rec)) (h : Keeps s0 s) : Keeps s0 (s.acceptSome t c no z1).1 := by
  revert h
  fun_induction State.acceptSome s t c no z1 <;> grind [State.acceptOne_keeps]

theorem State.issue_keeps (t : Nat) (n : Nat) (rd : Nat) (count : Nat) (rs : List (Nat × Rec)) (h : Keeps s0 s) : Keeps s0 (s.issue t n rd count rs) := by
  unfold State.issue
  with_reducible repeat' first | assumption | apply State.acceptSome_keeps | apply State.onTile_keeps | apply State.retire_keeps | split | dsimp only | intro

theorem State.issueOn_keeps (t : Nat) (h : Keeps s0 s) : Keeps s0 (s.issueOn t) := by
  unfold State.issueOn
  with_reducible repeat' first | assumption | apply State.issue_keeps | apply foldl_keeps | apply foldl_keeps_fst | apply foldl_keeps_snd | split | dsimp only | intro

theorem State.tensor_keeps (t : Nat) (i : TensorInsn) (op : TensorOp) (h : Keeps s0 s) : Keeps s0 (s.tensor t i op) := by
  unfold State.tensor
  with_reducible repeat' first | assumption | apply State.except_keeps | apply State.issue_keeps | split | dsimp only | intro

theorem State.tokens_keeps (t : Nat) (i : TensorInsn) (code : Nat) (vars : Nat) (h : Keeps s0 s) : Keeps s0 (s.tokens t i code vars) := by
  unfold State.tokens
  with_reducible repeat' first | assumption | apply State.except_keeps | apply State.issue_keeps | split | dsimp only | intro

/-! ### Matrix -/

theorem State.matrixCheck_keeps (t : Nat) (u : Upset) (h : Keeps s0 s) : Keeps s0 (s.matrixCheck t u).1 := by
  unfold State.matrixCheck
  with_reducible repeat' first | assumption | apply State.orReg_keeps | split | dsimp only | intro

theorem State.setKept_keeps (t : Nat) (r : Rec) (rows : List (List (BitVec 32))) (sums : List (List (Num × Num))) (groups : Nat) (h : Keeps s0 s) : Keeps s0 (s.setKept t r rows sums groups) := by
  unfold State.setKept
  with_reducible repeat' first | assumption | apply State.onWork_keeps | split | dsimp only | intro

theorem State.matrix_keeps (t : Nat) (u : Upset) (bAt : Nat → Nat → Nat × Nat) (r : Rec) (h : Keeps s0 s) : Keeps s0 (s.matrix t u bAt r).1 := by
  grind (gen := 20) (splits := 20) [State.matrix, State.allParts_keeps, State.matrixCheck_keeps, State.readLines_keeps, State.setKept_keeps, State.takeMatrixFault_keeps, State.tcount_keeps, State.writeOut_keeps, thenDo_keeps, foldl_keeps, foldl_keeps_fst, foldl_keeps_snd]

/-! ### Vector -/

theorem State.writeStats_keeps (c : Nat) (ps : List (List Part)) (rs : List (Stat × BitVec 32)) (h : Keeps s0 s) : Keeps s0 (s.writeStats c ps rs).1 := by
  unfold State.writeStats
  with_reducible repeat' first | assumption | apply State.writeLines_keeps | split | dsimp only | intro

theorem State.vectorCheck_keeps (t : Nat) (u : Upset) (r : Rec) (h : Keeps s0 s) : Keeps s0 (s.vectorCheck t u r).1 := by
  unfold State.vectorCheck
  with_reducible repeat' first | assumption | apply State.onUpkeep_keeps | apply State.takeVectorFault_keeps | split | dsimp only | intro

theorem State.vector_keeps (t : Nat) (u : Upset) (function : Bool) (r : Rec) (k : State → List (List Byte) → List (List Part) → List (List Part) → State × Except Status (Status × Measure)) (h : Keeps s0 s) (hk : ∀ s y1 y2 y3, Keeps s0 s → Keeps s0 (k s y1 y2 y3).1) : Keeps s0 (s.vector t u function r k).1 := by
  unfold State.vector
  with_reducible repeat' first | assumption | apply hk | apply State.allParts_keeps | apply State.readLines_keeps | apply State.tcount_keeps | apply State.vectorCheck_keeps | apply thenDo_keeps | split | dsimp only | intro

theorem State.putD_keeps (r : Rec) (pd : List (List Part)) (xs : List (List (BitVec 32))) (st : Status) (h : Keeps s0 s) : Keeps s0 (s.putD r pd xs st).1 := by
  unfold State.putD
  with_reducible repeat' first | assumption | apply State.write32_keeps | apply thenDo_keeps | split | dsimp only | intro

theorem State.putInt_keeps (r : Rec) (g : Geo) (pd : List (List Part)) (xs : List (List (BitVec 32))) (h : Keeps s0 s) : Keeps s0 (s.putInt r g pd xs).1 := by
  unfold State.putInt
  with_reducible repeat' first | assumption | apply State.writeLines_keeps | apply thenDo_keeps | split | dsimp only | intro

/-! ### Route -/

theorem State.writeBytes_keeps (c : Nat) (o : Operand) (off : Nat) (k : Touch) (bs : List Byte) (h : Keeps s0 s) : Keeps s0 (s.writeBytes c o off k bs).1 := by
  unfold State.writeBytes
  with_reducible repeat' first | assumption | apply State.operandParts_keeps | apply State.writeParts_keeps | apply thenDo_keeps | split | dsimp only | intro

theorem State.readBytes_keeps (c : Nat) (o : Operand) (off : Nat) (n : Nat) (h : Keeps s0 s) : Keeps s0 (s.readBytes c o off n).1 := by
  unfold State.readBytes
  with_reducible repeat' first | assumption | apply State.operandParts_keeps | apply State.readParts_keeps | apply thenDo_keeps | split | dsimp only | intro

theorem State.someCycles_keeps (bound : Nat) (h : Keeps s0 s) : Keeps s0 (s.someCycles bound).2 := by
  unfold State.someCycles
  with_reducible repeat' first | assumption | apply State.draw_keeps | split | dsimp only | intro

theorem State.trailers_keeps (c : Nat) (a : Operand) (stride : Nat) (H : Nat) (z1 : List Nat) (h : Keeps s0 s) : Keeps s0 (s.trailers c a stride H z1).1 := by
  revert h
  fun_induction State.trailers s c a stride H z1 <;> grind [State.readBytes_keeps, thenDo_keeps]

theorem State.answer_keeps (c : Nat) (a : Operand) (g : Geo) (i : Nat) (c0 : Nat) (n : Nat) (h : Keeps s0 s) : Keeps s0 (s.answer c a g i c0 n).1 := by
  unfold State.answer
  with_reducible repeat' first | assumption | apply State.readBytes_keeps | apply thenDo_keeps | split | dsimp only | intro

theorem State.combineRow_keeps (c : Nat) (a : Operand) (g : Geo) (c0 : Nat) (n : Nat) (y : List (BitVec 32)) (z1 : List (Nat × BitVec 32)) (h : Keeps s0 s) : Keeps s0 (s.combineRow c a g c0 n y z1).1 := by
  revert h
  fun_induction State.combineRow s c a g c0 n y z1 <;> grind [State.answer_keeps, thenDo_keeps]

theorem State.combineRows_keeps (c : Nat) (a : Operand) (g : Geo) (c0 : Nat) (n : Nat) (z1 : List ReadRec) (h : Keeps s0 s) : Keeps s0 (s.combineRows c a g c0 n z1).1 := by
  revert h
  fun_induction State.combineRows s c a g c0 n z1 <;> grind [State.combineRow_keeps, thenDo_keeps]

theorem State.readBearing_keeps (r : Rec) (ga : Geo) (h : Keeps s0 s) : Keeps s0 (s.readBearing r ga).1 := by
  unfold State.readBearing
  with_reducible repeat' first | assumption | apply State.readBytes_keeps | apply State.trailers_keeps | apply thenDo_keeps | split | dsimp only | intro

/-! ### Move -/

theorem State.senderRefused_keeps (st : Status) (h : Keeps s0 s) : Keeps s0 (s.senderRefused st) := by
  unfold State.senderRefused
  with_reducible repeat' first | assumption | apply State.count_keeps | split | dsimp only | intro

theorem State.checkParts_keeps (c : Nat) (z1 : List Part) (h : Keeps s0 s) : Keeps s0 (s.checkParts c z1).1 := by
  revert h
  fun_induction State.checkParts s c z1 <;> grind [State.senderRefused_keeps]

theorem State.runParts_keeps (c : Nat) (o : Operand) (k : Touch) (l : List (Nat × Nat)) (h : Keeps s0 s) :
    Keeps s0 (s.runParts c o k l).1 := by
  induction l generalizing s with
  | nil => exact h
  | cons x xs ih =>
    exact thenDo_keeps _ _ (State.operandParts_keeps _ _ _ _ _ h) fun s1 ps h1 => thenDo_keeps _ _ (ih h1) fun s2 qs h2 => h2

theorem State.resolve_keeps (c : Nat) (l : List Ask) (h : Keeps s0 s) : Keeps s0 (s.resolve c l).1 := by
  induction l generalizing s with
  | nil => exact h
  | cons a as ih =>
    exact thenDo_keeps _ _ (State.runParts_keeps _ _ _ _ h) fun s1 ps h1 =>
      thenDo_keeps _ _ (State.checkParts_keeps _ _ h1) fun s2 _ h2 => thenDo_keeps _ _ (ih h2) fun s3 rs h3 => h3

theorem State.planParts_keeps (c : Nat) (d : Operand) (data : List Byte) (l : List (Nat × Nat × Nat)) (h : Keeps s0 s) :
    Keeps s0 (s.planParts c d data l).1 := by
  induction l generalizing s with
  | nil => exact h
  | cons p ps ih =>
    exact thenDo_keeps _ _ (State.operandParts_keeps _ _ _ _ _ h) fun s1 q h1 => thenDo_keeps _ _ (ih h1) fun s2 qs h2 => h2

theorem State.gotParts_keeps (c : Nat) (d : Operand) (l : List (List (Nat × Nat × Nat) × List Byte)) (h : Keeps s0 s) :
    Keeps s0 (s.gotParts c d l).1 := by
  induction l generalizing s with
  | nil => exact h
  | cons g gs ih =>
    exact thenDo_keeps _ _ (State.planParts_keeps _ _ _ _ h) fun s1 xs h1 =>
      thenDo_keeps _ _ (ih (State.touch_keeps _ _ _ h1)) fun s2 ys h2 => h2

theorem State.landGot_keeps (c d got) (h : Keeps s0 s) : Keeps s0 (s.landGot c d got).1 :=
  thenDo_keeps _ _ (State.gotParts_keeps _ _ _ h) fun _ _ h1 => State.storeUnit_keeps _ _ h1

theorem State.checkWrites_keeps (c : Nat) (rs : List Req) (h : Keeps s0 s) : Keeps s0 (s.checkWrites c rs).1 := by
  unfold State.checkWrites
  split
  · rename_i x e
    exact findSome?_keeps _ _ x e fun p x => State.refuseWrite_keeps c p h x
  · exact h

theorem State.formLoad_keeps (r : Rec) (h : Keeps s0 s) : Keeps s0 (s.formLoad r).1 := by
  unfold State.formLoad
  with_reducible repeat' first | assumption | apply State.readBytes_keeps | apply State.recParts_keeps | apply State.resolve_keeps | apply State.write_keeps | apply thenDo_keeps | split | dsimp only | intro

theorem State.formGather_keeps (r : Rec) (h : Keeps s0 s) : Keeps s0 (s.formGather r).1 := by
  unfold State.formGather
  with_reducible repeat' first | assumption | apply State.readLines_keeps | apply State.recParts_keeps | apply State.resolve_keeps | apply State.write_keeps | apply thenDo_keeps | split | dsimp only | intro

theorem State.formStow_keeps (r : Rec) (h : Keeps s0 s) : Keeps s0 (s.formStow r).1 := by
  unfold State.formStow
  with_reducible repeat' first | assumption | apply State.readLines_keeps | apply State.recParts_keeps | apply State.resolve_keeps | apply thenDo_keeps | split | dsimp only | intro

theorem State.formScatter_keeps (r : Rec) (h : Keeps s0 s) : Keeps s0 (s.formScatter r).1 := by
  unfold State.formScatter
  with_reducible repeat' first | assumption | apply State.readLines_keeps | apply State.recParts_keeps | apply State.resolve_keeps | apply thenDo_keeps | split | dsimp only | intro

theorem State.formAtom_keeps (r : Rec) (h : Keeps s0 s) : Keeps s0 (s.formAtom r).1 := by
  unfold State.formAtom
  with_reducible repeat' first | assumption | apply State.checkParts_keeps | apply State.operandParts_keeps | apply State.readLines_keeps | apply State.recParts_keeps | apply State.resolve_keeps | apply State.write_keeps | apply thenDo_keeps | split | dsimp only | intro

theorem State.sendReq_keeps (t : Nat) (r : Run) (q : Req) (h : Keeps s0 s) : Keeps s0 (s.sendReq t r q) := by
  unfold State.sendReq
  with_reducible repeat' first | assumption | apply State.newRemote_keeps | apply State.write_keeps | split | dsimp only | intro

theorem State.issueOne_keeps (t : Nat) (r : Run) (q : Req) (h : Keeps s0 s) : Keeps s0 (s.issueOne t r q) := by
  grind [State.issueOne, State.blame_keeps, State.freshParts_keeps, State.onRun_keeps, State.onWork_keeps, State.sendReq_keeps, State.spoilRun_keeps, State.touch_keeps]

theorem State.issueSome_keeps (z1 : Nat) (z2 : Nat) (z3 : Nat) (h : Keeps s0 s) : Keeps s0 (State.issueSome z1 s z2 z3) := by
  revert h
  fun_induction State.issueSome z1 s z2 z3 <;> grind [State.issueOne_keeps]

theorem State.settle_keeps (t ord : Nat) (h : Keeps s0 s) : Keeps s0 (s.settle t ord) := by
  unfold State.settle
  split
  · exact h
  split
  · exact h
  dsimp only
  apply State.onRun_keeps
  have h1 := State.onRun_keeps t ord (fun r => { r with got := [] }) h
  split
  · exact h1
  · have h2 := fun c d got => State.landGot_keeps c d got (State.drain_keeps t h1)
    split
    · next e => exact State.onRun_keeps _ _ _ (State.tcount_keeps _ _ _ (keeps_pair e (h2 _ _ _)))
    · next e => exact State.onRun_keeps _ _ _ (keeps_pair e (h2 _ _ _))

theorem State.form_keeps (t e i code : Nat) (k : State → Rec → State × Except Status Formed) (h : Keeps s0 s)
    (hk : ∀ s y1, Keeps s0 s → Keeps s0 (k s y1).1) : Keeps s0 (s.form t e i code k) := by
  unfold State.form
  split
  · exact h
  split
  · exact h
  · next r _ _ =>
    have h1 := thenDo_keeps (k (s.drain t) r.cmd) (fun s1 f => thenDo (s1.checkWrites r.cmd.ctx.toNat f.1) fun s2 _ => (s2, .ok f))
      (hk _ _ (State.drain_keeps t h)) fun s1 f h1 => thenDo_keeps _ _ (State.checkWrites_keeps _ _ h1) fun s2 _ h2 => h2
    split
    · next e => exact State.failRun_keeps _ _ _ (keeps_pair e h1)
    · next e => exact State.settle_keeps _ _ (State.issueSome_keeps _ _ _ (State.onRun_keeps _ _ _ (keeps_pair e h1)))

theorem State.putOld_keeps (t : Nat) (r : Run) (q : Req) (old : List Byte) (h : Keeps s0 s) : Keeps s0 (s.putOld t r q old).1 := by
  grind [State.putOld, State.onRun_keeps, State.operandParts_keeps, State.write_keeps, State.writeParts_keeps]

theorem State.landReq_keeps (t : Nat) (r : Run) (q : Req) (data : List Byte) (h : Keeps s0 s) : Keeps s0 (s.landReq t r q data).1 := by
  grind [State.landReq, State.onRun_keeps, State.putOld_keeps, State.write_keeps]

theorem State.countBytes_keeps (t : Nat) (r : Run) (n : Nat) (h : Keeps s0 s) : Keeps s0 (s.countBytes t r n) := by
  unfold State.countBytes
  with_reducible repeat' first | assumption | apply State.onRun_keeps | apply State.tcount_keeps | split | dsimp only | intro

theorem State.endReq_keeps (t r q res) (h : Keeps s0 s) : Keeps s0 (s.endReq t r q res) := by
  unfold State.endReq
  dsimp only
  refine State.settle_keeps _ _ (State.issueSome_keeps _ _ _ ?_)
  have h1 := State.onRun_keeps t r.ord (fun r => { r with reqs := r.reqs.filter fun x => ! (x.issued.isSome && x.seq = q.seq) }) h
  split
  · exact State.spoilRun_keeps _ _ _ (State.blame_keeps _ h1)
  · split
    · next e => exact State.spoilRun_keeps _ _ _ (keeps_pair e (State.landReq_keeps _ _ _ _ h1))
    · next e => exact State.countBytes_keeps _ _ _ (State.onRun_keeps _ _ _ (keeps_pair e (State.landReq_keeps _ _ _ _ h1)))

theorem State.finishReq_keeps (t : Nat) (h' : Hazard) (r : Run) (q : Req) (h : Keeps s0 s) : Keeps s0 (s.finishReq t h' r q) := by
  grind [State.finishReq, State.answer_keeps, State.endReq_keeps, State.meet_keeps, State.perform_keeps]

theorem State.lateAnswer_keeps (t : Nat) (h : Keeps s0 s) : Keeps s0 (s.lateAnswer t) := by
  unfold State.lateAnswer
  with_reducible repeat' first | assumption | apply State.count_keeps | apply State.onUpkeep_keeps | split | dsimp only | intro

theorem State.answered_keeps (t : Nat) (h' : Hazard) (r : Run) (q : Req) (h : Keeps s0 s) : Keeps s0 (s.answered t h' r q) := by
  unfold State.answered
  with_reducible repeat' first | assumption | apply State.finishReq_keeps | apply State.performBefore_keeps | split | dsimp only | intro

/-! ### Collective -/

theorem State.groupBytes_keeps (t : Nat) (r : Rec) (off : Nat) (n : Nat) (h : Keeps s0 s) : Keeps s0 (s.groupBytes t r off n).1 := by
  unfold State.groupBytes
  with_reducible repeat' first | assumption | apply State.readPart_keeps | split | dsimp only | intro

theorem State.readGroup_keeps (t : Nat) (r : Rec) (h : Keeps s0 s) : Keeps s0 (s.readGroup t r).1 := by
  unfold State.readGroup
  with_reducible repeat' first | assumption | apply State.groupBytes_keeps | apply thenDo_keeps | split | dsimp only | intro

theorem State.collParts_keeps (r : Rec) (gd : Geo) (n : Nat) (h : Keeps s0 s) : Keeps s0 (s.collParts r gd n).1 := by
  unfold State.collParts
  with_reducible repeat' first | assumption | apply State.geoParts_keeps | apply State.write_keeps | apply thenDo_keeps | apply foldl_keeps | apply foldl_keeps_fst | apply foldl_keeps_snd | split | dsimp only | intro

theorem State.contribute_keeps (t : Nat) (r : Rec) (ord : Nat) (g : Group) (data : List Byte) (h : Keeps s0 s) : Keeps s0 (s.contribute t r ord g data) := by
  grind [State.contribute, State.newRemote_keeps, Keeps.mail, foldl_keeps, foldl_keeps_fst, foldl_keeps_snd]

theorem State.collResult_keeps (x : Coll) (ga : Geo) (gd : Geo) (h : Keeps s0 s) : Keeps s0 (s.collResult x ga gd).1 := by
  unfold State.collResult
  with_reducible repeat' first | assumption | apply State.write32_keeps | apply State.writeLines_keeps | apply State.writeStats_keeps | apply thenDo_keeps | apply foldl_keeps | apply foldl_keeps_fst | apply foldl_keeps_snd | split | dsimp only | intro

theorem State.setColl_keeps (t : Nat) (x : Coll) (h : Keeps s0 s) : Keeps s0 (s.setColl t x) := by
  unfold State.setColl
  with_reducible repeat' first | assumption | apply State.onTile_keeps | split | dsimp only | intro

theorem State.dropColl_keeps (t : Nat) (ord : Nat) (h : Keeps s0 s) : Keeps s0 (s.dropColl t ord) := by
  unfold State.dropColl
  with_reducible repeat' first | assumption | apply State.onTile_keeps | split | dsimp only | intro

theorem State.tryColl_keeps (t : Nat) (x : Coll) (h : Keeps s0 s) : Keeps s0 (s.tryColl t x) := by
  grind (splits := 20) (gen := 20) [State.tryColl, State.collResult_keeps, State.drain_keeps, State.dropColl_keeps, State.failRun_keeps, State.onRun_keeps]

theorem State.resumeColl_keeps (t : Nat) (r : Run) (h : Keeps s0 s) : Keeps s0 (s.resumeColl t r) := by
  unfold State.resumeColl
  with_reducible repeat' first | assumption | apply State.tryColl_keeps | split | dsimp only | intro

theorem State.beginColl_keeps (t : Nat) (r : Run) (h : Keeps s0 s) : Keeps s0 (s.beginColl t r).1 := by
  unfold State.beginColl
  with_reducible repeat' first | assumption | apply State.collParts_keeps | apply State.readGroup_keeps | apply State.readLines_keeps | apply State.recParts_keeps | apply thenDo_keeps | split | dsimp only | intro

theorem State.startColl_keeps (t i code : Nat) (h : Keeps s0 s) : Keeps s0 (s.startColl t i code) := by
  unfold State.startColl
  split
  · exact h
  split
  · exact h
  have h1 := fun r => State.beginColl_keeps t r (State.drain_keeps t h)
  split
  · next e => exact State.failRun_keeps _ _ _ (keeps_pair e (h1 _))
  · next e =>
    exact State.tryColl_keeps _ _ (State.contribute_keeps _ _ _ _ _ (State.onTile_keeps _ _ (keeps_pair e (h1 _))))

theorem State.deliver_keeps (t : Nat) (y : Contribution) (h : Keeps s0 s) : Keeps s0 (s.deliver t y) := by
  unfold State.deliver
  with_reducible repeat' first | assumption | apply State.onTile_keeps | apply State.setColl_keeps | apply State.tryColl_keeps | split | dsimp only | intro

theorem State.failColl_keeps (t : Nat) (i : Nat) (st : Status) (late : Bool) (h : Keeps s0 s) : Keeps s0 (s.failColl t i st late) := by
  unfold State.failColl
  with_reducible repeat' first | assumption | apply State.dropColl_keeps | apply State.onRun_keeps | split | dsimp only | intro

/-! ### Report -/

theorem State.watchPiece_keeps (t : Nat) (r : Run) (h : Keeps s0 s) : Keeps s0 (s.watchPiece t r).1 := by
  unfold State.watchPiece
  with_reducible repeat' first | assumption | apply State.measure_keeps | apply State.onWork_keeps | apply State.tcount_keeps | split | dsimp only | intro

theorem State.completePiece_keeps (t : Nat) (r : Run) (h : Keeps s0 s) : Keeps s0 (s.completePiece t r) := by
  unfold State.completePiece
  with_reducible repeat' first | assumption | apply State.endRun_keeps | apply State.sendSignal_keeps | apply State.watchPiece_keeps | split | dsimp only | intro

theorem State.applySignal_keeps (t : Nat) (g : Signal) (h : Keeps s0 s) : Keeps s0 (s.applySignal t g) := by
  grind [State.applySignal, State.addCounter_keeps, State.allocSet_keeps, Keeps.mail]

theorem State.received_keeps (c : Nat) (tag : BitVec 2) (h : Keeps s0 s) : Keeps s0 (s.received c tag) := by
  unfold State.received
  (repeat' split) <;> grind [State.onTally_keeps]

theorem State.makeFaulted_keeps (t : Nat) (h : Keeps s0 s) : Keeps s0 (s.makeFaulted t) := by
  unfold State.makeFaulted
  with_reducible repeat' first | assumption | apply State.count_keeps | apply State.log_keeps | apply State.onUpkeep_keeps | apply State.onWork_keeps | apply State.orReg_keeps | apply State.endRun_keeps | apply State.tell_keeps | apply foldl_keeps | apply foldl_keeps_fst | apply foldl_keeps_snd | split | dsimp only | intro

theorem State.countCheck_keeps (t : Nat) (st : Status) (h : Keeps s0 s) : Keeps s0 (s.countCheck t st) := by
  unfold State.countCheck
  with_reducible repeat' first | assumption | apply State.count_keeps | apply State.makeFaulted_keeps | apply State.onUpkeep_keeps | split | dsimp only | intro

theorem State.takeReport_keeps (x : Report) (h : Keeps s0 s) : Keeps s0 (s.takeReport x) := by
  unfold State.takeReport
  dsimp only
  have h0 : Keeps s0 (if x.status = 0x5010 || x.status = 0x5071 then s.countCheck x.tile x.status else s) := by
    split
    · exact State.countCheck_keeps _ _ h
    · exact h
  generalize (if x.status = 0x5010 || x.status = 0x5071 then s.countCheck x.tile x.status else s) = u at h0 ⊢
  grind [State.logStatus_keeps, State.takeStatus_keeps, State.received_keeps]

theorem State.showParked_keeps (t : Nat) (h : Keeps s0 s) : Keeps s0 (s.showParked t) := by
  unfold State.showParked
  with_reducible repeat' first | assumption | apply State.setField_keeps | apply foldl_keeps | apply foldl_keeps_fst | apply foldl_keeps_snd | split | dsimp only | intro

theorem State.discardStep_keeps (t : Nat) (c : Nat) (tag : BitVec 2) (h : Keeps s0 s) : Keeps s0 (s.discardStep t c tag) := by
  grind [State.discardStep, State.onWork_keeps, State.showParked_keeps, Keeps.mail]

theorem State.discardBanks_keeps (t : Nat) (c : Nat) (tag : BitVec 2) (h : Keeps s0 s) : Keeps s0 (s.discardBanks t c tag) := by
  unfold State.discardBanks
  with_reducible repeat' first | assumption | apply State.onWork_keeps | split | dsimp only | intro

theorem State.takeFlush_keeps (x : Flush) (h : Keeps s0 s) : Keeps s0 (s.takeFlush x) := by
  unfold State.takeFlush
  dsimp only
  (repeat' split) <;> grind [State.discardBanks_keeps, State.discardStep_keeps, State.dropKept_keeps, State.restoreCounters_keeps, Keeps.mail]

theorem State.commitBank_keeps (t : Nat) (valid : Bool) (b : Bank) (h : Keeps s0 s) : Keeps s0 (s.commitBank t valid b) := by
  unfold State.commitBank
  with_reducible repeat' first | assumption | apply State.orReg_keeps | apply State.setTreg_keeps | apply State.tcount_keeps | split | dsimp only | intro

theorem State.takeCommit_keeps (x : Commit) (h : Keeps s0 s) : Keeps s0 (s.takeCommit x) := by
  unfold State.takeCommit
  with_reducible repeat' first | assumption | apply State.commitBank_keeps | apply State.discardBanks_keeps | apply foldl_keeps | apply foldl_keeps_fst | apply foldl_keeps_snd | split | dsimp only | intro

end Sys2Proof.Machine
end

