-- ==== Sys2Proof/Laws/KeepsServe.lean ====
section
/-! SUPPORT. What the operations of serving keep: KV pools, steps, spills, the watch bill, function tables, memory tiers, remote accesses. -/

set_option Elab.async false
set_option linter.unusedTactic false
set_option linter.unreachableTactic false

namespace Sys2Proof.Machine

open Sys2Proof

variable {s0 s : State}

/-! ### Kv -/

theorem State.devGet_keeps (c : Nat) (cva : Nat) (n : Nat) (h : Keeps s0 s) : Keeps s0 (s.devGet c cva n).1 := by
  unfold State.devGet
  with_reducible repeat' first | assumption | apply State.devRead_keeps | apply thenDo_keeps | split | dsimp only | intro

theorem State.devPut_keeps (c : Nat) (cva : Nat) (n : Nat) (v : Nat) (h : Keeps s0 s) : Keeps s0 (s.devPut c cva n v).1 := by
  unfold State.devPut
  with_reducible repeat' first | assumption | apply State.devWrite_keeps | split | dsimp only | intro

theorem eachDo_keeps {α : Type} (xs : List α) (f : State → α → State × Except Status Unit) (h : Keeps s0 s) (hk : ∀ s y1, Keeps s0 s → Keeps s0 (f s y1).1) : Keeps s0 (eachDo s xs f).1 := by
  unfold eachDo
  with_reducible repeat' first | assumption | apply hk | apply thenDo_keeps | apply foldl_keeps | apply foldl_keeps_fst | apply foldl_keeps_snd | split | dsimp only | intro

theorem State.kvEntry_keeps (c : Nat) (p : Pool) (slot : Nat) (h : Keeps s0 s) : Keeps s0 (s.kvEntry c p slot).1 := by
  unfold State.kvEntry
  with_reducible repeat' first | assumption | apply State.devRead_keeps | apply thenDo_keeps | split | dsimp only | intro

theorem State.kvPage_keeps (c : Nat) (p : Pool) (slot : Nat) (j : Nat) (h : Keeps s0 s) : Keeps s0 (s.kvPage c p slot j).1 := by
  unfold State.kvPage
  with_reducible repeat' first | assumption | apply State.devGet_keeps | split | dsimp only | intro

theorem State.kvCount_keeps (c : Nat) (p : Pool) (cva : Nat) (h : Keeps s0 s) : Keeps s0 (s.kvCount c p cva).1 := by
  unfold State.kvCount
  with_reducible repeat' first | assumption | apply State.devGet_keeps | split | dsimp only | intro

theorem State.kvList_keeps (c : Nat) (p : Pool) (slot : Nat) (n : Nat) (h : Keeps s0 s) : Keeps s0 (s.kvList c p slot n).1 := by
  unfold State.kvList
  with_reducible repeat' first | assumption | apply State.devRead_keeps | apply thenDo_keeps | split | dsimp only | intro

theorem State.kvPop_keeps (c : Nat) (p : Pool) (h : Keeps s0 s) : Keeps s0 (s.kvPop c p).1 := by
  unfold State.kvPop
  with_reducible repeat' first | assumption | apply State.devGet_keeps | apply State.devPut_keeps | apply thenDo_keeps | split | dsimp only | intro

theorem State.kvDrop_keeps (c : Nat) (p : Pool) (cva : Nat) (h : Keeps s0 s) : Keeps s0 (s.kvDrop c p cva).1 := by
  unfold State.kvDrop
  with_reducible repeat' first | assumption | apply State.devGet_keeps | apply State.devPut_keeps | apply thenDo_keeps | split | dsimp only | intro

theorem State.kvKeep_keeps (c : Nat) (p : Pool) (cva : Nat) (h : Keeps s0 s) : Keeps s0 (s.kvKeep c p cva).1 := by
  unfold State.kvKeep
  with_reducible repeat' first | assumption | apply State.devGet_keeps | apply State.devPut_keeps | apply thenDo_keeps | split | dsimp only | intro

theorem State.kvCheckOne_keeps (c : Nat) (p : Pool) (entry : Nat) (seen : List Nat) (h : Keeps s0 s) : Keeps s0 (s.kvCheckOne c p entry seen).1 := by
  unfold State.kvCheckOne
  with_reducible repeat' first | assumption | apply State.devRead_keeps | apply State.kvCount_keeps | apply State.kvEntry_keeps | apply State.kvList_keeps | apply thenDo_keeps | apply foldl_keeps | apply foldl_keeps_fst | apply foldl_keeps_snd | split | dsimp only | intro

theorem State.kvCheck_keeps (c : Nat) (p : Pool) (list : Nat) (count : Nat) (h : Keeps s0 s) : Keeps s0 (s.kvCheck c p list count).1 := by
  unfold State.kvCheck
  with_reducible repeat' first | assumption | apply State.devGet_keeps | apply State.kvCheckOne_keeps | apply eachDo_keeps | apply thenDo_keeps | apply foldl_keeps | apply foldl_keeps_fst | apply foldl_keeps_snd | split | dsimp only | intro

theorem State.kvFresh_keeps (c : Nat) (p : Pool) (h : Keeps s0 s) : Keeps s0 (s.kvFresh c p).1 := by
  unfold State.kvFresh
  with_reducible repeat' first | assumption | apply State.devPut_keeps | apply State.kvPop_keeps | apply thenDo_keeps | split | dsimp only | intro

theorem State.kvCow_keeps (c : Nat) (p : Pool) (u : KvUse) (h : Keeps s0 s) : Keeps s0 (s.kvCow c p u).1 := by
  grind [State.kvCow, State.copyBytes_keeps, State.devPut_keeps, State.kvDrop_keeps, State.kvPage_keeps, State.kvPop_keeps, thenDo_keeps]

theorem State.kvApplyOne_keeps (c : Nat) (p : Pool) (no : BitVec 32) (u : KvUse) (h : Keeps s0 s) : Keeps s0 (s.kvApplyOne c p no u).1 := by
  unfold State.kvApplyOne
  with_reducible repeat' first | assumption | apply State.devPut_keeps | apply State.kvCow_keeps | apply State.kvFresh_keeps | apply State.kvKeep_keeps | apply State.kvList_keeps | apply eachDo_keeps | apply thenDo_keeps | split | dsimp only | intro

theorem State.kvApply_keeps (c : Nat) (p : Pool) (no : BitVec 32) (us : List KvUse) (h : Keeps s0 s) : Keeps s0 (s.kvApply c p no us).1 := by
  unfold State.kvApply
  with_reducible repeat' first | assumption | apply State.kvApplyOne_keeps | apply eachDo_keeps | split | dsimp only | intro

theorem State.kvReset_keeps (c : Nat) (us : List SeqUse) (h : Keeps s0 s) : Keeps s0 (s.kvReset c us).1 := by
  unfold State.kvReset
  with_reducible repeat' first | assumption | apply State.devPut_keeps | apply eachDo_keeps | split | dsimp only | intro

theorem State.fallbackBit_keeps (c : Nat) (slot : Nat) (h : Keeps s0 s) : Keeps s0 (s.fallbackBit c slot).1 := by
  grind [State.fallbackBit, State.devGet_keeps]

theorem State.putFallback_keeps (c : Nat) (on : Bool) (slot : Nat) (v : Nat) (h : Keeps s0 s) : Keeps s0 (s.putFallback c on slot v).1 := by
  unfold State.putFallback
  with_reducible repeat' first | assumption | apply State.devPut_keeps | split | dsimp only | intro

theorem State.setFallback_keeps (c : Nat) (on : Bool) (slot : Nat) (h : Keeps s0 s) : Keeps s0 (s.setFallback c on slot).1 := by
  unfold State.setFallback
  with_reducible repeat' first | assumption | apply State.devGet_keeps | apply State.putFallback_keeps | apply thenDo_keeps | split | dsimp only | intro

theorem State.anyFallback_keeps (c : Nat) (slots : List Nat) (h : Keeps s0 s) : Keeps s0 (s.anyFallback c slots).1 := by
  unfold State.anyFallback
  with_reducible repeat' first | assumption | apply State.fallbackBit_keeps | apply foldl_keeps | apply foldl_keeps_fst | apply foldl_keeps_snd | split | dsimp only | intro

theorem State.kvFree_keeps (c : Nat) (p : Pool) (slot : Nat) (n : Nat) (v : Nat) (h : Keeps s0 s) : Keeps s0 (s.kvFree c p slot n v).1 := by
  unfold State.kvFree
  with_reducible repeat' first | assumption | apply State.devPut_keeps | apply State.devWrite_keeps | apply State.kvDrop_keeps | apply State.kvList_keeps | apply State.putFallback_keeps | apply eachDo_keeps | apply thenDo_keeps | split | dsimp only | intro

theorem orCount_keeps (x : State × Except Status Unit) (k : Nat) (h : Keeps s0 x.1) : Keeps s0 (orCount x k).1 := by
  grind [orCount]

theorem eachCount_keeps {α : Type} (x : State × Nat) (xs : List α) (f : State → α → State × Except Status Unit) (h : Keeps s0 x.1) (hk : ∀ s y1, Keeps s0 s → Keeps s0 (f s y1).1) : Keeps s0 (eachCount x xs f).1 := by
  unfold eachCount
  with_reducible repeat' first | assumption | apply hk | apply orCount_keeps | apply foldl_keeps | apply foldl_keeps_fst | apply foldl_keeps_snd | split | dsimp only | intro

theorem State.kvDropAll_keeps (c : Nat) (p : Pool) (slot : Nat) (n : Nat) (k : Nat) (h : Keeps s0 s) : Keeps s0 (s.kvDropAll c p slot n k).1 := by
  grind [State.kvDropAll, State.kvDrop_keeps, State.kvPage_keeps, thenDo_keeps, eachCount_keeps]

theorem State.kvFreeAll_keeps (c : Nat) (p : Pool) (slot : Nat) (n : Nat) (k : Nat) (h : Keeps s0 s) : Keeps s0 (s.kvFreeAll c p slot n k).1 := by
  unfold State.kvFreeAll
  with_reducible repeat' first | assumption | apply State.devPut_keeps | apply State.devWrite_keeps | apply State.kvDropAll_keeps | apply State.setFallback_keeps | apply orCount_keeps | split | dsimp only | intro

theorem State.kvFinishOne_keeps (c : Nat) (p : Pool) (valid : Bool) (u : SeqUse) (h : Keeps s0 s) : Keeps s0 (s.kvFinishOne c p valid u).1 := by
  grind (gen := 20) (splits := 20) [State.kvFinishOne, State.devGet_keeps, State.devPut_keeps, State.kvDropAll_keeps, State.kvEntry_keeps, State.kvFreeAll_keeps, orCount_keeps, Keeps.free]

theorem State.kvFinish_keeps (c : Nat) (valid : Bool) (us : List SeqUse) (h : Keeps s0 s) : Keeps s0 (s.kvFinish c valid us).1 := by
  unfold State.kvFinish
  with_reducible repeat' first | assumption | apply State.kvFinishOne_keeps | apply foldl_keeps | apply foldl_keeps_fst | apply foldl_keeps_snd | split | dsimp only | intro

theorem State.kvOpenSlot_keeps (c : Nat) (p : Pool) (target : Nat) (h : Keeps s0 s) : Keeps s0 (s.kvOpenSlot c p target).1 := by
  unfold State.kvOpenSlot
  with_reducible repeat' first | assumption | apply State.devGet_keeps | apply State.devPut_keeps | apply State.kvEntry_keeps | apply State.putFallback_keeps | apply thenDo_keeps | split | dsimp only | intro

theorem State.kvForkSlot_keeps (c : Nat) (p : Pool) (source : Nat) (target : Nat) (n : Nat) (h : Keeps s0 s) : Keeps s0 (s.kvForkSlot c p source target n).1 := by
  unfold State.kvForkSlot
  with_reducible repeat' first | assumption | apply State.devGet_keeps | apply State.devPut_keeps | apply State.devRead_keeps | apply State.devWrite_keeps | apply State.kvCount_keeps | apply State.kvEntry_keeps | apply State.kvKeep_keeps | apply State.kvList_keeps | apply State.putFallback_keeps | apply eachDo_keeps | apply thenDo_keeps | split | dsimp only | intro

theorem State.kvCancelSlot_keeps (c : Nat) (p : Pool) (target : Nat) (h : Keeps s0 s) : Keeps s0 (s.kvCancelSlot c p target).1 := by
  unfold State.kvCancelSlot
  with_reducible repeat' first | assumption | apply State.devGet_keeps | apply State.devPut_keeps | apply State.devRead_keeps | apply State.kvCount_keeps | apply State.kvEntry_keeps | apply State.kvFree_keeps | apply eachDo_keeps | apply thenDo_keeps | split | dsimp only | intro

/-! ### Steps -/

theorem State.sweepCtx_keeps (c : Nat) (tail : BitVec 32) (h : Keeps s0 s) : Keeps s0 (s.sweepCtx c tail) := by
  unfold State.sweepCtx
  with_reducible repeat' first | assumption | apply State.faultCtx_keeps | apply State.onCtx_keeps | split | dsimp only | intro

theorem State.fetchFailed_keeps (c : Nat) (x : Ctx) (h : Keeps s0 s) : Keeps s0 (s.fetchFailed c x) := by
  unfold State.fetchFailed
  with_reducible repeat' first | assumption | apply State.faultCtx_keeps | apply State.onCtx_keeps | split | dsimp only | intro

theorem State.tookRecord_keeps (c : Nat) (h : Keeps s0 s) : Keeps s0 (s.tookRecord c) := by
  unfold State.tookRecord
  with_reducible repeat' first | assumption | apply State.onCtx_keeps | split | dsimp only | intro

theorem State.onGen_keeps (c : Nat) (k : Nat) (num : Nat) (f : Gen → Gen) (h : Keeps s0 s) : Keeps s0 (s.onGen c k num f) := by
  unfold State.onGen
  with_reducible repeat' first | assumption | apply State.onCtx_keeps | split | dsimp only | intro

theorem State.settleGen_keeps (c : Nat) (k : Nat) (num : Nat) (h : Keeps s0 s) : Keeps s0 (s.settleGen c k num) := by
  unfold State.settleGen
  with_reducible repeat' first | assumption | apply State.event_keeps | apply State.onGen_keeps | split | dsimp only | intro

theorem State.takeWaypoint_keeps (c : Nat) (home : Nat × Nat) (h : Keeps s0 s) : Keeps s0 (s.takeWaypoint c home).1 := by
  unfold State.takeWaypoint
  with_reducible repeat' first | assumption | apply State.cvaParts_keeps | apply State.readParts_keeps | apply thenDo_keeps | split | dsimp only | intro

theorem State.refuseStep_keeps (c : Nat) (no : BitVec 32) (st : Status) (h : Keeps s0 s) : Keeps s0 (s.refuseStep c no st) := by
  unfold State.refuseStep
  with_reducible repeat' first | assumption | apply State.endStep_keeps | apply State.faultWith_keeps | apply State.logStatus_keeps | split | dsimp only | intro

theorem State.kvChecked_keeps (c : Nat) (x : Ctx) (ws : List Word) (h : Keeps s0 s) : Keeps s0 (s.kvChecked c x ws).1 := by
  unfold State.kvChecked
  with_reducible repeat' first | assumption | apply State.kvCheck_keeps | split | dsimp only | intro

theorem State.admitChecks_keeps (c : Nat) (x : Ctx) (home : Nat × Nat) (ws : List Word) (h : Keeps s0 s) : Keeps s0 (s.admitChecks c x home ws).1 := by
  unfold State.admitChecks
  with_reducible repeat' first | assumption | apply State.kvChecked_keeps | apply State.takeWaypoint_keeps | apply thenDo_keeps | split | dsimp only | intro

theorem State.applyAdmission_keeps (c : Nat) (x : Ctx) (no : BitVec 32) (ws : List Word) (a : Admission) (h : Keeps s0 s) : Keeps s0 (s.applyAdmission c x no ws a).1 := by
  unfold State.applyAdmission
  with_reducible repeat' first | assumption | apply State.anyFallback_keeps | apply State.kvApply_keeps | apply State.onGen_keeps | apply State.onStep_keeps | apply State.watch_keeps | apply thenDo_keeps | split | dsimp only | intro

theorem State.learnStep_keeps (c : Nat) (p : Step) (h : Keeps s0 s) : Keeps s0 (s.learnStep c p) := by
  unfold State.learnStep
  with_reducible repeat' first | assumption | apply State.onTile_keeps | apply State.setTreg_keeps | apply State.watch_keeps | split | dsimp only | intro

theorem State.releasePins_keeps (c : Nat) (p : Step) (h : Keeps s0 s) : Keeps s0 (s.releasePins c p) := by
  unfold State.releasePins
  with_reducible repeat' first | assumption | apply State.onGen_keeps | apply State.settleGen_keeps | split | dsimp only | intro

theorem State.sendCommits_keeps (c : Nat) (p : Step) (valid : Bool) (h : Keeps s0 s) : Keeps s0 (s.sendCommits c p valid) := by
  unfold State.sendCommits
  with_reducible repeat' first | assumption | apply Keeps.mail | rfl | exact id | split | dsimp only | intro

theorem State.completeStep_keeps (c : Nat) (p : Step) (h : Keeps s0 s) : Keeps s0 (s.completeStep c p) := by
  unfold State.completeStep
  with_reducible repeat' first | assumption | apply State.emit_keeps | apply State.kvFinish_keeps | apply State.learnStep_keeps | apply State.onCtx_keeps | apply State.putCompletion_keeps | apply State.releasePins_keeps | apply State.sendCommits_keeps | apply State.tcount_keeps | apply foldl_keeps | apply foldl_keeps_fst | apply foldl_keeps_snd | split | dsimp only | intro

theorem State.completeRecord_keeps (c : Nat) (i : Nat) (ws : List Word) (st : Status) (h : Keeps s0 s) : Keeps s0 (s.completeRecord c i ws st) := by
  unfold State.completeRecord
  with_reducible repeat' first | assumption | apply State.putCompletion_keeps | split | dsimp only | intro

theorem State.kvRecord_keeps (c : Nat) (mine : Nat → Bool) (k : State → Pool → List Word → State × Except Status Unit) (h : Keeps s0 s) (hk : ∀ s y1 y2, Keeps s0 s → Keeps s0 (k s y1 y2).1) : Keeps s0 (s.kvRecord c mine k) := by
  grind [State.kvRecord, State.completeRecord_keeps, State.tookRecord_keeps]

theorem State.fallBack_keeps (c : Nat) (t : Nat) (p : Step) (h : Keeps s0 s) : Keeps s0 (s.fallBack c t p) := by
  unfold State.fallBack
  with_reducible repeat' first | assumption | apply State.abortStep_keeps | apply State.countReplay_keeps | apply State.emit_keeps | apply State.onStep_keeps | apply State.setFallback_keeps | apply State.tcount_keeps | apply State.watch_keeps | apply foldl_keeps | apply foldl_keeps_fst | apply foldl_keeps_snd | split | dsimp only | intro

/-! ### Serve -/

theorem State.trigger1_keeps (a : Nat) (w : Wr) (k : State → State) (h : Keeps s0 s) (hk : ∀ s, Keeps s0 s → Keeps s0 (k s)) : Keeps s0 (s.trigger1 a w k) := by
  unfold State.trigger1
  with_reducible repeat' first | assumption | apply hk | apply State.write_keeps | split | dsimp only | intro

theorem State.takeGranules_keeps (t : Nat) (c : Nat) (base : Nat) (count : Nat) (h : Keeps s0 s) : Keeps s0 (s.takeGranules t c base count) := by
  unfold State.takeGranules
  with_reducible repeat' first | assumption | apply State.onTile_keeps | apply foldl_keeps | apply foldl_keeps_fst | apply foldl_keeps_snd | split | dsimp only | intro

theorem State.giveEntry_keeps (t : Nat) (n : Nat) (c : Nat) (base : Nat) (count : Nat) (h : Keeps s0 s) : Keeps s0 (s.giveEntry t n c base count) := by
  unfold State.giveEntry
  with_reducible repeat' first | assumption | apply State.setTreg_keeps | apply State.takeGranules_keeps | split | dsimp only | intro

theorem State.zeroGranules_keeps (t : Nat) (gs : List Nat) (h : Keeps s0 s) : Keeps s0 (s.zeroGranules t gs) := by
  unfold State.zeroGranules
  with_reducible repeat' first | assumption | apply State.onTile_keeps | split | dsimp only | intro

theorem State.preemptStatus_keeps (t : Nat) (st : Status) (busy : Bool) (h : Keeps s0 s) : Keeps s0 (s.preemptStatus t st busy) := by
  unfold State.preemptStatus
  with_reducible repeat' first | assumption | apply State.setTreg_keeps | split | dsimp only | intro

theorem State.refuseOrder_keeps (t : Nat) (st : Status) (h : Keeps s0 s) : Keeps s0 (s.refuseOrder t st) := by
  unfold State.refuseOrder
  with_reducible repeat' first | assumption | apply State.preemptStatus_keeps | split | dsimp only | intro

theorem State.beginSpill_keeps (t : Nat) (n : Nat) (m : Nat) (b : Nat) (o : Nat) (h : Keeps s0 s) : Keeps s0 (s.beginSpill t n m b o) := by
  unfold State.beginSpill
  with_reducible repeat' first | assumption | apply State.onWork_keeps | apply State.park_keeps | apply State.preemptStatus_keeps | apply foldl_keeps | apply foldl_keeps_fst | apply foldl_keeps_snd | split | dsimp only | intro

theorem State.unpark_keeps (t : Nat) (n : Nat) (h : Keeps s0 s) : Keeps s0 (s.unpark t n) := by
  unfold State.unpark
  with_reducible repeat' first | assumption | apply State.onWork_keeps | split | dsimp only | intro

theorem State.undoSpill_keeps (t : Nat) (o : Order) (st : Status) (h : Keeps s0 s) : Keeps s0 (s.undoSpill t o st) := by
  unfold State.undoSpill
  with_reducible repeat' first | assumption | apply State.onWork_keeps | apply State.preemptStatus_keeps | apply State.unpark_keeps | split | dsimp only | intro

theorem State.spillKept_keeps (v : Nat) (a : Nat) (k : Option Kept) (h : Keeps s0 s) : Keeps s0 (s.spillKept v a k).1 := by
  unfold State.spillKept
  with_reducible repeat' first | assumption | apply State.devWrite_keeps | split | dsimp only | intro

theorem State.spillBytes_keeps (t : Nat) (v : Nat) (off : Nat) (a : Nat) (n : Nat) (h : Keeps s0 s) : Keeps s0 (s.spillBytes t v off a n).1 := by
  unfold State.spillBytes
  with_reducible repeat' first | assumption | apply State.devWrite_keeps | apply State.readPart_keeps | apply thenDo_keeps | split | dsimp only | intro

theorem thenDo_keepsR {α β : Type} (x : State × Except Status α) (f : State → α → State × Except Status β)
    (h : KeepsR s0 x) (hk : ∀ s a, Keeps s0 s → KeepsR s0 (f s a)) : KeepsR s0 (thenDo x f) := thenDo_keeps x f h hk

theorem eachDo_keepsR {α : Type} (xs : List α) (f : State → α → State × Except Status Unit) (h : Keeps s0 s)
    (hk : ∀ s a, Keeps s0 s → KeepsR s0 (f s a)) : KeepsR s0 (eachDo s xs f) := eachDo_keeps xs f h hk

theorem State.spillBytes_keepsR (t v off a n : Nat) (h : Keeps s0 s) : KeepsR s0 (s.spillBytes t v off a n) :=
  State.spillBytes_keeps t v off a n h

theorem State.spillKept_keepsR (v a : Nat) (k : Option Kept) (h : Keeps s0 s) : KeepsR s0 (s.spillKept v a k) :=
  State.spillKept_keeps v a k h

theorem State.spillCopy_keepsR (t : Nat) (o : Order) (h : Keeps s0 s) : KeepsR s0 (s.spillCopy t o) := by
  unfold State.spillCopy
  exact thenDo_keepsR _ _ (State.spillKept_keepsR _ _ _ h) fun s1 _ h =>
    eachDo_keepsR _ _ h fun s2 i h => State.spillBytes_keepsR _ _ _ _ _ h

theorem State.spillCopy_keeps (t : Nat) (o : Order) (h : Keeps s0 s) : Keeps s0 (s.spillCopy t o).1 :=
  (State.spillCopy_keepsR t o h).fst

theorem State.finishSpill_keeps (t : Nat) (o : Order) (h : Keeps s0 s) : Keeps s0 (s.finishSpill t o) := by
  unfold State.finishSpill
  with_reducible repeat' first | assumption | apply State.giveEntry_keeps | apply State.onWork_keeps | apply State.preemptStatus_keeps | apply State.setField_keeps | apply State.setTreg_keeps | apply State.tcount_keeps | apply State.zeroGranules_keeps | split | dsimp only | intro

theorem State.restoreBytes_keeps (t : Nat) (v : Nat) (a : Nat) (off : Nat) (n : Nat) (h : Keeps s0 s) : Keeps s0 (s.restoreBytes t v a off n).1 := by
  grind [State.restoreBytes, State.devRead_keeps, State.spWrite_keeps]

theorem doAll_keeps (f : State → Nat → State × Option Status) (l : List Nat) (h : Keeps s0 s)
    (hk : ∀ s i, Keeps s0 s → KeepsR s0 (f s i)) : KeepsR s0 (doAll s f l) := by
  induction l generalizing s with
  | nil => exact h
  | cons a l ih => exact ih (hk s a h)

theorem State.restoreBytes_keepsR (t v a off n : Nat) (h : Keeps s0 s) : KeepsR s0 (s.restoreBytes t v a off n) :=
  State.restoreBytes_keeps t v a off n h

theorem State.restoreCopy_keepsR (t : Nat) (o : Order) (base count : Nat) (h : Keeps s0 s) : KeepsR s0 (s.restoreCopy t o base count) := by
  unfold State.restoreCopy
  exact doAll_keeps _ _ (State.zeroGranules_keeps _ _ h) fun s i h => State.restoreBytes_keepsR _ _ _ _ _ h

theorem State.restoreCopy_keeps (t : Nat) (o : Order) (base count : Nat) (h : Keeps s0 s) : Keeps s0 (s.restoreCopy t o base count).1 :=
  (State.restoreCopy_keepsR t o base count h).fst

theorem State.restoreKept_keeps (v : Nat) (a : Nat) (k : Option Kept) (h : Keeps s0 s) : Keeps s0 (s.restoreKept v a k).1 := by
  unfold State.restoreKept
  (repeat' split) <;> grind [State.devRead_keeps]

theorem State.restoreParked_keeps (t : Nat) (n : Nat) (a : Nat) (i : Nat) (h : Keeps s0 s) : Keeps s0 (s.restoreParked t n a i).1 := by
  grind [State.restoreParked, State.devRead_keeps, State.onWork_keeps]

theorem State.writeLine_keeps (a : Nat) (ws : List Word) (h : Keeps s0 s) : Keeps s0 (s.writeLine a ws) := by
  unfold State.writeLine
  with_reducible repeat' first | assumption | apply State.healBlock_keeps | apply State.setPa_keeps | apply State.supersede_keeps | apply foldl_keeps | apply foldl_keeps_fst | apply foldl_keeps_snd | split | dsimp only | intro

theorem State.putBill_keeps  (h : Keeps s0 s) : Keeps s0 (s.putBill) := by
  unfold State.putBill
  with_reducible repeat' first | assumption | apply State.writeLine_keeps | split | dsimp only | intro

theorem State.changeLimits_keeps  (h : Keeps s0 s) : Keeps s0 (s.changeLimits) := by
  unfold State.changeLimits
  with_reducible repeat' first | assumption | apply State.putBill_keeps | apply State.setReg_keeps | split | dsimp only | intro

theorem State.changeBill_keeps (ds : List Nat) (h : Keeps s0 s) : Keeps s0 (s.changeBill ds) := by
  have k : Keeps s0 { s with power := { s.power with decode := { s.power.decode with g := 0 }, prefill := { s.power.prefill with g := 0 } } } :=
    h.power _ rfl
  unfold State.changeBill
  dsimp only
  split
  · exact h
  · exact State.emit_keeps _ (State.putBill_keeps (State.count_keeps _ _ (State.setReg_keeps _ _ (State.setReg_keeps _ _ k))))

theorem State.markBacklog_keeps  (h : Keeps s0 s) : Keeps s0 (s.markBacklog) := by
  unfold State.markBacklog
  with_reducible repeat' first | assumption | apply Keeps.marks | rfl | exact id | split | dsimp only | intro

/-! ### Tables -/

theorem State.ftBusy_keeps  (h : Keeps s0 s) : Keeps s0 (s.ftBusy) := by
  unfold State.ftBusy
  with_reducible repeat' first | assumption | apply State.setField_keeps | split | dsimp only | intro

theorem State.ftStatus_keeps (st : Status) (busy : Bool) (h : Keeps s0 s) : Keeps s0 (s.ftStatus st busy) := by
  unfold State.ftStatus
  with_reducible repeat' first | assumption | apply State.setReg_keeps | split | dsimp only | intro

theorem State.ftFail_keeps (st : Status) (at_ : Option FailAt) (h : Keeps s0 s) : Keeps s0 (s.ftFail st at_) := by
  unfold State.ftFail
  with_reducible repeat' first | assumption | apply State.ftStatus_keeps | apply State.setReg_keeps | apply Keeps.tables | rfl | exact id | split | dsimp only | intro

theorem State.ftFetch_keeps  (h : Keeps s0 s) : Keeps s0 (s.ftFetch).1 := by
  grind [State.ftFetch, State.readPart_keeps]

theorem State.ftLoad_keeps (n : Nat) (h : Keeps s0 s) : Keeps s0 (s.ftLoad n) := by
  grind [State.ftLoad, State.ftFail_keeps, State.ftFetch_keeps, State.ftBusy_keeps, State.log_keeps, Keeps.tables]

theorem State.tableFailed_keeps (c : FtCmd) (h : Keeps s0 s) : Keeps s0 (s.tableFailed c) := by
  unfold State.tableFailed
  with_reducible repeat' first | assumption | apply State.ftFail_keeps | apply State.log_keeps | split | dsimp only | intro

theorem State.ftArrive_keeps  (h : Keeps s0 s) : Keeps s0 (s.ftArrive) := by
  grind (splits := 20) (gen := 20) [State.ftArrive, State.ftFail_keeps, State.ftFetch_keeps, State.tableFailed_keeps, Keeps.tables]

theorem State.ftTick_keeps  (h : Keeps s0 s) : Keeps s0 (s.ftTick) := by
  grind [State.ftTick, State.ftArrive_keeps]

theorem State.ftPass_keeps  (h : Keeps s0 s) : Keeps s0 (s.ftPass) := by
  grind [State.ftPass, State.ftFail_keeps, State.load_keeps, Keeps.tables]

theorem State.ftEnd_keeps (c : FtCmd) (h : Keeps s0 s) : Keeps s0 (s.ftEnd c) := by
  unfold State.ftEnd
  with_reducible repeat' first | assumption | apply State.ftStatus_keeps | apply State.load_keeps | apply State.setField_keeps | apply State.setReg_keeps | apply Keeps.tables | rfl | exact id | split | dsimp only | intro

theorem State.ftAbandon_keeps  (h : Keeps s0 s) : Keeps s0 (s.ftAbandon) := by
  unfold State.ftAbandon
  (repeat' split) <;> grind [State.ftStatus_keeps, State.log_keeps, State.onUpkeep_keeps, State.setField_keeps, State.setReg_keeps, Keeps.tables, foldl_keeps, foldl_keeps_fst, foldl_keeps_snd]

/-! ### Tiers -/

theorem State.tierCommand_keeps (a : Nat) (w : Wr) (k : State → Word → State) (h : Keeps s0 s) (hk : ∀ s y1, Keeps s0 s → Keeps s0 (k s y1)) : Keeps s0 (s.tierCommand a w k) := by
  unfold State.tierCommand
  with_reducible repeat' first | assumption | apply hk | apply State.record_keeps | apply State.write_keeps | split | dsimp only | intro

theorem State.tierJob_keeps (j : Option Bool) (h : Keeps s0 s) : Keeps s0 (s.tierJob j) := by
  grind [State.tierJob, State.setField_keeps, Keeps.mem, State.setField_mem, Memory.wf, FMap.canon_put, FMap.canon_clear, FMap.sorted_nil, FMap.canon_putList, FMap.canon_erase, FMap.canon_keep, FMap.sorted_clear, FMap.sorted_insert, FMap.sorted_erase, FMap.canon_nil]

theorem State.harvestPage_keeps (root : Nat) (p : Nat) (h : Keeps s0 s) : Keeps s0 (s.harvestPage root p).1 := by
  unfold State.harvestPage
  with_reducible repeat' first | assumption | apply State.setPa_keeps | apply State.writeBackAll_keeps | split | dsimp only | intro

theorem State.harvestPages_keeps (root : Nat) (first : Nat) (buf : Nat) (z1 : List Nat) (h : Keeps s0 s) : Keeps s0 (s.harvestPages root first buf z1) := by
  revert h
  fun_induction State.harvestPages s root first buf z1 <;> grind [State.harvestPage_keeps, State.hostWrite_keeps]

theorem State.farSlices_keeps  (h : Keeps s0 s) : Keeps s0 (s.farSlices) := by
  unfold State.farSlices
  with_reducible repeat' first | assumption | apply State.setField_keeps | split | dsimp only | intro

theorem State.farLevel_keeps (n : Nat) (level : Nat) (h : Keeps s0 s) : Keeps s0 (s.farLevel n level) := by
  unfold State.farLevel
  with_reducible repeat' first | assumption | apply State.farSlices_keeps | apply State.setReg_keeps | apply Keeps.light | rfl | exact id | split | dsimp only | intro

theorem State.farSilent_keeps (n : Nat) (h : Keeps s0 s) : Keeps s0 (s.farSilent n) := by
  unfold State.farSilent
  with_reducible repeat' first | assumption | apply State.farLevel_keeps | apply State.log_keeps | apply State.record_keeps | split | dsimp only | intro

theorem State.endWhere_keeps (st : Status) (test : Req → Bool) (h : Keeps s0 s) : Keeps s0 (s.endWhere st test) := by
  unfold State.endWhere
  with_reducible repeat' first | assumption | apply State.endReq_keeps | apply foldl_keeps | apply foldl_keeps_fst | apply foldl_keeps_snd | split | dsimp only | intro

/-! ### Remote -/

theorem State.onFab_keeps (t : Nat) (f : FabricSide → FabricSide) (h : Keeps s0 s) : Keeps s0 (s.onFab t f) := by
  unfold State.onFab
  with_reducible repeat' first | assumption | apply State.onTile_keeps | split | dsimp only | intro

theorem State.endStall_keeps (t : Nat) (n : Nat) (ctx : Nat) (id : BitVec 32) (pc : BitVec 48) (res : Except Status (List Byte)) (put : List Byte → Slot → Slot) (h : Keeps s0 s) : Keeps s0 (s.endStall t n ctx id pc res put) := by
  unfold State.endStall
  with_reducible repeat' first | assumption | apply State.onTile_keeps | apply State.raise_keeps | split | dsimp only | intro

theorem State.endStore_keeps (t : Nat) (n : Nat) (ctx : Nat) (pc : BitVec 48) (no : BitVec 32) (st : Status) (h : Keeps s0 s) : Keeps s0 (s.endStore t n ctx pc no st) := by
  unfold State.endStore
  with_reducible repeat' first | assumption | apply State.raise_keeps | apply State.takeStatus_keeps | split | dsimp only | intro

theorem State.remoteEnd_keeps (t : Nat) (q : Remote) (res : Except Status (List Byte)) (h : Keeps s0 s) : Keeps s0 (s.remoteEnd t q res) := by
  unfold State.remoteEnd
  with_reducible repeat' first | assumption | apply State.amo_keeps | apply State.blame_keeps | apply State.dropColl_keeps | apply State.endReq_keeps | apply State.endStall_keeps | apply State.endStore_keeps | apply State.load_keeps | apply State.onFab_keeps | apply State.onRun_keeps | apply State.store_keeps | split | dsimp only | intro

end Sys2Proof.Machine
end

