-- ==== Sys2Proof/Laws/KeepsLink.lean ====
section
/-! SUPPORT. What the operations of the light ports, the fabric, the management ring, charts, security and the host link keep. -/

set_option Elab.async false
set_option linter.unusedTactic false
set_option linter.unreachableTactic false

namespace Sys2Proof.Machine

open Sys2Proof

variable {s0 s : State}

/-! ### Port -/

theorem State.onPort_keeps (p : Nat) (f : Port → Port) (h : Keeps s0 s) : Keeps s0 (s.onPort p f) := by
  unfold State.onPort
  with_reducible repeat' first | assumption | apply Keeps.light | rfl | exact id | split | dsimp only | (simp; done) | intro

theorem State.enterPort_keeps (p : Nat) (k : Nat) (h : Keeps s0 s) : Keeps s0 (s.enterPort p k) := by
  unfold State.enterPort
  with_reducible repeat' first | assumption | apply State.onPort_keeps | apply State.setField_keeps | split | dsimp only | intro

theorem State.portStatus_keeps (p : Nat) (st : Status) (h : Keeps s0 s) : Keeps s0 (s.portStatus p st) := by
  unfold State.portStatus
  with_reducible repeat' first | assumption | apply State.logIf_keeps | apply State.setField_keeps | split | dsimp only | intro

theorem State.lightStatus_keeps (st : Status) (h : Keeps s0 s) : Keeps s0 (s.lightStatus st) := by
  unfold State.lightStatus
  with_reducible repeat' first | assumption | apply State.logIf_keeps | apply State.record_keeps | split | dsimp only | intro

theorem State.setGates_keeps (p : Nat) (gates : Nat) (laser : Bool) (h : Keeps s0 s) : Keeps s0 (s.setGates p gates laser) := by
  unfold State.setGates
  with_reducible repeat' first | assumption | apply State.setReg_keeps | split | dsimp only | intro

theorem State.emitLine_keeps (p : Nat) (bytes : List Byte) (h : Keeps s0 s) : Keeps s0 (s.emitLine p bytes) := by
  unfold State.emitLine
  with_reducible repeat' first | assumption | apply Keeps.outside | rfl | exact id | split | dsimp only | (simp; done) | intro

theorem State.emitBlock_keeps (p : Nat) (bytes : List Byte) (h : Keeps s0 s) : Keeps s0 (s.emitBlock p bytes) := by
  unfold State.emitBlock
  with_reducible repeat' first | assumption | apply State.emitLine_keeps | apply State.onPort_keeps | split | dsimp only | intro

theorem State.idleBlocks_keeps (p : Nat) (z1 : Nat) (h : Keeps s0 s) : Keeps s0 (s.idleBlocks p z1) := by
  revert h
  fun_induction State.idleBlocks s p z1 <;> grind [State.emitBlock_keeps]

theorem State.emitHeld_keeps (p : Nat) (h' : Held) (h : Keeps s0 s) : Keeps s0 (s.emitHeld p h') := by
  unfold State.emitHeld
  with_reducible repeat' first | assumption | apply State.emitBlock_keeps | split | dsimp only | intro

theorem State.sendParcel_keeps (p : Nat) (c : Parcel) (h : Keeps s0 s) : Keeps s0 (s.sendParcel p c) := by
  unfold State.sendParcel
  with_reducible repeat' first | assumption | apply State.emitHeld_keeps | apply State.onPort_keeps | split | dsimp only | intro

theorem State.pumpControl_keeps (p : Nat) (h : Keeps s0 s) : Keeps s0 (s.pumpControl p) := by
  unfold State.pumpControl
  with_reducible repeat' first | assumption | apply State.onPort_keeps | apply State.sendParcel_keeps | apply foldl_keeps | apply foldl_keeps_fst | apply foldl_keeps_snd | split | dsimp only | intro

theorem State.sendControl_keeps (p : Nat) (c : Cargo) (h : Keeps s0 s) : Keeps s0 (s.sendControl p c) := by
  unfold State.sendControl
  with_reducible repeat' first | assumption | apply State.onPort_keeps | apply State.pumpControl_keeps | split | dsimp only | intro

theorem State.askResend_keeps (p : Nat) (h : Keeps s0 s) : Keeps s0 (s.askResend p) := by
  unfold State.askResend
  with_reducible repeat' first | assumption | apply State.emitBlock_keeps | apply State.onPort_keeps | split | dsimp only | intro

theorem State.settleSlots_keeps (p : Nat) (h : Keeps s0 s) : Keeps s0 (s.settleSlots p) := by
  unfold State.settleSlots
  with_reducible repeat' first | assumption | apply State.onPort_keeps | apply foldl_keeps | apply foldl_keeps_fst | apply foldl_keeps_snd | split | dsimp only | intro

theorem State.settleAllSlots_keeps  (h : Keeps s0 s) : Keeps s0 (s.settleAllSlots) := by
  unfold State.settleAllSlots
  with_reducible repeat' first | assumption | apply State.settleSlots_keeps | apply foldl_keeps | apply foldl_keeps_fst | apply foldl_keeps_snd | split | dsimp only | intro

theorem State.sendNext_keeps (p n : Nat) (h : Keeps s0 s) (s1 : State) (e : s.sendNext p n = some s1) : Keeps s0 s1 := by
  revert h
  fun_induction State.sendNext s p n with
  | case1 => cases e
  | case2 s n x u c k hk q hq => cases e; exact fun h => State.onPort_keeps _ _ (State.count_keeps _ _ (State.sendParcel_keeps _ _ h))
  | case3 => cases e
  | case4 => cases e; exact fun h => State.onPort_keeps _ _ h
  | case5 s n x u hk hm ih => exact fun h => ih e (State.onPort_keeps _ _ h)

theorem State.sendSome_keeps (p : Nat) (z1 : Nat) (h : Keeps s0 s) : Keeps s0 (s.sendSome p z1).1 := by
  revert h
  fun_induction State.sendSome s p z1 <;> grind [State.sendNext_keeps]

theorem State.sendData_keeps (p : Nat) (h : Keeps s0 s) : Keeps s0 (s.sendData p).1 := by
  unfold State.sendData
  with_reducible repeat' first | assumption | apply State.count_keeps | apply State.sendSome_keeps | split | dsimp only | intro

theorem State.portTick_keeps (p : Nat) (h : Keeps s0 s) : Keeps s0 (s.portTick p) := by
  unfold State.portTick
  with_reducible repeat' first | assumption | apply State.idleBlocks_keeps | apply State.sendData_keeps | split | dsimp only | intro

theorem State.ackBlocks_keeps (p : Nat) (a : BitVec 24) (h : Keeps s0 s) : Keeps s0 (s.ackBlocks p a) := by
  unfold State.ackBlocks
  with_reducible repeat' first | assumption | apply State.onPort_keeps | apply State.pumpControl_keeps | apply State.settleSlots_keeps | split | dsimp only | intro

theorem State.resend_keeps (p : Nat) (again : List Held) (h : Keeps s0 s) : Keeps s0 (s.resend p again) := by
  unfold State.resend
  with_reducible repeat' first | assumption | apply State.count_keeps | apply State.emitHeld_keeps | apply State.onPort_keeps | apply foldl_keeps | apply foldl_keeps_fst | apply foldl_keeps_snd | split | dsimp only | intro

/-! ### Topology -/

theorem State.rerouted_keeps (old : State) (h : Keeps s0 s) : Keeps s0 (State.rerouted old s) := h.tiles _ (FMap.sorted_map _)

theorem State.mapChanged_keeps  (h : Keeps s0 s) : Keeps s0 (s.mapChanged) := by
  grind [State.mapChanged, State.lightStatus_keeps, State.setField_keeps, Keeps.light]

theorem State.flood_keeps (but : Nat) (x : LinkState) (h : Keeps s0 s) : Keeps s0 (s.flood but x) := by
  unfold State.flood
  with_reducible repeat' first | assumption | apply State.sendControl_keeps | apply foldl_keeps | apply foldl_keeps_fst | apply foldl_keeps_snd | split | dsimp only | intro

theorem State.announce_keeps (p : Nat) (up : Bool) (h : Keeps s0 s) : Keeps s0 (s.announce p up) := by
  grind [State.announce, State.flood_keeps, State.mapChanged_keeps, State.onPort_keeps, Keeps.light]

theorem State.enqueueBlocks_keeps (p : Nat) (cls : Nat) (phase : Bool) (job : BitVec 20) (party : Party) (blocks : List (List Byte)) (h : Keeps s0 s) : Keeps s0 (s.enqueueBlocks p cls phase job party blocks) := by
  unfold State.enqueueBlocks
  with_reducible repeat' first | assumption | apply State.onPort_keeps | split | dsimp only | intro

theorem State.sendMessage_keeps (p : Nat) (cls : Nat) (detour : Bool) (job : BitVec 20) (party : Party) (bytes : List Byte) (h : Keeps s0 s) : Keeps s0 (s.sendMessage p cls detour job party bytes) := by
  unfold State.sendMessage
  with_reducible repeat' first | assumption | apply State.count_keeps | apply State.enqueueBlocks_keeps | split | dsimp only | intro

theorem State.sendAnswer_keeps (a : Answer) (h : Keeps s0 s) : Keeps s0 (s.sendAnswer a) := by
  grind [State.sendAnswer, State.sendMessage_keeps, Keeps.light]

theorem State.failBack_keeps (node : BitVec 12) (tile : BitVec 10) (id : BitVec 32) (job : BitVec 20) (st : Status) (h : Keeps s0 s) : Keeps s0 (s.failBack node tile id job st) := by
  unfold State.failBack
  with_reducible repeat' first | assumption | apply State.count_keeps | apply State.sendAnswer_keeps | split | dsimp only | intro

theorem State.failRemotes_keeps (refs : List (Nat × BitVec 32)) (st : Status) (h : Keeps s0 s) : Keeps s0 (s.failRemotes refs st) := by
  unfold State.failRemotes
  with_reducible repeat' first | assumption | apply State.remoteEnd_keeps | apply foldl_keeps | apply foldl_keeps_fst | apply foldl_keeps_snd | split | dsimp only | intro

theorem State.failOwn_keeps (refs : List (Nat × BitVec 32)) (h : Keeps s0 s) : Keeps s0 (s.failOwn refs) := by
  grind [State.failOwn, State.failRemotes_keeps, Keeps.dbg]

theorem State.failHeld_keeps (x : Port) (h : Keeps s0 s) : Keeps s0 (s.failHeld x) := by
  unfold State.failHeld
  with_reducible repeat' first | assumption | apply State.failBack_keeps | apply State.failOwn_keeps | apply foldl_keeps | apply foldl_keeps_fst | apply foldl_keeps_snd | split | dsimp only | intro

/-! ### Light -/

theorem State.dropLink_keeps (p : Nat) (k : Nat) (h : Keeps s0 s) : Keeps s0 (s.dropLink p k) := by
  unfold State.dropLink
  with_reducible repeat' first | assumption | apply State.announce_keeps | apply State.count_keeps | apply State.enterPort_keeps | apply State.failHeld_keeps | apply State.onPort_keeps | apply State.rerouted_keeps | apply State.setField_keeps | apply State.setReg_keeps | apply State.settleSlots_keeps | split | dsimp only | intro

theorem State.goDark_keeps (p : Nat) (h : Keeps s0 s) : Keeps s0 (s.goDark p) := by
  unfold State.goDark
  with_reducible repeat' first | assumption | apply State.dropLink_keeps | apply State.setGates_keeps | split | dsimp only | intro

theorem State.negotiationFailed_keeps (p : Nat) (st : Status) (h : Keeps s0 s) : Keeps s0 (s.negotiationFailed p st) := by
  unfold State.negotiationFailed
  with_reducible repeat' first | assumption | apply State.dropLink_keeps | apply State.portStatus_keeps | apply State.setGates_keeps | split | dsimp only | intro

theorem State.goOff_keeps (p : Nat) (h : Keeps s0 s) : Keeps s0 (s.goOff p) := by
  unfold State.goOff
  with_reducible repeat' first | assumption | apply State.dropLink_keeps | apply State.setField_keeps | apply State.setGates_keeps | split | dsimp only | intro

theorem State.retrain_keeps (p : Nat) (h : Keeps s0 s) : Keeps s0 (s.retrain p) := by
  unfold State.retrain
  with_reducible repeat' first | assumption | apply State.dropLink_keeps | apply State.goDark_keeps | apply State.onPort_keeps | split | dsimp only | intro

theorem State.refreshPort_keeps (p : Nat) (h : Keeps s0 s) : Keeps s0 (s.refreshPort p) := by
  unfold State.refreshPort
  with_reducible repeat' first | assumption | apply State.goDark_keeps | apply State.goOff_keeps | split | dsimp only | intro

theorem State.refreshPorts_keeps  (h : Keeps s0 s) : Keeps s0 (s.refreshPorts) := by
  unfold State.refreshPorts
  with_reducible repeat' first | assumption | apply State.refreshPort_keeps | apply foldl_keeps | apply foldl_keeps_fst | apply foldl_keeps_snd | split | dsimp only | intro

theorem State.testMode_keeps (p : Nat) (c : Candidate) (fec : Bool) (h : Keeps s0 s) : Keeps s0 (s.testMode p c fec) := by
  unfold State.testMode
  with_reducible repeat' first | assumption | apply State.onPort_keeps | apply State.setReg_keeps | split | dsimp only | intro

theorem State.tryMode_keeps (p : Nat) (k : Nat) (h : Keeps s0 s) : Keeps s0 (s.tryMode p k) := by
  unfold State.tryMode
  with_reducible repeat' first | assumption | apply State.negotiationFailed_keeps | apply State.onPort_keeps | apply State.testMode_keeps | split | dsimp only | intro

theorem State.sendCapability_keeps (p : Nat) (h : Keeps s0 s) : Keeps s0 (s.sendCapability p) := by
  unfold State.sendCapability
  with_reducible repeat' first | assumption | apply State.sendControl_keeps | split | dsimp only | intro

theorem State.advertise_keeps (p : Nat) (was : Nat) (h : Keeps s0 s) : Keeps s0 (s.advertise p was) := by
  unfold State.advertise
  with_reducible repeat' first | assumption | apply State.sendControl_keeps | split | dsimp only | intro

theorem State.settlePort_keeps (p : Nat) (h : Keeps s0 s) : Keeps s0 (s.settlePort p) := by
  unfold State.settlePort
  with_reducible repeat' first | assumption | apply State.advertise_keeps | apply State.announce_keeps | apply State.count_keeps | apply State.failHeld_keeps | apply State.onPort_keeps | apply State.portStatus_keeps | apply State.rerouted_keeps | apply State.setField_keeps | split | dsimp only | intro

theorem State.judge_keeps (p : Nat) (h : Keeps s0 s) : Keeps s0 (s.judge p) := by
  unfold State.judge
  with_reducible repeat' first | assumption | apply State.settlePort_keeps | apply State.testMode_keeps | apply State.tryMode_keeps | split | dsimp only | intro

theorem State.rewind_keeps (p : Nat) (q : BitVec 24) (h : Keeps s0 s) : Keeps s0 (s.rewind p q) := by
  unfold State.rewind
  with_reducible repeat' first | assumption | apply State.resend_keeps | apply State.retrain_keeps | split | dsimp only | intro

theorem State.forwardBlock_keeps (p : Nat) (vc : BitVec 6) (flits : List Byte) (x : Transit) (h : Keeps s0 s) : Keeps s0 (s.forwardBlock p vc flits x) := by
  unfold State.forwardBlock
  with_reducible repeat' first | assumption | apply State.count_keeps | apply State.enqueueBlocks_keeps | apply State.failBack_keeps | split | dsimp only | intro

theorem State.giveWithheld_keeps  (h : Keeps s0 s) : Keeps s0 (s.giveWithheld) := by
  unfold State.giveWithheld
  with_reducible repeat' first | assumption | apply State.onPort_keeps | apply foldl_keeps | apply foldl_keeps_fst | apply foldl_keeps_snd | split | dsimp only | intro

theorem State.takeBlock_keeps (p : Nat) (block : List Byte) (h0 : Word) (h1 : Word) (x : Option Transit) (h : Keeps s0 s) : Keeps s0 (s.takeBlock p block h0 h1 x) := by
  unfold State.takeBlock
  with_reducible repeat' first | assumption | apply State.ackBlocks_keeps | apply State.askResend_keeps | apply State.count_keeps | apply State.forwardBlock_keeps | apply State.onPort_keeps | split | dsimp only | intro

theorem State.receiveBlock_keeps (p : Nat) (block : List Byte) (x : Option Transit) (h : Keeps s0 s) : Keeps s0 (s.receiveBlock p block x) := by
  unfold State.receiveBlock
  with_reducible repeat' first | assumption | apply State.askResend_keeps | apply State.count_keeps | apply State.takeBlock_keeps | split | dsimp only | intro

theorem State.putFields_keeps (a : Nat) (v : Word) (m : Word) (fs : List Field) (h : Keeps s0 s) : Keeps s0 (s.putFields a v m fs) := by
  unfold State.putFields
  with_reducible repeat' first | assumption | apply State.record_keeps | apply State.setReg_keeps | split | dsimp only | intro

theorem State.settlePorts_keeps  (h : Keeps s0 s) : Keeps s0 (s.settlePorts) := by
  unfold State.settlePorts
  with_reducible repeat' first | assumption | apply State.settlePort_keeps | apply foldl_keeps | apply foldl_keeps_fst | apply foldl_keeps_snd | split | dsimp only | intro

theorem State.lightsOut_keeps  (h : Keeps s0 s) : Keeps s0 (s.lightsOut) := by
  unfold State.lightsOut
  with_reducible repeat' first | assumption | apply State.goOff_keeps | apply foldl_keeps | apply foldl_keeps_fst | apply foldl_keeps_snd | split | dsimp only | intro

/-! ### Fabric -/

theorem State.leave_keeps (t : Nat) (q : Remote) (p : Nat) (detour : Bool) (h : Keeps s0 s) : Keeps s0 (s.leave t q p detour) := by
  unfold State.leave
  with_reducible repeat' first | assumption | apply State.count_keeps | apply State.onFab_keeps | apply State.sendMessage_keeps | split | dsimp only | intro

theorem State.landBytes_keeps (a : Nat) (n : Nat) (h : Keeps s0 s) : Keeps s0 (s.landBytes a n).1 := by
  grind [State.landBytes, State.readPart_keeps]

theorem State.readLanding_keeps (a : Nat) (n : Nat) (h : Keeps s0 s) : Keeps s0 (s.readLanding a n).1 := by
  grind [State.readLanding, State.landBytes_keeps]

theorem State.fabricJob_keeps (j : Option Bool) (h : Keeps s0 s) : Keeps s0 (s.fabricJob j) := by
  unfold State.fabricJob
  with_reducible repeat' first | assumption | apply State.setField_keeps | apply Keeps.light | rfl | exact id | split | dsimp only | (simp; done) | intro

theorem State.markOld_keeps (c : Nat) (h : Keeps s0 s) : Keeps s0 (s.markOld c) := by
  unfold State.markOld
  with_reducible repeat' first | assumption | apply Keeps.light | rfl | exact id | split | dsimp only | (simp; done) | intro

theorem State.drainOld_keeps (c : Nat) (h : Keeps s0 s) : Keeps s0 (s.drainOld c) := by
  unfold State.drainOld
  with_reducible repeat' first | assumption | apply State.fabricJob_keeps | apply State.markOld_keeps | split | dsimp only | intro

theorem State.forgetEntries_keeps (c : Nat) (h : Keeps s0 s) : Keeps s0 (s.forgetEntries c) := by
  unfold State.forgetEntries
  with_reducible repeat' first | assumption | apply State.onPort_keeps | apply foldl_keeps | apply foldl_keeps_fst | apply foldl_keeps_snd | split | dsimp only | intro

theorem State.replaceLanding_keeps (c : Nat) (v : Word) (h : Keeps s0 s) : Keeps s0 (s.replaceLanding c v) := by
  unfold State.replaceLanding
  with_reducible repeat' first | assumption | apply State.fabricJob_keeps | apply State.forgetEntries_keeps | apply State.markOld_keeps | apply State.setReg_keeps | split | dsimp only | intro

theorem State.tableEntry_keeps (c : Nat) (q : FabricRequest) (h : Keeps s0 s) : Keeps s0 (s.tableEntry c q).1 := by
  grind [State.tableEntry, State.landBytes_keeps]

theorem State.lookUp_keeps (p : Nat) (q : FabricRequest) (h : Keeps s0 s) : Keeps s0 (s.lookUp p q) := by
  grind [State.lookUp, State.count_keeps, State.onPort_keeps, State.tableEntry_keeps]

theorem State.respond_keeps (q : FabricRequest) (st : Status) (data : List Byte) (h : Keeps s0 s) : Keeps s0 (s.respond q st data) := by
  unfold State.respond
  with_reducible repeat' first | assumption | apply State.sendAnswer_keeps | split | dsimp only | intro

theorem State.deny_keeps (q : FabricRequest) (cause : Nat) (h : Keeps s0 s) : Keeps s0 (s.deny q cause) := by
  unfold State.deny
  with_reducible repeat' first | assumption | apply State.count_keeps | apply State.setReg_keeps | split | dsimp only | intro

theorem State.targetParts_keeps (f : Forward) (k : Touch) (h : Keeps s0 s) : Keeps s0 (s.targetParts f k).1 := by
  grind [State.targetParts, State.checkedParts_keeps]

theorem State.targetMeets_keeps (f : Forward) (h' : Hazard) (k : Touch) (h : Keeps s0 s) : Keeps s0 (s.targetMeets f h' k).1 := by
  grind [State.targetMeets, State.meet_keeps, State.targetParts_keeps, thenDo_keeps]

theorem State.applyForward_keeps (f : Forward) (h' : Hazard) (h : Keeps s0 s) : Keeps s0 (s.applyForward f h').1 := by
  unfold State.applyForward
  with_reducible repeat' first | assumption | apply State.addCounter_keeps | apply State.allocSet_keeps | apply State.atomicAt_keeps | apply State.readParts_keeps | apply State.targetMeets_keeps | apply State.write_keeps | apply State.writeParts_keeps | apply thenDo_keeps | split | dsimp only | intro

/-! ### Manage -/

theorem State.logWrite_keeps (e : List Word) (h : Keeps s0 s) : Keeps s0 (s.logWrite e) := by
  grind [State.logWrite, State.putLog_keeps, Keeps.mgmt]

theorem State.stopMgmt_keeps  (h : Keeps s0 s) : Keeps s0 (s.stopMgmt) := by
  grind [State.stopMgmt, State.setField_keeps, Keeps.mgmt, State.setField_mgmt]

theorem State.endRecord_keeps (ws : List Word) (i : Nat) (st : Status) (c : Nat) (t : Nat) (k : Nat) (g : Nat) (h : Keeps s0 s) : Keeps s0 (s.endRecord ws i st c t k g) := by
  unfold State.endRecord
  with_reducible repeat' first | assumption | apply State.logIf_keeps | apply State.logWrite_keeps | apply State.setField_keeps | apply State.stopMgmt_keeps | apply Keeps.mgmt | rfl | exact id | split | dsimp only | (simp; done) | intro

theorem State.refuseRecord_keeps (ws : List Word) (i : Nat) (st : Status) (h : Keeps s0 s) : Keeps s0 (s.refuseRecord ws i st) := by
  unfold State.refuseRecord
  with_reducible repeat' first | assumption | apply State.endRecord_keeps | split | dsimp only | intro

theorem State.takeRecord_keeps (tail : BitVec 32) (h : Keeps s0 s) : Keeps s0 (s.takeRecord tail) := by
  grind [State.takeRecord, State.readPart_keeps, State.refuseRecord_keeps, State.setField_keeps, Keeps.mgmt, State.setField_mgmt]

theorem State.checkArea_keeps (root : Nat) (writable : Bool) (z1 : List (Nat × Nat)) (h : Keeps s0 s) : Keeps s0 (s.checkArea root writable z1).1 := by
  revert h
  fun_induction State.checkArea s root writable z1 <;> grind [State.blamePa_keeps, State.noteFlaw_keeps]

theorem State.areaOk_keeps (root : Nat) (a : Nat) (n : Nat) (writable : Bool) (h : Keeps s0 s) : Keeps s0 (s.areaOk root a n writable).1 := by
  unfold State.areaOk
  with_reducible repeat' first | assumption | apply State.checkArea_keeps | split | dsimp only | intro

theorem State.reserveCheck_keeps (x : Creation) (h : Keeps s0 s) : Keeps s0 (s.reserveCheck x).1 := by
  grind [State.reserveCheck, State.areaOk_keeps]

theorem State.quietParts_keeps (root : Nat) (l : List (Nat × Nat)) (h : Keeps s0 s) : Keeps s0 (s.quietParts root l).1 := by
  revert h
  fun_induction State.quietParts s root l <;> grind [State.noteFlaw_keeps, State.blamePa_keeps, thenDo_keeps]

theorem State.poolCheck_keeps (root : Nat) (cva : Nat) (h : Keeps s0 s) : Keeps s0 (s.poolCheck root cva).1 := by
  unfold State.poolCheck
  with_reducible repeat' first | assumption | apply State.areaOk_keeps | apply State.quietParts_keeps | apply State.readParts_keeps | apply thenDo_keeps | split | dsimp only | intro

theorem State.initBlock_keeps (root : Nat) (cva : Nat) (bs : List Byte) (h : Keeps s0 s) : Keeps s0 (s.initBlock root cva bs).1 := by
  unfold State.initBlock
  with_reducible repeat' first | assumption | apply State.nearPages_keeps | apply State.write_keeps | apply State.writeParts_keeps | apply thenDo_keeps | split | dsimp only | intro

theorem State.initTable_keeps (root : Nat) (cva : Nat) (bs : List Byte) (h : Keeps s0 s) : Keeps s0 (s.initTable root cva bs).1 := by
  unfold State.initTable
  with_reducible repeat' first | assumption | apply State.initBlock_keeps | apply eachDo_keeps | split | dsimp only | intro

theorem State.initPool_keeps (root : Nat) (p : Pool) (h : Keeps s0 s) : Keeps s0 (s.initPool root p).1 := by
  unfold State.initPool
  with_reducible repeat' first | assumption | apply State.initTable_keeps | apply eachDo_keeps | apply thenDo_keeps | split | dsimp only | intro

theorem State.initReserve_keeps (x : Creation) (h : Keeps s0 s) : Keeps s0 (s.initReserve x).1 := by
  unfold State.initReserve
  with_reducible repeat' first | assumption | apply State.initTable_keeps | split | dsimp only | intro

theorem State.createWith_keeps (c : Nat) (x : Creation) (pa : Nat) (h : Keeps s0 s) : Keeps s0 (s.createWith c x pa).1 := by
  unfold State.createWith
  with_reducible repeat' first | assumption | apply State.initPool_keeps | apply State.initReserve_keeps | apply State.poolCheck_keeps | apply State.reserveCheck_keeps | apply thenDo_keeps | split | dsimp only | intro

theorem State.createFrom_keeps (ws : List Word) (h : Keeps s0 s) : Keeps s0 (s.createFrom ws).1 := by
  unfold State.createFrom
  with_reducible repeat' first | assumption | apply State.createWith_keeps | split | dsimp only | intro

theorem State.readPart_keepsR (c : Nat) (helm : Bool) (p : Part) (h : Keeps s0 s) : KeepsR s0 (s.readPart c helm p) :=
  State.readPart_keeps c helm p h

theorem State.creation_keeps (a : Nat) (h : Keeps s0 s) : Keeps s0 (s.creation a).1 := by
  have k := State.readPart_keepsR 0xFFF false ⟨.host pf0Space a, 128, none, 0, 0⟩ h
  unfold State.creation
  generalize s.readPart _ _ _ = r at k ⊢
  obtain ⟨s1, x⟩ := r
  have k : Keeps s0 s1 := k
  cases x with
  | error st => exact k
  | ok bs =>
    have k2 := State.createFrom_keeps (wordsOf 16 bs) k
    dsimp only
    exact k2

theorem State.leaveSlot_keeps (t : Nat) (n : Nat) (h : Keeps s0 s) : Keeps s0 (s.leaveSlot t n) := by
  unfold State.leaveSlot
  with_reducible repeat' first | assumption | apply State.clearRegs_keeps | apply State.onTile_keeps | apply State.setTreg_keeps | split | dsimp only | intro

theorem State.enterSlot_keeps (t : Nat) (n : Nat) (c : Nat) (z : Slot) (vs : List Word) (h : Keeps s0 s) : Keeps s0 (s.enterSlot t n c z vs) := by
  unfold State.enterSlot
  with_reducible repeat' first | assumption | apply State.onCtx_keeps | apply State.onTile_keeps | apply State.setTreg_keeps | apply foldl_keeps | apply foldl_keeps_fst | apply foldl_keeps_snd | split | dsimp only | intro

theorem State.startSweeping_keeps (c : Nat) (h : Keeps s0 s) : Keeps s0 (s.startSweeping c) := by
  unfold State.startSweeping
  with_reducible repeat' first | assumption | apply State.onCtx_keeps | apply State.statusLine_keeps | split | dsimp only | intro

theorem State.showLoads_keeps  (h : Keeps s0 s) : Keeps s0 (s.showLoads) := by
  unfold State.showLoads
  with_reducible repeat' first | assumption | apply State.setField_keeps | split | dsimp only | intro

theorem State.endLoad_keeps (l : Load) (st : Status) (slot : Nat) (digest : List Byte) (h : Keeps s0 s) : Keeps s0 (s.endLoad l st slot digest) := by
  unfold State.endLoad
  with_reducible repeat' first | assumption | apply State.event_keeps | apply State.logIf_keeps | apply State.onGen_keeps | apply State.showLoads_keeps | apply Keeps.mgmt | rfl | exact id | split | dsimp only | (simp; done) | intro

theorem State.abandonLoads_keeps (c : Nat) (h : Keeps s0 s) : Keeps s0 (s.abandonLoads c) := by
  unfold State.abandonLoads
  with_reducible repeat' first | assumption | apply State.endLoad_keeps | apply foldl_keeps | apply foldl_keeps_fst | apply foldl_keeps_snd | split | dsimp only | intro

theorem State.dropRegions_keeps (c : Nat) (h : Keeps s0 s) : Keeps s0 (s.dropRegions c) := by
  unfold State.dropRegions
  with_reducible repeat' first | assumption | apply State.onTile_keeps | apply State.setTreg_keeps | apply foldl_keeps | apply foldl_keeps_fst | apply foldl_keeps_snd | split | dsimp only | intro

theorem State.flushCtx_keeps (c : Nat) (h : Keeps s0 s) : Keeps s0 (s.flushCtx c) := by
  unfold State.flushCtx
  with_reducible repeat' first | assumption | apply State.flushStep_keeps | apply State.onCtx_keeps | apply State.onStep_keeps | apply foldl_keeps | apply foldl_keeps_fst | apply foldl_keeps_snd | split | dsimp only | intro

theorem State.beginDestroy_keeps (c : Nat) (h : Keeps s0 s) : Keeps s0 (s.beginDestroy c) := by
  unfold State.beginDestroy
  with_reducible repeat' first | assumption | apply State.abandonLoads_keeps | apply State.drainOld_keeps | apply State.dropRegions_keeps | apply State.flushCtx_keeps | split | dsimp only | intro

theorem State.dropSpill_keeps (t : Nat) (c : Nat) (h : Keeps s0 s) : Keeps s0 (s.dropSpill t c) := by
  unfold State.dropSpill
  with_reducible repeat' first | assumption | apply State.onWork_keeps | apply State.preemptStatus_keeps | apply State.restore_keeps | apply State.setTreg_keeps | apply State.undoSpill_keeps | apply foldl_keeps | apply foldl_keeps_fst | apply foldl_keeps_snd | split | dsimp only | intro

theorem State.dropBanks_keeps (t : Nat) (c : Nat) (h : Keeps s0 s) : Keeps s0 (s.dropBanks t c) := by
  unfold State.dropBanks
  with_reducible repeat' first | assumption | apply State.onWork_keeps | split | dsimp only | intro

theorem State.leaveHome_keeps (x : Ctx) (h : Keeps s0 s) : Keeps s0 (s.leaveHome x) := by
  unfold State.leaveHome
  with_reducible repeat' first | assumption | apply State.leaveSlot_keeps | split | dsimp only | intro

theorem State.leaveTiles_keeps (c : Nat) (x : Ctx) (h : Keeps s0 s) : Keeps s0 (s.leaveTiles c x) := by
  unfold State.leaveTiles
  with_reducible repeat' first | assumption | apply State.dropBanks_keeps | apply State.dropSpill_keeps | apply State.onTile_keeps | apply foldl_keeps | apply foldl_keeps_fst | apply foldl_keeps_snd | split | dsimp only | intro

theorem State.dropPartitions_keeps (c : Nat) (h : Keeps s0 s) : Keeps s0 (s.dropPartitions c) := by
  unfold State.dropPartitions
  with_reducible repeat' first | assumption | apply State.setReg_keeps | apply State.settleAllSlots_keeps | apply foldl_keeps | apply foldl_keeps_fst | apply foldl_keeps_snd | split | dsimp only | intro

theorem State.release_keeps (c : Nat) (x : Ctx) (h : Keeps s0 s) : Keeps s0 (s.release c x) := by
  have k := Keeps.mail (((((s.leaveHome x).leaveTiles c x).dropPartitions c).setReg (fbLandReg c) 0).mail.without c x.cr.job)
    (State.setReg_keeps (fbLandReg c) 0 (State.dropPartitions_keeps c (State.leaveTiles_keeps c x (State.leaveHome_keeps x h))))
  exact Keeps.ctxs _ (State.forgetEntries_keeps c (Keeps.light _ k)) (FMap.sorted_erase _)

/-! ### Charts -/

theorem State.chartParts_keeps (root tier : Nat) (l : List (Nat × Nat)) (h : Keeps s0 s) : Keeps s0 (s.chartParts root tier l).1 := by
  revert h
  fun_induction State.chartParts s root tier l <;> grind [State.noteFlaw_keeps, State.blamePa_keeps, thenDo_keeps]

theorem State.placeSegs_keeps (root : Nat) (base : Nat) (z1 : List Seg) (h : Keeps s0 s) : Keeps s0 (s.placeSegs root base z1).1 := by
  revert h
  fun_induction State.placeSegs s root base z1 <;> grind [State.chartParts_keeps, thenDo_keeps]

theorem State.copySegs_keeps (c : Nat) (src : Nat) (z1 : List (Seg × List Part)) (h : Keeps s0 s) : Keeps s0 (s.copySegs c src z1).1 := by
  revert h
  fun_induction State.copySegs s c src z1 <;> grind [State.count_keeps, State.readPart_keeps, State.write_keeps, State.writeParts_keeps, thenDo_keeps]

theorem State.runLoad_keeps (l : Load) (root : Nat) (h : Keeps s0 s) : Keeps s0 (s.runLoad l root).1 := by
  unfold State.runLoad
  (repeat' split) <;> grind [State.copySegs_keeps, State.placeSegs_keeps, State.readPart_keeps, thenDo_keeps]

theorem State.addGen_keeps (c : Nat) (k : Nat) (n : Nat) (h : Keeps s0 s) : Keeps s0 (s.addGen c k n) := by
  unfold State.addGen
  with_reducible repeat' first | assumption | apply State.onCtx_keeps | split | dsimp only | intro

theorem State.onReady_keeps (op : Nat) (k : State → Nat → Nat → Nat → List Word → Nat → State) (h : Keeps s0 s) (hk : ∀ s y1 y2 y3 y4 y5, Keeps s0 s → Keeps s0 (k s y1 y2 y3 y4 y5)) : Keeps s0 (s.onReady op k) := by
  unfold State.onReady
  with_reducible repeat' first | assumption | apply hk | apply State.refuseRecord_keeps | split | dsimp only | intro

/-! ### Secure -/

theorem State.secBegin_keeps (addr : Nat) (c : SecCmd) (h : Keeps s0 s) (hc : ∀ v, c = .svn v → s.sec.fused ≤ v) :
    Keeps s0 (s.secBegin addr c) := by
  unfold State.secBegin
  exact (State.setField_keeps _ _ _ _ h).sec _ (le_refl _) fun _ v e => hc v (Option.some.inj e)

theorem State.secEnd_keeps (st : Status) (h : Keeps s0 s) : Keeps s0 (s.secEnd st) := by
  unfold State.secEnd
  with_reducible repeat' first | assumption | apply State.logIf_keeps | apply State.setReg_keeps | apply Keeps.sec | rfl | exact id | split | dsimp only | (simp; done) | intro

theorem State.secCommand_keeps (a : Nat) (w : Wr) (k : State → Word → State) (h : Keeps s0 s) (hk : ∀ s y1, Keeps s0 s → Keeps s0 (k s y1)) : Keeps s0 (s.secCommand a w k) := by
  unfold State.secCommand
  with_reducible repeat' first | assumption | apply hk | apply State.record_keeps | apply State.write_keeps | split | dsimp only | intro

theorem State.showSvn_keeps  (h : Keeps s0 s) : Keeps s0 (s.showSvn) := by
  unfold State.showSvn
  with_reducible repeat' first | assumption | apply State.setReg_keeps | split | dsimp only | intro

theorem State.blowFuses_keeps (v : Nat) (e : s.sec.cmd = none) (h : Keeps s0 s) : Keeps s0 (s.blowFuses v) := by
  unfold State.blowFuses
  refine h.sec _ ?_ ?_
  · dsimp only
    split
    · exact le_max_left _ _
    · exact le_refl _
  · intro _ w ew
    simp [e] at ew

theorem State.cutFuses_keeps (v : Nat) (e : s.sec.cmd = some (.svn v)) (h : Keeps s0 s) : Keeps s0 (s.cutFuses v) := by
  unfold State.cutFuses
  refine Keeps.sec (s := (s.draw).2.draw.2) _ (State.draw_keeps (State.draw_keeps h)) (Nat.le_add_right _ _) ?_
  intro i w ew
  have e1 : (s.draw).2.draw.2.sec = s.sec := rfl
  rw [e1] at i ew
  have := i v e
  simp only [e, Option.some.injEq, SecCmd.svn.injEq] at ew
  subst ew
  have := Nat.mod_lt ((s.draw).1.toNat) (Nat.succ_pos (v - s.sec.fused))
  simp only [Nat.succ_eq_add_one] at this
  dsimp only
  omega

theorem State.showDigest_keeps (a : Nat) (d : List Byte) (h : Keeps s0 s) : Keeps s0 (s.showDigest a d) := by
  unfold State.showDigest
  with_reducible repeat' first | assumption | apply State.setReg_keeps | apply foldl_keeps | apply foldl_keeps_fst | apply foldl_keeps_snd | split | dsimp only | intro

theorem State.fwChecks_keeps  (h : Keeps s0 s) : Keeps s0 (s.fwChecks).1 := by
  grind [State.fwChecks, State.readPart_keeps]

theorem State.enterStage_keeps (n : Nat) (h : Keeps s0 s) : Keeps s0 (s.enterStage n) := by
  grind [State.enterStage, State.setField_keeps, State.setReg_keeps, Keeps.start, State.setReg_start, State.setField_start]

theorem State.beginFlush_keeps (h : Keeps s0 s) : Keeps s0 s.beginFlush := by
  unfold State.beginFlush
  exact foldl_keeps _ _ (h.fields rfl (.inr rfl) (.inr rfl) (.inr rfl) (.inr rfl) (.inr rfl) (.inr rfl) (.inl rfl) (.inr rfl)
    (.inr (.inr ⟨rfl, rfl⟩)) id) fun acc c h => State.flushCtx_keeps _ h

theorem State.drawSalt_keeps  (h : Keeps s0 s) : Keeps s0 (s.drawSalt).2 := by
  unfold State.drawSalt
  with_reducible repeat' first | assumption | apply State.draw_keeps | apply foldl_keeps | apply foldl_keeps_fst | apply foldl_keeps_snd | split | dsimp only | intro

theorem State.keyCommand_keeps (v : Word) (op : Nat) (k : State → Nat → State) (h : Keeps s0 s) (hk : ∀ s y1, Keeps s0 s → Keeps s0 (k s y1)) : Keeps s0 (s.keyCommand v op k) := by
  unfold State.keyCommand
  with_reducible repeat' first | assumption | apply hk | apply State.record_keeps | split | dsimp only | intro

theorem State.setKey_keeps (n : Nat) (key : Option (List Byte)) (h : Keeps s0 s) : Keeps s0 (s.setKey n key) := by
  have k := foldl_keeps_snd (fun (acc : List Load × State) l =>
    let d := acc.2.draw
    let l1 := if d.1.getLsbD 0 && (FMap.find? l.keys n).isNone then { l with keys := FMap.insert l.keys n (FMap.find? s.sec.keys n) } else l
    (acc.1 ++ [l1], d.2)) s.mgmt.loads ([], s) h fun acc l k => State.draw_keeps k
  unfold State.setKey
  dsimp only at k ⊢
  generalize List.foldl _ _ _ = r at k ⊢
  exact Keeps.sec (s := { r.2 with mgmt := { r.2.mgmt with loads := r.1 } }) _ (Keeps.mgmt _ k) (le_refl _) id

/-! ### HostLink -/

theorem State.hostFailed_keeps  (h : Keeps s0 s) : Keeps s0 (s.hostFailed) := by
  unfold State.hostFailed
  with_reducible repeat' first | assumption | apply State.count_keeps | split | dsimp only | intro

theorem State.refuseReq_keeps (t : Nat) (ord : Nat) (seq : Nat) (st : Status) (h : Keeps s0 s) : Keeps s0 (s.refuseReq t ord seq st) := by
  unfold State.refuseReq
  with_reducible repeat' first | assumption | apply State.endReq_keeps | split | dsimp only | intro

theorem State.refuseFence_keeps (t : Nat) (n : Nat) (h : Keeps s0 s) : Keeps s0 (s.refuseFence t n) := by
  unfold State.refuseFence
  with_reducible repeat' first | assumption | apply State.except_keeps | split | dsimp only | intro

theorem State.learn_keeps (d : Deferred) (now : State → State) (h : Keeps s0 s) (hk : Keeps s0 (now s)) : Keeps s0 (s.learn d now) := by
  unfold State.learn
  split
  · exact h.dbg _ rfl
  · exact hk

theorem State.loseHost_keeps (t : Nat) (h : Keeps s0 s) : Keeps s0 (s.loseHost t) := by
  unfold State.loseHost
  with_reducible repeat' first | assumption | apply State.endReq_keeps | apply foldl_keeps | apply foldl_keeps_fst | apply foldl_keeps_snd | split | dsimp only | intro

theorem State.loseFences_keeps (t : Nat) (h : Keeps s0 s) : Keeps s0 (s.loseFences t) := by
  unfold State.loseFences
  with_reducible repeat' first | assumption | apply State.except_keeps | apply foldl_keeps | apply foldl_keeps_fst | apply foldl_keeps_snd | split | dsimp only | intro

theorem State.tilesLoseHost_keeps  (h : Keeps s0 s) : Keeps s0 (s.tilesLoseHost) := by
  unfold State.tilesLoseHost
  with_reducible repeat' first | assumption | apply State.loseFences_keeps | apply State.loseHost_keeps | apply foldl_keeps | apply foldl_keeps_fst | apply foldl_keeps_snd | split | dsimp only | intro

theorem State.learnOne_keeps (d : Deferred) (h : Keeps s0 s) : Keeps s0 (s.learnOne d) := by
  cases d
  · exact State.tilesLoseHost_keeps h
  · exact State.failRemotes_keeps _ _ h
  · exact State.refuseReq_keeps _ _ _ _ h
  · exact State.refuseFence_keeps _ _ h

theorem State.catchUp_keeps  (h : Keeps s0 s) : Keeps s0 (s.catchUp) := by
  grind [State.catchUp, State.learnOne_keeps, Keeps.dbg, foldl_keeps, foldl_keeps_fst, foldl_keeps_snd]

theorem State.dropHost_keeps (h : Keeps s0 s) : Keeps s0 s.dropHost := by
  unfold State.dropHost
  dsimp only
  split
  · exact h
  have h1 := State.setField_keeps hiBase 11 1 0 h
  have h2 := State.learn_keeps .hostLost State.tilesLoseHost h1 (State.tilesLoseHost_keeps h1)
  generalize (s.setField hiBase 11 1 0).learn .hostLost State.tilesLoseHost = u at h2 ⊢
  with_reducible repeat' first | assumption | apply State.endLoad_keeps | apply State.fetchFailed_keeps | apply State.secEnd_keeps | apply State.tableFailed_keeps | apply foldl_keeps | split | intro

theorem State.reachSafeMin_keeps (h : Keeps s0 s) : Keeps s0 s.reachSafeMin := by
  have k := State.enterStage_keeps 1 h
  unfold State.reachSafeMin
  generalize s.enterStage 1 = s1 at k
  dsimp only
  split
  · have k3 := State.log_keeps (packageFault 0xF002 9 0 0) (Keeps.safety { s1.safety with preq := true } k id id id)
    generalize State.log _ _ = s3 at k3
    exact (State.setField_keeps (bnBase + 0x208) 16 16 0xF002 k3).safety _ id id id
  · exact Keeps.safety _ k id id id

theorem State.flr_keeps (fn : Nat) (h : Keeps s0 s) : Keeps s0 (s.flr fn) := by
  grind [State.flr, State.beginDestroy_keeps, Keeps.outside, foldl_keeps, foldl_keeps_fst, foldl_keeps_snd]

theorem State.flrPf0_keeps (h : Keeps s0 s) : Keeps s0 s.flrPf0 := by
  unfold State.flrPf0
  have k := h.outside { s.outside with enabled := s.outside.enabled.filter (· != pf0) }
  dsimp only
  split
  · exact k.mgmt _
  · exact State.setField_keeps _ _ _ _ k

theorem State.dropRecord_keeps  (h : Keeps s0 s) : Keeps s0 (s.dropRecord) := by
  grind [State.dropRecord, State.setField_keeps, Keeps.mgmt]

end Sys2Proof.Machine
end

