-- ==== Sys2Proof/Laws/KeepsControl.lean ====
section
/-! SUPPORT. What the operations of power, start, safety, debug, the register file and the nanosecond keep. -/

set_option Elab.async false
set_option linter.unusedTactic false
set_option linter.unreachableTactic false

namespace Sys2Proof.Machine

open Sys2Proof

variable {s0 s : State}

/-! ### Quiet -/

theorem State.endFix_keeps (st : Status) (h : Keeps s0 s) : Keeps s0 (s.endFix st) := by
  grind [State.endFix, State.record_keeps, State.setReg_keeps, Keeps.dbg, State.setReg_debug, State.record_debug]

theorem State.resumeFix_keeps (st : Status) (h : Keeps s0 s) : Keeps s0 (s.resumeFix st) := by
  unfold State.resumeFix
  with_reducible repeat' first | assumption | apply State.catchUp_keeps | apply State.endFix_keeps | apply State.giveWithheld_keeps | split | dsimp only | intro

theorem State.enterSafe_keeps (st : Status) (h : Keeps s0 s) : Keeps s0 (s.enterSafe st) := by
  have k : Keeps s0 (if ! s.safety.safe then (s.lightsOut.dropHost).endFix 0x6101 else s) := by
    split
    · exact State.endFix_keeps _ (State.dropHost_keeps (State.lightsOut_keeps h))
    · exact h
  unfold State.enterSafe
  dsimp only
  generalize (if ! s.safety.safe then (s.lightsOut.dropHost).endFix 0x6101 else s) = s1 at k ⊢
  have k1 : Keeps s0 { s1 with dbg := { s1.dbg with deferred := [] } } := k.dbg _ rfl
  exact (State.setField_keeps _ _ _ _ k1).safety _ id id fun _ => rfl

theorem State.quiet_keeps (st : Status) (source : Nat) (unit : Nat) (h : Keeps s0 s) : Keeps s0 (s.quiet st source unit) := by
  grind [State.quiet, State.enterSafe_keeps, State.log_keeps]

/-! ### Power -/

theorem State.setWatch_keeps (prefill : Bool) (p : Nat) (d : Nat) (h : Keeps s0 s) : Keeps s0 (s.setWatch prefill p d) := by
  unfold State.setWatch
  with_reducible repeat' first | assumption | apply State.emit_keeps | apply State.setReg_keeps | split | dsimp only | intro

theorem State.showPower_keeps (commanded : Nat) (h : Keeps s0 s) : Keeps s0 (s.showPower commanded) := by
  unfold State.showPower
  with_reducible repeat' first | assumption | apply State.setReg_keeps | split | dsimp only | intro

theorem State.pwRecord_keeps (st : Status) (h : Keeps s0 s) : Keeps s0 (s.pwRecord st) := by
  unfold State.pwRecord
  with_reducible repeat' first | assumption | apply State.record_keeps | split | dsimp only | intro

theorem State.capUnmet_keeps  (h : Keeps s0 s) : Keeps s0 (s.capUnmet) := by
  unfold State.capUnmet
  with_reducible repeat' first | assumption | apply State.orReg_keeps | apply State.pwRecord_keeps | split | dsimp only | intro

theorem State.capMet_keeps  (h : Keeps s0 s) : Keeps s0 (s.capMet) := by
  unfold State.capMet
  with_reducible repeat' first | assumption | apply State.setField_keeps | split | dsimp only | intro

theorem State.endFixed_keeps  (h : Keeps s0 s) : Keeps s0 (s.endFixed) := by
  unfold State.endFixed
  with_reducible repeat' first | assumption | apply State.orReg_keeps | apply State.pwRecord_keeps | apply State.setField_keeps | split | dsimp only | intro

theorem State.setRack_keeps (cap : Nat) (h : Keeps s0 s) : Keeps s0 (s.setRack cap) := by
  grind [State.setRack, State.endFixed_keeps, State.setField_keeps, Keeps.power, State.setField_power]

theorem State.setCeiling_keeps (i : Nat) (p : Nat) (h : Keeps s0 s) : Keeps s0 (s.setCeiling i p) := by
  unfold State.setCeiling
  with_reducible repeat' first | assumption | apply State.setField_keeps | split | dsimp only | intro

theorem State.lowerDie_keeps (i : Nat) (h : Keeps s0 s) : Keeps s0 (s.lowerDie i) := by
  grind [State.lowerDie, State.setCeiling_keeps, Keeps.power]

theorem State.raiseDie_keeps (i : Nat) (h : Keeps s0 s) : Keeps s0 (s.raiseDie i) := by
  unfold State.raiseDie
  refine (State.setCeiling_keeps _ _ h).power _ ?_
  unfold State.setCeiling
  rfl

theorem State.enterTrimmed_keeps  (h : Keeps s0 s) : Keeps s0 (s.enterTrimmed) := by
  grind [State.enterTrimmed, State.count_keeps, State.orReg_keeps, State.pwRecord_keeps, State.showPower_keeps, Keeps.power]

theorem State.field16_keeps (x : Nat) (h : Keeps s0 s) : Keeps s0 (s.field16 x).2 := by
  unfold State.field16
  with_reducible repeat' first | assumption | apply State.draw_keeps | split | dsimp only | intro

theorem State.tileEstimate_keeps  (h : Keeps s0 s) : Keeps s0 (s.tileEstimate).2 := by
  unfold State.tileEstimate
  with_reducible repeat' first | assumption | apply State.draw_keeps | split | dsimp only | intro

theorem State.placeTiles_keeps  (h : Keeps s0 s) : Keeps s0 (s.placeTiles) := by
  unfold State.placeTiles
  dsimp only
  (repeat' split) <;> grind [State.count_keeps, State.onUpkeep_keeps, Keeps.power, State.onUpkeep_power, State.count_power, foldl_keeps, foldl_keeps_fst, foldl_keeps_snd]

theorem State.setDuty_keeps (d : Nat) (h : Keeps s0 s) : Keeps s0 (s.setDuty d) := by
  unfold State.setDuty
  with_reducible repeat' first | assumption | apply State.setWatch_keeps | split | dsimp only | intro

theorem State.holdFixed_keeps  (h : Keeps s0 s) : Keeps s0 (s.holdFixed) := by
  unfold State.holdFixed
  with_reducible repeat' first | assumption | apply State.setWatch_keeps | split | dsimp only | intro

theorem State.clamp_keeps (above : Bool) (h : Keeps s0 s) : Keeps s0 (s.clamp above) := by
  unfold State.clamp
  with_reducible repeat' first | assumption | apply State.count_keeps | apply State.holdFixed_keeps | apply State.setDuty_keeps | apply State.setField_keeps | split | dsimp only | intro

theorem State.showLease_keeps  (h : Keeps s0 s) : Keeps s0 (s.showLease) := by
  unfold State.showLease
  with_reducible repeat' first | assumption | apply State.setField_keeps | split | dsimp only | intro

/-! ### Caps -/

theorem State.powerCommand_keeps (w : Wr) (code : Nat) (k : State → State) (h : Keeps s0 s) (hk : ∀ s, Keeps s0 s → Keeps s0 (k s)) : Keeps s0 (s.powerCommand w code k) := by
  unfold State.powerCommand
  with_reducible repeat' first | assumption | apply hk | apply State.pwRecord_keeps | apply State.record_keeps | apply State.write_keeps | split | dsimp only | intro

theorem State.setPhase_keeps (phase commanded : Nat) (h : Keeps s0 s) (hp : phase = 1 ∨ phase = 2 ∨ phase = 4 ∨ phase = 5) :
    Keeps s0 (s.setPhase phase commanded) := by
  unfold State.setPhase
  have k := State.showPower_keeps commanded (s0 := s0) (s := { s with power := { s.power with phase := phase } })
    ⟨h.queue, fun i => { h.inv i with phase := hp }, h.fused, h.safe⟩
  split
  · exact State.setField_keeps _ _ _ _ k
  · exact State.setReg_keeps _ _ k

theorem State.holdTiles_keeps  (h : Keeps s0 s) : Keeps s0 (s.holdTiles) := by
  grind [State.holdTiles, State.orReg_keeps, Keeps.power, State.orReg_power, foldl_keeps, foldl_keeps_fst, foldl_keeps_snd]

theorem State.freeTiles_keeps  (h : Keeps s0 s) : Keeps s0 (s.freeTiles) := by
  unfold State.freeTiles
  with_reducible repeat' first | assumption | apply State.setField_keeps | apply foldl_keeps | apply foldl_keeps_fst | apply foldl_keeps_snd | split | dsimp only | intro

theorem State.resweep_keeps  (h : Keeps s0 s) : Keeps s0 (s.resweep) := by
  unfold State.resweep
  with_reducible repeat' first | assumption | apply State.onCtx_keeps | apply foldl_keeps | apply foldl_keeps_fst | apply foldl_keeps_snd | split | dsimp only | intro

theorem State.renew_keeps (cap : Nat) (low : Bool) (h : Keeps s0 s) : Keeps s0 (s.renew cap low) := by
  grind [State.renew, State.capMet_keeps, State.capUnmet_keeps, State.setRack_keeps, State.showLease_keeps, Keeps.power]

theorem State.takeRackLine_keeps (ws : List Word) (h : Keeps s0 s) : Keeps s0 (s.takeRackLine ws) := by
  unfold State.takeRackLine
  with_reducible repeat' first | assumption | apply State.count_keeps | apply State.pwRecord_keeps | apply State.renew_keeps | apply State.setField_keeps | split | dsimp only | intro

theorem State.rackEnable_keeps (on : Bool) (h : Keeps s0 s) : Keeps s0 (s.rackEnable on) := by
  unfold State.rackEnable
  with_reducible repeat' first | assumption | apply State.capMet_keeps | apply State.setRack_keeps | apply State.showLease_keeps | apply Keeps.power | rfl | exact id | split | dsimp only | (simp; done) | intro

theorem State.railAnswers_keeps (j : Nat) (mv : BitVec 16) (watts : BitVec 16) (h : Keeps s0 s) : Keeps s0 (s.railAnswers j mv watts) := by
  unfold State.railAnswers
  with_reducible repeat' first | assumption | apply State.setReg_keeps | apply Keeps.power | rfl | exact id | split | dsimp only | (simp; done) | intro

theorem State.railMisses_keeps (j : Nat) (h : Keeps s0 s) : Keeps s0 (s.railMisses j) := by
  grind [State.railMisses, State.orReg_keeps, State.pwRecord_keeps, State.setField_keeps, Keeps.power]

theorem State.newGain_keeps (w : WatchPower) (r : Nat) (e : Nat) (h : Keeps s0 s) : Keeps s0 (s.newGain w r e).2 := by
  unfold State.newGain
  with_reducible repeat' first | assumption | apply State.draw_keeps | split | dsimp only | intro

theorem State.measure_keeps (prefill : Bool) (w : WatchPower) (h : Keeps s0 s) : Keeps s0 (s.measure prefill w).2 := by
  unfold State.measure
  with_reducible repeat' first | assumption | apply State.newGain_keeps | split | dsimp only | intro

theorem State.moveWatch_keeps (prefill : Bool) (p : Nat) (h : Keeps s0 s) : Keeps s0 (s.moveWatch prefill p) := by
  unfold State.moveWatch
  with_reducible repeat' first | assumption | apply State.setWatch_keeps | split | dsimp only | intro

theorem State.shareStep_keeps (gd : BitVec 32) (gp : BitVec 32) (h : Keeps s0 s) : Keeps s0 (s.shareStep gd gp) := by
  unfold State.shareStep
  with_reducible repeat' first | assumption | apply State.moveWatch_keeps | split | dsimp only | intro

theorem State.jointStep_keeps  (h : Keeps s0 s) : Keeps s0 (s.jointStep) := by
  unfold State.jointStep
  with_reducible repeat' first | assumption | apply State.moveWatch_keeps | split | dsimp only | intro

/-! ### Start -/

theorem State.sampleStraps_keeps (v : BitVec 8) (h : Keeps s0 s) : Keeps s0 (s.sampleStraps v) := by
  unfold State.sampleStraps
  with_reducible repeat' first | assumption | apply State.logIf_keeps | apply State.record_keeps | apply State.setReg_keeps | split | dsimp only | intro

theorem Memory.afterReset_wf (m : Memory) (keep : Bool) (h : m.wf = true) : (m.afterReset keep).wf = true := by
  simp only [Memory.wf, Bool.and_eq_true] at h
  obtain ⟨⟨⟨⟨⟨a, b⟩, c⟩, d⟩, e⟩, f⟩ := h
  unfold Memory.afterReset
  split <;> simp only [Memory.wf, Memory.empty, Bool.and_eq_true, FMap.canon_nil, FMap.sorted_nil, a, b, c, d, and_self]

theorem State.blank_keeps (keep : Bool) (h : Keeps s0 s) : Keeps s0 (s.blank keep) :=
  (h.mem _ (Memory.afterReset_wf _ keep)).fields rfl (.inr rfl) (.inl rfl) (.inl rfl) (.inl rfl) (.inr rfl) (.inr rfl) (.inr ⟨rfl, rfl⟩) (.inl rfl)
    (.inr (.inr ⟨rfl, rfl⟩)) id

theorem State.packageReset_keeps (cause : Nat) (keepMem : Bool) (keepCfg : Bool) (h : Keeps s0 s) : Keeps s0 (s.packageReset cause keepMem keepCfg) := by
  unfold State.packageReset
  with_reducible repeat' first | assumption | apply State.blank_keeps | apply State.setField_keeps | apply State.setReg_keeps | apply State.showSvn_keeps | split | dsimp only | intro

theorem State.settleTap_pins (s : State) : s.settleTap.dbg.pins = .service ∨ s.settleTap.start.resetLow = true := by
  simp only [State.settleTap]
  split
  · rename_i e
    simp only [Bool.or_eq_true, decide_eq_true_eq] at e
    exact e
  · exact .inl rfl

/-- However the reset land, the safe state and the instruction have just changed, the settled pins fit them. -/
theorem State.settleTap_keeps_of (x : Start) (y : Debug) (z : Safety) (h : Keeps s0 s) (hr : z.ring = s.safety.ring)
    (he : z.retained = s.safety.retained) (hz : s.safety.safe = true → z.safe = true) :
    Keeps s0 (State.settleTap { s with start := x, dbg := y, safety := z }) :=
  h.fields rfl (.inr rfl) (.inr rfl) (.inr rfl) (.inr rfl) (.inr hr) (.inr he) (.inl rfl) (.inr rfl)
    ((State.settleTap_pins _).imp id .inl) hz

theorem State.settleTap_keeps (h : Keeps s0 s) : Keeps s0 s.settleTap :=
  State.settleTap_keeps_of s.start s.dbg s.safety h rfl rfl id

theorem State.tapSelect_keeps (ir : BitVec 8) (h : Keeps s0 s) : Keeps s0 (s.tapSelect ir) := by
  unfold State.tapSelect
  with_reducible repeat' first | assumption | apply State.settleTap_keeps | apply Keeps.dbg | rfl | exact id | split | dsimp only | (simp; done) | intro

theorem State.resetTileRegs_keeps (t : Nat) (h : Keeps s0 s) : Keeps s0 (s.resetTileRegs t) := by
  have k := h.regs (FMap.keep (fun a => ! (tileBase t ≤ a && a < tileBase t + 0x1000)) s.regs) fun i => regsWf_keep _ i
  exact Keeps.marks _ k

theorem State.failStage_keeps (n : Nat) (st : Status) (h : Keeps s0 s) : Keeps s0 (s.failStage n st) := by
  unfold State.failStage
  with_reducible repeat' first | assumption | apply State.goOff_keeps | apply State.logIf_keeps | apply State.orReg_keeps | apply State.setReg_keeps | apply State.setWatch_keeps | apply foldl_keeps | apply foldl_keeps_fst | apply foldl_keeps_snd | split | dsimp only | intro

theorem State.beginStage_keeps (n : Nat) (h : Keeps s0 s) : Keeps s0 (s.beginStage n) := by
  unfold State.beginStage
  with_reducible repeat' first | assumption | apply State.enterStage_keeps | apply State.failStage_keeps | apply State.refreshPorts_keeps | split | dsimp only | intro

theorem State.reachFull_keeps  (h : Keeps s0 s) : Keeps s0 (s.reachFull) := by
  unfold State.reachFull
  with_reducible repeat' first | assumption | apply State.enterStage_keeps | apply State.onTile_keeps | apply State.setField_keeps | apply State.setWatch_keeps | apply foldl_keeps | apply foldl_keeps_fst | apply foldl_keeps_snd | split | dsimp only | intro

theorem State.showEoff_keeps (on : Bool) (h : Keeps s0 s) : Keeps s0 (s.showEoff on) := by
  unfold State.showEoff
  exact (State.setField_keeps _ _ _ _ h).safety _ id id id

/-! ### Guard -/

theorem State.discard_keeps {α : Type} (hit : α → Bool) (xs : List α) (h : Keeps s0 s) : Keeps s0 (s.discard hit xs).2 := by
  unfold State.discard
  with_reducible repeat' first | assumption | apply State.draw_keeps | apply foldl_keeps | apply foldl_keeps_fst | apply foldl_keeps_snd | split | dsimp only | intro

theorem State.discardRequests_keeps (x : Crossing) (t : Nat) (h : Keeps s0 s) : Keeps s0 (s.discardRequests x t) := by
  unfold State.discardRequests
  with_reducible repeat' first | assumption | apply State.draw_keeps | apply State.onRun_keeps | apply foldl_keeps | apply foldl_keeps_fst | apply foldl_keeps_snd | split | dsimp only | intro

theorem State.discardEntries_keeps (x : Crossing) (h : Keeps s0 s) : Keeps s0 (s.discardEntries x) := by
  unfold State.discardEntries
  dsimp only
  refine foldl_keeps _ _ (Keeps.mail _ ?_) fun acc t h => State.discardRequests_keeps _ _ h
  repeat apply State.discard_keeps
  exact h

theorem State.flushAgain_keeps (c : Nat) (p : Step) (h : Keeps s0 s) : Keeps s0 (s.flushAgain c p) := by
  grind [State.flushAgain, State.sendFlush_keeps, Keeps.mail]

theorem State.overrunSteps_keeps (c : Nat) (x : Ctx) (h : Keeps s0 s) : Keeps s0 (s.overrunSteps c x) := by
  unfold State.overrunSteps
  with_reducible repeat' first | assumption | apply State.flushAgain_keeps | apply State.takeStatus_keeps | apply foldl_keeps | apply foldl_keeps_fst | apply foldl_keeps_snd | split | dsimp only | intro

theorem State.loseRequests_keeps (x : Crossing) (t : Nat) (st : Status) (h : Keeps s0 s) : Keeps s0 (s.loseRequests x t st) := by
  unfold State.loseRequests
  with_reducible repeat' first | assumption | apply State.draw_keeps | apply State.endReq_keeps | apply State.remoteEnd_keeps | apply foldl_keeps | apply foldl_keeps_fst | apply foldl_keeps_snd | split | dsimp only | intro

theorem State.setBeat_keeps (b : Bool) (x : Beat) (h : Keeps s0 s) : Keeps s0 (s.setBeat b x) := by
  unfold State.setBeat
  with_reducible repeat' first | assumption | apply Keeps.safety | rfl | exact id | split | dsimp only | (simp; done) | intro

theorem State.showPaths_keeps  (h : Keeps s0 s) : Keeps s0 (s.showPaths) := by
  unfold State.showPaths
  with_reducible repeat' first | assumption | apply State.setField_keeps | split | dsimp only | intro

theorem State.takeSecurity_keeps  (h : Keeps s0 s) : Keeps s0 (s.takeSecurity) := by
  grind [State.takeSecurity, State.cutFuses_keeps, State.secEnd_keeps, State.showSvn_keeps, Keeps.sec]

theorem State.takeTileReset_keeps  (h : Keeps s0 s) : Keeps s0 (s.takeTileReset) := by
  grind [State.takeTileReset, State.setReg_keeps, Keeps.start, State.setReg_start]

theorem State.takeStart_keeps  (h : Keeps s0 s) : Keeps s0 (s.takeStart) := by
  grind [State.takeStart, State.beginFlush_keeps, State.beginStage_keeps, Keeps.start]

theorem State.takeWork_keeps  (h : Keeps s0 s) : Keeps s0 (s.takeWork) := by
  unfold State.takeWork
  with_reducible repeat' first | assumption | apply State.ftAbandon_keeps | apply State.takeSecurity_keeps | apply State.takeStart_keeps | apply State.takeTileReset_keeps | split | dsimp only | intro

theorem State.summarise_keeps (x : Nat × Nat × Nat × Nat) (h : Keeps s0 s) : Keeps s0 (s.summarise x) := by
  grind [State.summarise, State.log_keeps, Keeps.safety]

theorem State.inject_keeps (w : Wr) (kind : Nat) (k : State → Nat → State) (h : Keeps s0 s) (hk : ∀ s y1, Keeps s0 s → Keeps s0 (k s y1)) : Keeps s0 (s.inject w kind k) := by
  unfold State.inject
  with_reducible repeat' first | assumption | apply hk | apply State.record_keeps | apply State.write_keeps | split | dsimp only | intro

theorem State.suppress_keeps (msg : Bool) (line : Bool) (h : Keeps s0 s) : Keeps s0 (s.suppress msg line) := by
  unfold State.suppress
  with_reducible repeat' first | assumption | apply State.record_keeps | apply State.setBeat_keeps | split | dsimp only | intro

/-! ### Trace -/

theorem State.fixCommand_keeps (w : Wr) (code : Nat) (k : State → State) (h : Keeps s0 s) (hk : ∀ s, Keeps s0 s → Keeps s0 (k s)) : Keeps s0 (s.fixCommand w code k) := by
  unfold State.fixCommand
  with_reducible repeat' first | assumption | apply hk | apply State.record_keeps | apply State.write_keeps | split | dsimp only | intro

theorem State.latch_keeps (fn : Fin 257) (a : Nat) (h : Keeps s0 s) : Keeps s0 (s.latch fn a) := by
  grind [State.latch, Keeps.dbg]

theorem State.unlatch_keeps (fn : Fin 257) (a : Nat) (h : Keeps s0 s) : Keeps s0 (s.unlatch fn a) := by
  unfold State.unlatch
  with_reducible repeat' first | assumption | apply Keeps.dbg | rfl | exact id | split | dsimp only | (simp; done) | intro

theorem State.readReg_keeps (fn : Fin 257) (at_ : Nat) (size : Nat) (h : Keeps s0 s) : Keeps s0 (s.readReg fn at_ size).1 := by
  unfold State.readReg
  dsimp only
  (repeat' split) <;> first
    | exact h
    | exact State.wrongSize_keeps _ h
    | exact State.latch_keeps _ _ h
    | exact State.unlatch_keeps _ _ h
    | (rename_i e; exact State.turnedAway_keeps _ _ h _ e)

/-! ### Lands -/

theorem State.mgmtAnswer_keeps (ws : List Word) (h : Keeps s0 s) : Keeps s0 (s.mgmtAnswer ws) := by
  unfold State.mgmtAnswer
  with_reducible repeat' first | assumption | apply Keeps.dbg | rfl | exact id | split | dsimp only | (simp; done) | intro

theorem State.scanSelect_keeps (ir : BitVec 8) (h : Keeps s0 s) : Keeps s0 (s.scanSelect ir) := by
  grind [State.scanSelect, State.tapSelect_keeps, Keeps.dbg]

/-! ### Register -/

theorem State.afterFields_keeps (old : State) (a : Nat) (h : Keeps s0 s) : Keeps s0 (s.afterFields old a) := by
  unfold State.afterFields
  repeat' split
  · exact State.drainEvents_keeps _ h
  · exact State.changeLimits_keeps h
  · exact State.rackEnable_keeps _ h
  · exact State.rerouted_keeps _ h
  · exact h

theorem State.afterClear_keeps (a : Nat) (h : Keeps s0 s) : Keeps s0 (s.afterClear a) := by
  unfold State.afterClear
  with_reducible repeat' first | assumption | apply State.setReg_keeps | split | dsimp only | intro

theorem State.putRegister_keeps (a : Nat) (v : Word) (m : Word) (h : Keeps s0 s) : Keeps s0 (s.putRegister a v m) := by
  unfold State.putRegister
  with_reducible repeat' first | assumption | apply State.afterClear_keeps | apply State.afterFields_keeps | apply State.putFields_keeps | apply State.setReg_keeps | split | dsimp only | intro

/-! ### Time -/

theorem State.exchangeTick_keeps (p : Nat) (h : Keeps s0 s) : Keeps s0 (s.exchangeTick p) := by
  unfold State.exchangeTick
  with_reducible repeat' first | assumption | apply State.sendCapability_keeps | split | dsimp only | intro

theorem State.portsTick_keeps  (h : Keeps s0 s) : Keeps s0 (s.portsTick) := by
  unfold State.portsTick
  with_reducible repeat' first | assumption | apply State.exchangeTick_keeps | apply State.portTick_keeps | apply foldl_keeps | apply foldl_keeps_fst | apply foldl_keeps_snd | split | dsimp only | intro

theorem State.issueTick_keeps (t : Nat) (h : Keeps s0 s) : Keeps s0 (s.issueTick t) := by
  unfold State.issueTick
  with_reducible repeat' first | assumption | apply State.issueSome_keeps | apply foldl_keeps | apply foldl_keeps_fst | apply foldl_keeps_snd | split | dsimp only | intro

theorem State.tileTick_keeps (t : Nat) (h : Keeps s0 s) : Keeps s0 (s.tileTick t) := by
  unfold State.tileTick
  with_reducible repeat' first | assumption | apply State.count_keeps | apply State.issueOn_keeps | apply State.issueTick_keeps | apply State.tcount_keeps | split | dsimp only | intro

theorem State.tilesTick_keeps  (h : Keeps s0 s) : Keeps s0 (s.tilesTick) := by
  unfold State.tilesTick
  with_reducible repeat' first | assumption | apply State.tileTick_keeps | apply foldl_keeps | apply foldl_keeps_fst | apply foldl_keeps_snd | split | dsimp only | intro

theorem State.timersTick_keeps  (h : Keeps s0 s) : Keeps s0 (s.timersTick) := by
  unfold State.timersTick
  with_reducible repeat' first | assumption | apply State.overflow_keeps | apply foldl_keeps | apply foldl_keeps_fst | apply foldl_keeps_snd | split | dsimp only | intro

theorem State.stallTick_keeps  (h : Keeps s0 s) : Keeps s0 (s.stallTick) := by
  unfold State.stallTick
  with_reducible repeat' first | assumption | apply State.count_keeps | apply foldl_keeps | apply foldl_keeps_fst | apply foldl_keeps_snd | split | dsimp only | intro

theorem State.fabricTick_keeps  (h : Keeps s0 s) : Keeps s0 (s.fabricTick) := by
  unfold State.fabricTick
  with_reducible repeat' first | assumption | apply State.count_keeps | split | dsimp only | intro

theorem State.islandsTick_keeps  (h : Keeps s0 s) : Keeps s0 (s.islandsTick) := by
  unfold State.islandsTick
  with_reducible repeat' first | assumption | apply State.fabricTick_keeps | apply State.stallTick_keeps | apply State.tilesTick_keeps | apply State.timersTick_keeps | split | dsimp only | intro

theorem State.tablesTick_keeps  (h : Keeps s0 s) : Keeps s0 (s.tablesTick) := by
  unfold State.tablesTick
  with_reducible repeat' first | assumption | apply State.ftTick_keeps | split | dsimp only | intro

theorem State.nanosecond_keeps (h : Keeps s0 s) : Keeps s0 s.nanosecond := by
  unfold State.nanosecond
  have k := State.tablesTick_keeps (State.islandsTick_keeps (State.portsTick_keeps h))
  generalize s.portsTick.islandsTick.tablesTick = s1 at k ⊢
  have k2 := Keeps.chron (if s1.counts then s1.chron + 1 else s1.chron) k
  exact Keeps.marks _ k2

end Sys2Proof.Machine
end

