-- ==== Sys2Proof/Tests/Slice0.lean ====
section
/-! SUPPORT. The model's own tests. A theorem `witness_<Obligation>` shows a small state and operands that meet the hypotheses of
the clauses of that statement, boundary values where a clause has a range; `smoke_` theorems show an ill-formed term that each
well-formedness check refuses; `test_` theorems are single steps whose expected result comes from the spec or from hand calculation
by its rules. -/

namespace Sys2Proof.Tests

open Sys2Proof Sys2Proof.Machine

set_option Elab.async false

/-! ### Small states -/

/-- The package at FULL with the host link up; `r` lists further registers. -/
def full (r : FMap Word) : State :=
  { State.reset with
    regs := r ++ [(hiBase, 0x800), (bnBase + 0x008, 6)]
    start := { Start.reset with
      boot := .stage, resetLow := false, perstLow := false } }

/-- `full` with tile 5 as given, out of hold. -/
def fullT (r : FMap Word) (x : TileState) : State :=
  { full (r ++ [(tileBase 5 + 0x008, 0)]) with tiles := [(5, x)] }

/-- Tile 5 whose core runs home slot 2. -/
def coreT (z : Slot) : TileState := { TileState.empty with slots := [(2, { z with code := true })], active := some 2 }

def ready : State := fullT [] (coreT .empty)

/-- A write of the whole register by PF0. -/
def wr (v : Word) : Wr := ⟨0, 8, 0, v⟩

/-- A write at FULL reaches any register (R7, R463). -/
theorem accepts_full (r : FMap Word) (a : Nat) (v : Word) (hl : (full r).linkUp = true) (hs : (full r).stage = 6)
    (hf : (full r).fixed = false) (hr : reachesField a (BitVec.allOnes 64) = true) : (full r).accepts a (wr v) v (BitVec.allOnes 64) :=
  ⟨rfl, hl, Boot.noConfusion, rfl, by unfold State.open; simp [hs], fun h => by simp [hf] at h, rfl, hr⟩

/-- A 64-bit word of memory, byte by byte. -/
def put64 (a : Nat) (v : Word) : FMap Byte := (List.range 8).map fun i => (a + i, v.extractLsb' (8 * i) 8)

/-- Context 7: home slot 2 of tile 5; page 0 of its CVAs is Near memory from `0x400000`, readable and writable. -/
def cr7 : Creation := ⟨1, false, 3, 0, 0, 9, 0x100000, 4, 0x800000010000, 0x800000020000, 0x800000030000, none, 0, 0⟩
def ctx7 : Ctx := ⟨cr7, .running, 0, some (5, 2), ⟨2, 0, 0, 0, 0, [], [], none, 0, false⟩, 0, [], [], false⟩
def near7 : FMap Byte :=
  put64 0x100000 0x8000000000200000#64 ++ put64 0x200000 0xE780000000400000#64

/-- Context 7 as `c` has it, at home in slot 2 of tile 5, which is as `x` has it; `r` lists further registers. -/
def st7 (r : FMap Word) (x : TileState) (c : Ctx) : State :=
  { fullT ((tileBase 5 + 0x820, 0x1007) :: r) x with
    ctxs := [(7, c)]
    mem := { Memory.empty with
      near := near7 } }

/-- Tile 5 runs context 7 in slot 2, as `z` has it. -/
def run7 (z : Slot) : State := st7 [] (coreT { z with ctx := 7, job := 3 }) ctx7

/-- Tile 5 with queues, pieces and counters as `w` has them. -/
def work7 (w : Work) : State := st7 [] { TileState.empty with work := w } ctx7

/-- A step record without deadline, list and chart, and a step of it in a phase. -/
def words1 : List Word := [0x0100000000000000, 0x1000, 0, BitVec.allOnes 64, 0, 0, 0xFF00000000000000, 0]
def step1 (ph : Phase) : Step :=
  { newStep 1 0 words1 none with
    phase := ph
    codeStart := if ph = .saving then none else some 0 }
def step7 (p : Step) (x : TileState) : State := st7 [] x { ctx7 with steps := [p], nextStep := 2 }

/-- The state after a command. -/
def after (i : Instr) (s : State) : State := match exec i s with
  | .next t => t
  | _ => s

/-- `full r` accepts a whole-register write of `v` at `a`, and `v` is what the register is to be. -/
def takes (r : FMap Word) (a : Nat) (v : Word) : Prop :=
  (full r).accepts a (wr v) v (BitVec.allOnes 64) ∧ ((full r).reg a &&& ~~~ BitVec.allOnes 64) ||| (v &&& BitVec.allOnes 64) = v

theorem takes_full (r : FMap Word) (a : Nat) (v : Word) (h : ((full r).linkUp && (full r).stage = 6 && ! (full r).fixed && reachesField a (BitVec.allOnes 64)) = true) :
    takes r a v := by
  simp only [Bool.and_eq_true, decide_eq_true_eq, Bool.not_eq_true'] at h
  have k : ∀ x y : Word, x &&& ~~~ BitVec.allOnes 64 ||| (y &&& BitVec.allOnes 64) = y := by
    intro x y
    ext i hi
    simp only [BitVec.getElem_or, BitVec.getElem_and, BitVec.getElem_not, BitVec.getElem_allOnes, Bool.not_true, Bool.and_false, Bool.false_or, Bool.and_true]
  exact ⟨accepts_full r a v h.1.1.1 h.1.1.2 h.1.2 h.2, k _ _⟩

theorem accepts_of (s : State) (a : Nat) (v : Word)
    (h : (s.linkUp && s.stage = 6 && ! s.fixed && ! s.safety.safe && s.start.boot = .stage && reachesField a (BitVec.allOnes 64)) = true) :
    s.accepts a (wr v) v (BitVec.allOnes 64) := by
  simp only [Bool.and_eq_true, decide_eq_true_eq, Bool.not_eq_true'] at h
  exact ⟨h.1.1.2, h.1.1.1.1.1, by simp [h.1.2], rfl, by unfold State.open; simp [h.1.1.1.1.2], fun k => by simp [h.1.1.1.2] at k, rfl, h.2⟩

/-- What ends well gives a state. -/
theorem ends_ok {α : Type} (x : State × Except Status α) (v : α) (h : x.2 = .ok v) : x = (x.1, .ok v) := by rw [← h]

/-- The outcome is a value. -/
def okay {α : Type} (x : Except Status α) : Bool := match x with
  | .ok _ => true
  | .error _ => false

theorem ok_ex {α : Type} (x : State × Except Status α) (h : okay x.2 = true) : ∃ t v, x = (t, .ok v) := by
  obtain ⟨t, e⟩ := x
  cases e with
  | ok v => exact ⟨t, v, rfl⟩
  | error st => exact absurd h (by simp [okay])
/-! ### The queue, reset, whole-machine rules -/

theorem witness_StepRunsFrontCommand : ({ full [] with pending := [.nop 0, .tapReset] } : State).pending = .nop 0 :: [.tapReset] ∧
    (full []).pending = [] := by decide

theorem witness_CommandsLeaveTheQueue : ∃ t, step { full [] with pending := [.tapReset, .nop 0] } = .next t ∧ t.pending = [.nop 0] :=
  ⟨_, rfl, rfl⟩

/-- The package at FULL with no tile in use, and one whose reference clock is lost. -/
theorem witness_NanosecondPasses : (full []).tiles = [] ∧ (full []).light.forwards = [] ∧ (full []).tables.cmd = none ∧
    (full []).marks.ran.toNat < 2 ^ 40 ∧
    ((List.range 8).all fun p => ((full []).port p).waiting.isEmpty && ((full []).port p).frame.isEmpty &&
      (full []).portState p != portExchange) = true ∧
    (full []).nanosecond.chron = 1 ∧ ((full []).quiet 0xF006 9 0).nanosecond.chron = 0 := by decide +kernel

theorem witness_WellFormedCommandsComplete : (Instr.pcieLinkUp 7 16 true).wf = true ∧ (Instr.pcieLinkUp 0 16 true).wf = false ∧
    (Instr.registerWrite 1 (wr 0)).wf = true := by decide

theorem witness_reset_inv : State.reset.Inv := by
  constructor <;> first | decide | (intro v h; cases h)

theorem witness_EveryStepKeepsTheInvariant : ∃ t, State.reset.Inv ∧ step State.reset = .next t := ⟨_, witness_reset_inv, rfl⟩

theorem witness_FusedMinimumNeverFalls : ∃ t, State.reset.Inv ∧
    step { State.reset with pending := [.tapReset] } = .next t := ⟨_, witness_reset_inv, rfl⟩

/-- The package in its safe state, with one command waiting. -/
def quietState : State :=
  { full [] with
    safety := { Safety.reset with
      safe := true }
    pending := [.tapReset] }

theorem witness_SafeStateStays : ∃ t, quietState.safety.safe = true ∧ step quietState = .next t := ⟨_, rfl, rfl⟩

/-! ### Scalar instructions -/

/-- The premise of the statements about the scalar instructions of a running core. -/
theorem witness_IntegerOperations : ready.core 5 = some 2 := by decide

/-- The lowest illegal precision and rounding, a source register where none may stand, and a precision for a move. -/
theorem witness_FloatingPointIllegalForms : ready.core 5 = some 2 ∧ 2 ≤ (⟨2, 0⟩ : FpMode).prec.toNat ∧ 5 ≤ (⟨0, 5⟩ : FpMode).rnd.toNat ∧
    (1 : RegNo).val ≠ 0 ∧ (⟨1, 0⟩ : FpMode).prec ≠ 0 := by decide

/-- Each clause of SHI, LIH and SETTAG at the ends of its range. -/
theorem witness_ImmediatesAndConstants :
    ([0#15, 0x3F#15].all fun imm => decide (imm.extractLsb' 8 7 = 0 ∧ imm.extractLsb' 6 2 = 0)) = true ∧
    ([0x40#15, 0x7F#15].all fun imm => decide (imm.extractLsb' 8 7 = 0 ∧ imm.extractLsb' 6 2 = 1)) = true ∧
    ([0x80#15, 0xBF#15].all fun imm => decide (imm.extractLsb' 8 7 = 0 ∧ imm.extractLsb' 6 2 = 2)) = true ∧
    ([0xC0#15, 0xFF#15, 0x100#15].all fun imm => decide (imm.extractLsb' 8 7 ≠ 0 ∨ imm.extractLsb' 6 2 = 3)) = true ∧
    ([0#48, 0xFFFF#48].all fun k => decide (k.extractLsb' 16 32 = 0)) = true ∧ (0x10000#48).extractLsb' 16 32 ≠ 0 ∧
    ([0#48, 0xFFFFFFFF0000#48].all fun k => decide (k.extractLsb' 0 16 = 0)) = true ∧ (1#48).extractLsb' 0 16 ≠ 0 := by decide

/-- Conditions 0 and 5 are legal, 6 is not; `g0 + 8` is a legal jump target, `g0 + 2` is not. -/
theorem witness_BranchesAndJumps :
    (0#3).toNat < 6 ∧ (5#3).toNat < 6 ∧ 6 ≤ (6#3).toNat ∧ ((Slot.empty.rg 1 = Slot.empty.rg 2) ∧ ¬ (Slot.empty.rg 1 ≠ Slot.empty.rg 2)) ∧
    (BitVec.ofInt 64 ((Slot.empty.rg 1).toInt + (8#15).toInt)).toNat % 4 = 0 ∧
    (BitVec.ofInt 64 ((Slot.empty.rg 1).toInt + (2#15).toInt)).toNat % 4 ≠ 0 := by decide

theorem witness_FloatingPointOperations : ([(⟨0, 0⟩ : FpMode), ⟨1, 4⟩].all fun m => decide (m.prec.toNat ≤ 1 ∧ (rndOf m.rnd).isSome = true)) = true ∧
    (2 ≤ (⟨2, 0⟩ : FpMode).prec.toNat ∧ 5 ≤ (⟨0, 5⟩ : FpMode).rnd.toNat) := by decide

theorem witness_DescriptorsAndContextState : ((15 : RegNo).val < 16 ∧ (3#10).toNat < 4) ∧ (16 ≤ (16 : RegNo).val ∧ 4 ≤ (4#10).toNat) ∧
    (7#10).toNat < 8 ∧ 8 ≤ (8#10).toNat ∧ ((0#10) ≠ 1 ∧ (0#10) ≠ 2) := by decide

/-- The words of TMM that R103 works out, of ADD, and the all-zero word, with a core to execute them. -/
theorem witness_WordsExecute (h : Hazard) : decodeInsn 5 h 0x00041182 = some (.add 5 3 1 2) ∧ decodeInsn 5 h 0 = none ∧ ready.core 5 = some 2 := by
  refine ⟨?_, ?_, ?_⟩ <;> rfl

/-- The worked word of R103, field by field. -/
theorem test_decode_tmm (h : Hazard) : decodeInsn 5 h 0x005A0429042653A1 =
    some (.tmm 5 ⟨7, 5, 3, 1, 2, 0, true, false, 10, 1, true, false, 11, 0⟩) := rfl

/-! ### Scalar memory accesses -/

/-- Nothing that tile 5 has accepted waits, so its turn changes nothing. -/
theorem witness_TurnWithNothingAccepted : (run7 .empty).nextWrite 5 = none ∧ (run7 .empty).turn 5 = run7 .empty := by
  refine ⟨?_, ?_⟩ <;> rfl

/-- Address 0 of context 7 reaches sound Near memory at `0x400000`, for every access size and kind. -/
theorem reaches7 (k : Touch) (n : Nat) (hk : k ∈ [Touch.read, .write, .atomic]) (hn : n ∈ [1, 2, 4, 8, 32]) :
    ((run7 .empty).turn 5).reachesNear 5 7 0 n k 0x400000 := by
  fin_cases hk <;> fin_cases hn <;>
    exact ⟨_, ⟨.pa 0x400000, _, some 0x200000, 0, 0⟩, ⟨⟨1, 0⟩, rfl, Prod.ext rfl rfl, fun _ _ h => nomatch h⟩, rfl, rfl, rfl, rfl, rfl, rfl⟩

/-- The loads, stores and atomics: the core runs slot 2, whose `g0` addresses that memory with displacement 0; `t15` is the last
descriptor register. -/
theorem witness_LoadsFromNearMemory : ((run7 .empty).turn 5).core 5 = some 2 ∧ (((run7 .empty).tile 5).slot 2).ctx.toNat = 7 ∧
    (((run7 .empty).tile 5).slot 2).rg 0 + (0 : BitVec 15).signExtend 64 = 0 ∧ (15 : RegNo).val < 16 := by decide

theorem witness_StoresToNearMemory : ((run7 .empty).turn 5).core 5 = some 2 ∧
    ((run7 .empty).turn 5).reachesNear 5 7 0 32 .write 0x400000 := ⟨by decide, reaches7 _ _ (by decide) (by decide)⟩

theorem witness_AtomicsOnNearMemory : ((run7 .empty).turn 5).core 5 = some 2 ∧
    ((run7 .empty).turn 5).reachesNear 5 7 0 8 .atomic 0x400000 := ⟨by decide, reaches7 _ _ (by decide) (by decide)⟩

/-- Where the clauses of the address check meet: the last legal address of each kind, the first illegal one, and a misaligned one. -/
theorem witness_ScalarAddressExceptions :
    ((run7 .empty).turn 5).core 5 = some 2 ∧
    (0xFFFFFFFFFFFF : Nat) / 2 ^ 48 = 0 ∧ ¬ ((2 ^ 48 : Nat) / 2 ^ 48 = 0 ∨ (2 ^ 48 : Nat) / 2 ^ 56 = 128) ∧
    (0x80FFFFFFFFFFFFFF : Nat) / 2 ^ 56 = 128 ∧ ¬ ((0x8100000000000000 : Nat) / 2 ^ 56 = 128) ∧ 0xFFFFFFFFFFFF % 2 ≠ 0 ∧
    ((fullT [] (coreT { Slot.empty with g := [(1, 2 ^ 48)] })).tile 5 |>.slot 2).rg 1 = 2 ^ 48 := by decide

/-- Context 7 whose page 0 is far memory at offset 0 of node 3's window; `r` lists further registers. -/
def far7 (r : FMap Word) : State :=
  { st7 ((mtBase + 0x180, 0xB000300000000000) :: r) (coreT { Slot.empty with ctx := 7, job := 3 }) ctx7 with
    mem := { Memory.empty with
      near := put64 0x100000 0x8000000000200000#64 ++ put64 0x200000 0xF780040000000000#64 } }

/-- A load and a store of sound Near memory, and a way to it over a link that is down. -/
theorem witness_ScalarAccessesMeetHazards (k : Touch) (hk : k ∈ [Touch.read, .write]) :
    ∃ s1 p, ((run7 .empty).turn 5).reachesOne 7 0 8 k s1 p ∧ p.place = .pa 0x400000 ∧ tierOf 0x400000 = .near ∧ p.len = 8 ∧
      s1.partsReached 5 [p] = true ∧
      ({ s1 with safety := { s1.safety with stopped := [.own 5] } } : State).partsReached 5 [p] = false := by
  fin_cases hk <;>
    exact ⟨_, ⟨.pa 0x400000, 8, some 0x200000, 0, 0⟩, ⟨⟨1, 0⟩, rfl, Prod.ext rfl rfl, fun _ _ h => nomatch h⟩, rfl, rfl, rfl, rfl, rfl⟩

/-- A load of far memory, with port F down and with it up. -/
theorem witness_ScalarAccessesMeetFarHazards : (∃ s1 p nd a, ((far7 []).turn 5).reachesOne 7 0 8 .read s1 p ∧ p.place = .far nd a ∧
      s1.partsReached 5 [p] = true ∧ s1.farUp = false) ∧
    ∃ s1 p nd a, ((far7 [(mtBase + 0x010, 2), (lpBase + 0x408, 5)]).turn 5).reachesOne 7 0 8 .read s1 p ∧ p.place = .far nd a ∧
      s1.partsReached 5 [p] = true ∧ s1.farUp = true :=
  ⟨⟨_, ⟨.far _ _, 8, some 0x200000, 0, 0⟩, _, _, ⟨⟨1, 0⟩, rfl, Prod.ext rfl rfl, fun _ _ h => nomatch h⟩, rfl, rfl, rfl⟩,
   ⟨_, ⟨.far _ _, 8, some 0x200000, 0, 0⟩, _, _, ⟨⟨1, 0⟩, rfl, Prod.ext rfl rfl, fun _ _ h => nomatch h⟩, rfl, rfl, rfl⟩⟩

/-- A dirty line, and the first and the last entry of an empty table of lost lines. -/
def dirtyLine : State :=
  { full [] with
    mem := { Memory.empty with
      cache := [(0x400000, 1)], lines := [(0x10000, [5])] } }

theorem witness_CacheErrorsLoseDirtyLines : (FMap.find? dirtyLine.mem.lines 0x10000).isSome ∧
    tst (dirtyLine.reg (mtBase + 0x200 + 8 * 0)) 63 = false ∧ tst (dirtyLine.reg (mtBase + 0x200 + 8 * 63)) 63 = false ∧
    tst ((dirtyLine.cacheError 5 7 0x10000 true).reg (mtBase + 0x200)) 63 = true := by decide +kernel

theorem witness_ScalarExceptionRecords : (run7 .empty).ctx? 8 = none ∧ recorded 0x2001 = false ∧ recorded 0x3012 = false := by decide

/-- The slot's `g1` names node 5, offset 64. -/
def remote7 : State := run7 { Slot.empty with g := [(1, 0x8000500000000040#64)] }

theorem witness_ScalarAccessToAnotherNode (k : Touch) (hk : k ∈ [Touch.read, .write, .atomic]) :
    (remote7.turn 5).core 5 = some 2 ∧ ∃ s1, (remote7.turn 5).reachesNode 7 0x8000500000000040#64 8 k s1 5 64 := by
  fin_cases hk <;> exact ⟨by decide, _, ⟨2, 0x00500000000040#56⟩, _, rfl, rfl, rfl⟩

/-! ### Tokens, fences, the end of code -/

/-- Tile 5 with every counter set in use by other contexts. -/
def fullSets : Work := { Work.empty with sets := (List.range 128).map fun i => ⟨i + 100, 0, false, []⟩ }

/-- Targets at the edges of the clauses, against a counter of 0; a slot that waits; no room for a set. -/
theorem witness_TokenWaits :
    (run7 .empty).setRoom 5 7 = true ∧ (work7 fullSets).setRoom 5 7 = false ∧ ((run7 .empty).allocSet 5 7).counter 5 7 9 = 0 ∧
    ([0#32, 0x80000001#32].all fun t => decide ((t - 0).toNat ≠ 2 ^ 31 ∧ (0 - t).toNat < 2 ^ 31)) = true ∧
    (0x80000000#32 - 0).toNat = 2 ^ 31 ∧
    ([1#32, 0x7FFFFFFF#32].all fun t => decide ((t - 0).toNat ≠ 2 ^ 31 ∧ 2 ^ 31 ≤ (0 - t).toNat)) = true ∧
    ((run7 { Slot.empty with stall := .token 9 0 }).tile 5 |>.slot 2).stall = .token 9 0 ∧ (run7 .empty).moving = true := by decide +kernel

theorem witness_ScalarSignals :
    ([640, 1021].all fun t => decide (640 ≤ t ∧ t ≤ 1021)) = true ∧ ([639, 1022].all fun t => decide (t < 640 ∨ 1021 < t)) = true ∧
    ((run7 { Slot.empty with stall := .tsig 9 5 1 }).tile 5 |>.slot 2).stall = .tsig 9 5 1 ∧
    (run7 { Slot.empty with stall := .tsig 9 5 1 }).storesAcked 5 2 = true ∧ (run7 .empty).linkUp = true ∧
    ((run7 .empty).setReg hiBase 0).linkUp = false ∧ ((run7 .empty).setReg hiBase 0).moving = true := by decide

/-- A slot that has posted a write to host memory, with a host read free, and with 768 of them in use. -/
def posted7 : State := run7 { Slot.empty with posted := true }
def busyHost (s : State) : State := { s with ctxs := s.ctxs ++ (List.range 768).map fun i => (100 + i, { ctx7 with ring := { ctx7.ring with fetching := some 1 } }) }

theorem witness_postedWrites : (posted7.tile 5 |>.slot 2).posted = true ∧ posted7.core 5 = some 2 ∧ posted7.hostReadFree = true ∧
    (busyHost posted7).hostReadFree = false ∧ (busyHost posted7).core 5 = some 2 := by decide +kernel

/-- A request of another node that waits for its acknowledgement. -/
def storeOut (n : Nat) : Remote := ⟨0, 2, 0, 9, 0, 8, 0, 0, [], 7, .store n 0 1, some 0⟩
def fenced7 (f : FabricSide) : State :=
  st7 [] { coreT { Slot.empty with ctx := 7, stall := .fence 2 } with fab := f } ctx7

theorem witness_ScalarFences : ((fenced7 .empty).tile 5 |>.slot 2).stall = .fence 2 ∧ (fenced7 .empty).moving = true ∧
    (fenced7 .empty).storesAcked 5 2 = true ∧ ((fenced7 .empty).setReg hiBase 0).linkUp = false ∧ (fenced7 { FabricSide.empty with remotes := [storeOut 2] }).storesAcked 5 2 = false := by decide

theorem witness_EndOfCode : (step7 (step1 .running) (coreT { Slot.empty with ctx := 7, stepno := 1 })).core 5 = some 2 ∧
    (step7 (step1 .running) (coreT { Slot.empty with ctx := 7, stepno := 1 })).ctx? 7 = some { ctx7 with steps := [step1 .running], nextStep := 2 } ∧
    (step1 .running).stepno = 1 := by decide

theorem witness_HomeSlotSwitches : (run7 .empty).moving = true ∧ ((run7 .empty).treg 5 0x808).getLsbD 0 = false ∧
    ((st7 [] { coreT .empty with active := none } ctx7).slotCtx 5 2).isSome = true ∧
    ((st7 [] { coreT .empty with active := none } ctx7).tile 5).active ≠ some 2 ∧
    ((st7 [] { coreT .empty with active := none } ctx7).tile 5 |>.slot 2).code = true := by decide

/-- A step whose saves are done, and one that has been restored. -/
theorem witness_CodeStarts : (step7 (step1 .saving) .empty).startable 7 = some (step1 .saving) ∧
    (step7 (step1 .restoring) .empty).restorable 7 = some (step1 .restoring) ∧ (step7 (step1 .saving) .empty).homeOf 7 = some (5, 2) ∧
    (step7 (step1 .saving) .empty).step? 7 1 = some (step1 .saving) ∧ (step1 .saving).wp.saves = [] ∧ (step1 .restoring).seqs = [] := by decide

/-! ### Tensor instructions -/

/-- The slot of the spec's worked sequence (chapter 3): descriptors `t1`, `t2`, `t3`, the tile set in `g5`, the step's context. -/
def haven : Slot :=
  let d := fun (z : Slot) (t : RegNo) (ws : List Word) => (List.range 4).foldl (fun z i => z.wt t i (ws.getD i 0)) z
  let z := { Slot.empty with
    g := [(5, 0x014010C8)], ctx := 0x2A7, job := 0x051C3, stepno := 1842, deadline := 0x317A204C00, layop := 0x00390003, code := true }
  d (d (d z 1 [0x8000000FFC000000, 0x0001001000000020, 278528, 0x0001000000000000])
    2 [0x8000000FFC800000, 0x0001001000000200, 278528, 0x0001000000000000])
    3 [0x0000000FFD000000, 0x0000000200000020, 2048, 0x0001000000000000]

/-- Tile 201 of the worked sequence. -/
def havenState : State :=
  { full [] with tiles := [(201, { TileState.empty with slots := [(0, haven)], active := some 0 })] }

/-- `TMM g7, t3, t1, t2, g5, wait k10 >= 1, sig k11 +1 @exec`. -/
def tmm7 : TensorInsn := ⟨7, 5, 3, 1, 2, 0, true, false, 10, 1, true, false, 11, 0⟩

set_option maxRecDepth 8000 in
/-- The example of chapter 4: the pieces of the instruction go to four tiles; the record for tile 200, word by word. -/
theorem forms_tmm7 : ∃ rs, havenState.formsPieces 201 0 tmm7 opMatrix (200, 4, 20) rs ∧ rs.map (·.1) = [200, 220, 240, 260] ∧
    (rs.map fun p => p.2.words).head? = some [0x10002A7051C33260, 0x000000317A204C00, 0x0039000300000001,
      0xC282CC8000188030, 0x0400020010000000, 0x0000000320000000, 0x0000000320800000, 0x0000000321000000] :=
  ⟨_, ⟨_, _, _, _, _, ⟨rfl, rfl, rfl⟩, rfl, rfl, rfl, rfl, rfl⟩, rfl, rfl⟩

theorem depth_crossing : 8 ≤ crossingDepth := by unfold crossingDepth; omega

theorem witness_TensorInstructionsSendPieces : havenState.core 201 = some 0 ∧
    ∃ rs, havenState.formsPieces 201 0 tmm7 opMatrix (200, 4, 20) rs ∧ havenState.takesPieces 201 rs := by
  obtain ⟨rs, h, ht, -⟩ := forms_tmm7
  have hl : rs.length = 4 := by simpa using congrArg List.length ht
  refine ⟨by decide, rs, h, fun hm => absurd hm (by rw [ht]; decide), fun u _ => ?_⟩
  have := List.countP_le_length (l := rs) (p := fun p => p.1 = u)
  have := depth_crossing
  show 0 + _ ≤ _
  omega

/-- With its crossing interrupted, a tile's first piece for itself finds no room. -/
theorem witness_TensorInstructionsSendPieces_wait :
    ({ havenState with safety := { Safety.reset with stopped := [.own 201] } } : State).acceptsPiece 201 201 = false ∧
    havenState.pathClear 201 201 = true ∧ (havenState.tile 201).work.inbox.length < 256 := by decide +kernel

/-- TTOKEN for the matrix engine, with no wait and no signal. -/
def ttoken7 : TensorInsn := ⟨7, 5, 0, 0, 0, 0, false, false, 0, 0, false, false, 0, 0⟩

theorem witness_TokensAndFencesSendOnePieceEach : encodingOk ttoken7 1 .engine = true ∧ encodingOk ttoken7 3 .engine = true ∧
    tileSet 201 (haven.rg 5) = some (200, 4, 20) ∧ (match signalOf ttoken7 haven with | .ok none => true | _ => false) = true := by decide +kernel

/-- Each check that fails: an encoding, a tile set, a signal word at both ends of its range, a parameter, a descriptor. -/
theorem witness_TensorChecksInOrder :
    encodingOk { tmm7 with we := false } opMatrix.vars (opMatrix.tb 0) = false ∧ encodingOk tmm7 opMatrix.vars (opMatrix.tb 0) = true ∧
    tileSet 201 (haven.rg 1) = some (201, 1, 0) ∧ tileSet 201 0x3FF = none ∧
    640 ≤ ((0x280#64).extractLsb' 0 10).toNat ∧ ((0x3FD#64).extractLsb' 0 10).toNat ≤ 1021 ∧
    paramOf .param { tmm7 with tb := 5 } { haven with g := [(5, 2 ^ 21)] } = none ∧ Desc.read (haven.desc 0) = none ∧
    (match signalOf tmm7 haven with | .ok _ => true | _ => false) = true := by decide +kernel

/-- Tile sets where the clauses meet: the last legal tile and count, and one past each. -/
theorem witness_TileSets :
    tileSet 7 0 = some (7, 1, 0) ∧ tileSet 7 (639 + 1 * 2 ^ 10) = some (639, 1, 0) ∧ tileSet 7 (640 * 2 ^ 10 + 2 ^ 20) = some (0, 640, 1) ∧
    tileSet 7 (641 * 2 ^ 10 + 2 ^ 20) = none ∧ tileSet 7 (1 + 640 * 2 ^ 10 + 2 ^ 20) = none ∧ tileSet 7 (2 * 2 ^ 10) = none ∧
    tileSet 7 (639 + 1 * 2 ^ 10 + 2 ^ 30) = none ∧ tileSet 7 639 = none := by decide +kernel

theorem witness_MatrixPiecesCoverTheResult : ∃ d a b ps, Desc.read (haven.desc 3) = some d ∧ Desc.read (haven.desc 1) = some a ∧
    Desc.read (haven.desc 2) = some b ∧ formMatrix d a b 0 = some ps ∧ ps.length = 4 := ⟨_, _, _, _, rfl, rfl, rfl, rfl, rfl⟩

/-! ### Inbox, queues, engines -/

/-- A TOKEN for the matrix engine of context 7. -/
def tok : Rec :=
  ⟨1, 0, 0, 7, 3, 5, 1, BitVec.allOnes 64, 0xFFFF, 0xFFFF, 0, false, false, 0, 0, 0, 0, 0, 0, 0, 0, false, false, false, 1, 0, 0, 0,
    .absent, .absent, .absent⟩

/-- The record of the spec's worked example, for tile 200. -/
def mm : Rec := Rec.ofWords 0x10002A7051C33260 0x000000317A204C00 0x0039000300000001 0xC282CC8000188030 0x0400020010000000
  0x0000000320000000 0x0000000320800000 0x0000000321000000

theorem witness_CommandArrives : ({ work7 .empty with mail := { Mail.empty with channel := [(9, tok), (5, tok)] } } : State).moving = true ∧
    (work7 { Work.empty with inbox := List.replicate 255 tok }).moving = true ∧ (List.replicate 255 tok).length < 256 ∧
    (work7 .empty).fromHome 7 5 = true ∧ (9 : Nat) ≠ 5 := by decide +kernel

/-- A faulted tile. -/
def faulted5 : State := work7 { Work.empty with inbox := [tok] } |>.makeFaulted 5

theorem witness_RecordEntersItsQueue :
    (work7 { Work.empty with inbox := [tok] }).faultedTile 5 = false ∧ (work7 { Work.empty with inbox := [tok] }).canMove 5 tok = true ∧
    (work7 { Work.empty with inbox := [tok] }).entryStatus 5 tok = none ∧ (work7 { Work.empty with inbox := [tok] }).parkEntry 5 tok = none ∧
    (work7 .empty).canMove 5 { tok with rows := 1025 } = true ∧ (work7 .empty).entryStatus 5 { tok with code := 0xFF } = some 0x2005 ∧
    faulted5.faultedTile 5 = true ∧ (faulted5.tile 5).work.inbox.length = 1 := by decide +kernel

/-- A parked record that returns to a tile partitioned to another context, and to its own. -/
def returned5 (c : Nat) : State :=
  st7 [(tileBase 5 + 0x008, BitVec.ofNat 64 (2 + 4 * c))]
    { TileState.empty with work := { Work.empty with parked := [⟨returning, 0, ⟨tok, 0, true⟩⟩] } } ctx7

theorem witness_parked_records_return :
    (returned5 9).canMove 5 tok = true ∧ (returned5 9).partitioned 5 = true ∧ (returned5 9).partOwner 5 = 9 ∧
    (returned5 7).canMove 5 tok = true ∧ (returned5 7).partOwner 5 = 7 ∧ (returned5 7).parkEntry 5 tok = none := by decide +kernel

/-- Tile 200 with the whole scratchpad in one region of context `0x2A7`, partitioned to context `c` where there is one. -/
def tile200 (c : Option Nat) : State :=
  full [(tileBase 200 + 0x008, match c with | some c => BitVec.ofNat 64 (2 + 4 * c) | none => 0),
    (tileBase 200 + 0x100, 2 ^ 28 + 192 * 2 ^ 20 + 0x2A7)]

/-- One record for each check of queue entry, each passing the checks before it; scratchpad ranges at the last legal byte and past it. -/
theorem witness_EntryChecksInOrder :
    ({ mm with code := 0xFF } : Rec).valid = false ∧ mm.valid = true ∧
    ({ mm with rows := 1025 } : Rec).valid = true ∧ ¬ (1024 < mm.rows.toNat) ∧
    (tile200 none).entryStatus 200 { mm with d := ⟨0, 0x322FFFFC0⟩ } = some 0x2012 ∧
    (tile200 none).entryStatus 200 { mm with target := 0x80000000 } = some 0x2015 ∧
    (tile200 (some 0x2A8)).entryStatus 200 mm = some 0x3061 ∧ (full []).entryStatus 200 mm = some 0x3011 ∧
    (tile200 none).entryStatus 200 mm true = some 0x3011 ∧ mm.scratch ≠ [] ∧
    (tile200 none).setRoom 200 0x2A7 = true ∧
    (tile200 (some 0x2A7)).entryStatus 200 mm = none ∧ (tile200 none).entryStatus 200 { mm with d := ⟨0, 0x322FFC000⟩ } = none := by
  decide +kernel

/-- Two commands of contexts 7 and 9 in a queue: an ordinary selection, and a floor selection after one of context 7. -/
def queue0 : List Entry := [⟨{ tok with deadline := 5 }, 0, true⟩, ⟨{ tok with ctx := 9, deadline := 4 }, 1, true⟩]

theorem witness_SelectionFollowsDeadlines :
    (Work.empty.pickOf 0 16 queue0).map (fun p => (p.1.ord, p.2)) = some (1, false) ∧
    (({ Work.empty with sel := [(0, 15)], lastFloor := [(0, 7)] } : Work).pickOf 0 16 queue0).map (fun p => (p.1.ord, p.2)) = some (1, true) ∧
    (({ Work.empty with sel := [(0, 15)], lastFloor := [(0, 9)] } : Work).pickOf 0 16 queue0).map (fun p => (p.1.ord, p.2)) = some (0, true) := by
  decide +kernel

theorem witness_EngineSelects : ∃ x, (work7 { Work.empty with queues := [(0, [⟨tok, 3, true⟩])] }).moving = true ∧
    ((work7 .empty).treg 5 0x008).getLsbD 0 = false ∧ ((work7 { Work.empty with queues := [(0, [⟨tok, 3, true⟩])] }).tile 5).engineFree 0 = true ∧
    ({ Work.empty with queues := [(0, [⟨tok, 3, true⟩])] } : Work).pickOf 0 (bits ((work7 .empty).treg 5 0x728) 0 7)
      ((({ Work.empty with queues := [(0, [⟨tok, 3, true⟩])] } : Work).queue 0).filter
        ((work7 { Work.empty with queues := [(0, [⟨tok, 3, true⟩])] }).eligible 5 0)) = some (x, false) ∧
    (work7 .empty).traceStalls 5 = false := ⟨⟨tok, 3, true⟩, by decide +kernel⟩

/-- Tile 5 with one piece running on engine 0. -/
def running5 (r : Rec) (formed : Bool) (st : Status) : State :=
  work7 { Work.empty with running := [⟨r, 0, 3, formed, st, [], [], none, (0, 0), false, 0, .none, 0, 0⟩] }

theorem witness_TokenAndFenceCommands : ((running5 tok false 0).run? 5 0 0).map (·.cmd.code) = some 1 ∧
    ((running5 { tok with code := 2 } true 0).run? 5 0 0).map (fun x => (x.cmd.code, x.formed, x.suppressed)) = some (2, true, false) ∧
    (fenceCovers 0).all (fun q => ((running5 { tok with code := 2 } true 0).tile 5).work.queue q = []) = true ∧
    (running5 tok false 0).moving = true := by decide +kernel

/-- A finished piece with and without a fault; and one that is not issued, exactly 10 ms past its deadline, in each place. -/
theorem witness_PiecesComplete :
    ((running5 { mm with ctx := 7 } true 0).run? 5 0 0).map (fun x => (x.formed, x.suppressed, x.reqs.length)) = some (true, false, 0) ∧
    (running5 { mm with ctx := 7 } true 0x5020).nwEntry 5 { mm with ctx := 7 } = none ∧
    (let x := { tok with deadline := 5 }
     [work7 { Work.empty with queues := [(0, [⟨x, 3, true⟩])] }, work7 { Work.empty with inbox := [x] },
       work7 { Work.empty with parked := [⟨0, 0, ⟨x, 3, true⟩⟩] },
       { work7 .empty with mail := { Mail.empty with channel := [(5, x)] } }].all fun s => (s.unissued 5 0)[0]? = some x) = true ∧
    (5 : BitVec 64) ≠ BitVec.allOnes 64 ∧ (5 : BitVec 64).toNat + 10000000 ≤ (10000005 : BitVec 64).toNat := by
  decide +kernel

/-! ### Pieces -/

/-- Tile 5 runs one piece of context 7 on an engine; its scratchpad, with bytes `b`, is one region of context 7. -/
def piece5b (b : FMap Byte) (e : Nat) (r : Rec) : State :=
  st7 [(tileBase 5 + 0x100, 2 ^ 28 + 192 * 2 ^ 20 + 7)]
    { TileState.empty with
      sp := { Scratch.empty with
        bytes := b }
      work := { Work.empty with
        running := [⟨r, e, 3, false, 0, [], [], none, (0, 0), false, 0, .none, 0, 0⟩], nextSeq := 9 } } ctx7
def piece5 (e : Nat) (r : Rec) : State := piece5b [] e r

/-- A scratchpad operand of tile 5. -/
def sp5 (off : Nat) : Operand := ⟨0, BitVec.ofNat 56 (5 * 2 ^ 26 + off)⟩

/-- A piece of 1 row, extent 4 and 1 output column over scratchpad operands: formats of A, B and D, code, engine, variant. -/
def small (fa fb fd : BitVec 4) (code : BitVec 8) (eng var : BitVec 4) : Rec :=
  { tok with
    code := code, engine := eng, variant := var, fa := fa, fb := fb, fd := fd, rows := 1, extent := 4, cols := 1
    a := sp5 0, b := sp5 0x1000, d := sp5 0x2000 }

/-- The run of such a piece. -/
def runOf (e : Nat) (r : Rec) : Run := ⟨r, e, 3, false, 0, [], [], none, (0, 0), false, 0, .none, 0, 0⟩

set_option maxRecDepth 8000 in
theorem witness_MatrixPieces (code : BitVec 8) (hc : code ∈ [0x10#8, 0x11, 0x12]) :
    let r := small 1 1 0 code 0 0
    let s := piece5 0 r
    s.moving = true ∧ s.current 5 0 code.toNat = some (runOf 0 r) ∧ s.operandsReached 5 r = true ∧ s.drain 5 = s ∧ (s.tile 5).upkeep.injChecksum = false ∧
    (s.tile 5).upkeep.injResidue = false ∧ r.geoA.isSome = true ∧ r.geoB.isSome = true ∧ r.geoD.isSome = true ∧
    (∃ ia ib pd s3 gd, s.fetchesAB r ia ib pd s3 ∧ (s3.tile 5).upkeep.injChecksum = false ∧ (s3.tile 5).upkeep.injResidue = false ∧
      r.geoD = some gd ∧ ∃ s6 m, ((s3.tcount 5 0x300 (matrixBusy r).1).tcount 5 0x308 (matrixBusy r).2).writeOut r gd pd .rne [[f32 0]] 0 =
        (s6, .ok m)) ∧
    (small 1 1 0 0x10 0 1).geoD = none := by
  fin_cases hc <;> refine ⟨?_, ?_, ?_, rfl, rfl, rfl, rfl, rfl, rfl,
    ⟨_, _, _, _, _, ⟨_, _, ⟨_, _, rfl, rfl⟩, rfl⟩, rfl, rfl, rfl, ok_ex _ ?_⟩, rfl⟩ <;> decide +kernel

/-- A piece with an operand in memory, whose tile's crossing is stopped. -/
theorem witness_MatrixWaits :
    let r := { small 1 1 0 0x10 0 0 with a := ⟨1, 0⟩ }
    let s := { piece5 0 r with safety := { Safety.reset with stopped := [.own 5] } }
    s.current 5 0 0x10 = some (runOf 0 r) ∧ s.operandsReached 5 r = false := by decide +kernel

/-- Scratchpad pieces of the vector engine, with the vector unit's cycles counted. -/
def vec5 (r : Rec) (n : Nat) : State := (piece5 1 r).tcount 5 0x310 n

set_option maxRecDepth 8000 in
theorem witness_VectorPieces_common (q : BitVec 8 × Nat) (hq : q ∈ [(0x20#8, 1), (0x21, 1), (0x22, 13), (0x23, 1), (0x24, 1), (0x25, 13)]) :
    let r := small 0 0 0 q.1 1 0
    let s := piece5 1 r
    s.moving = true ∧ s.current 5 1 q.1.toNat = some (runOf 1 r) ∧ s.operandsReached 5 r = true ∧ s.drain 5 = s ∧ (s.tile 5).upkeep.injVector = false ∧ r.geoA.isSome = true ∧
    r.geoD.isSome = true ∧ ∃ ia pb pd s2 s3 ib gd, (vec5 r q.2).fetchesA r ia pb pd s2 ∧ s2.readLines 7 pb = (s3, .ok ib) ∧
      r.geoD = some gd ∧ (∀ out q, ∃ s4 m, s2.writeOut r gd pd .rne (tabulate 1 4 out) q = (s4, .ok m)) ∧
      (∀ out, ∃ s4 m, s2.write32 r gd pd (tabulate 1 4 out) 0 = (s4, .ok m)) ∧ ∀ st e, ∃ s4, s2.writeStats 7 pd [(st, e)] = (s4, .ok ()) := by
  fin_cases hq <;> refine ⟨?_, ?_, ?_, rfl, rfl, rfl, rfl, _, _, _, _, _, _, _, ⟨_, _, rfl, rfl⟩, rfl, rfl, fun _ _ => ⟨_, _, rfl⟩,
    fun _ => ⟨_, _, rfl⟩, fun _ _ => ⟨_, rfl⟩⟩ <;> decide +kernel

/-- The clauses of the statement apart: FP32 elements, a VSFN slot with a table, PARTIAL. -/
theorem witness_VectorPieces : (small 0 0 0 0x20 1 1).allInt = false ∧ (small 0 0 0 0x20 1 0).geoB.isSome = true ∧
    (small 0 0 0 0x25 1 1).variant.getLsbD 0 = true ∧
    ({ fullT [] { TileState.empty with upkeep := { Upkeep.empty with ftValid := [15] } } with tables := ⟨[(15, [0])], none⟩ } : State).table 5 15
      = some [0] := by decide +kernel

set_option maxRecDepth 8000 in
theorem witness_VectorIntegers :
    let r := small 11 11 11 0x20 1 5
    let s := piece5 1 r
    s.moving = true ∧ s.current 5 1 0x20 = some (runOf 1 r) ∧ s.operandsReached 5 r = true ∧ s.drain 5 = s ∧ (s.tile 5).upkeep.injVector = false ∧ r.geoA.isSome = true ∧ r.geoB.isSome = true ∧
    ∃ ia pb pd s2 s3 ib gd, (vec5 r 1).fetchesA r ia pb pd s2 ∧ s2.readLines 7 pb = (s3, .ok ib) ∧ r.geoD = some gd ∧
      ∀ words, ∃ s4, s3.writeLines 7 pd (gd.image [(words, [])]) = (s4, .ok ()) :=
  by refine ⟨?_, ?_, ?_, rfl, rfl, rfl, rfl, _, _, _, _, _, _, _, ⟨_, _, rfl, rfl⟩, rfl, rfl, fun _ => ⟨_, rfl⟩⟩ <;> decide +kernel

/-- A VROUTE piece of 1 token, 4 experts, 1 choice, capacity 2; a bearing table of 1 token for a VCOMB piece. -/
def routeRec : Rec := { small 0 0 11 0x26 1 0 with param := 65, b := ⟨3, 0⟩ }
def combRec : Rec := { small 0 11 0 0x27 1 0 with b := ⟨0, BitVec.ofNat 56 (2 ^ 36 + 5 * 2 ^ 26 + 0x1000)⟩ }
def table5 : FMap Byte := [(0x1004, 1), (0x1006, 1), (0x1008, 1), (0x100A, 1), (0x100B, 1)]

set_option maxRecDepth 8000 in
theorem witness_ExpertPieces_route : ((piece5 1 routeRec).current 5 1 0x26 = some (runOf 1 routeRec) ∧ (piece5 1 routeRec).operandsReached 5 routeRec = true ∧
    (piece5b table5 1 combRec).operandsReached 5 combRec = true) ∧ routeRec.geoA.isSome = true ∧
    routeRec.geoD.isSome = true ∧ ∀ k, k < 32 → ∃ ia pb pd s2, (((piece5 1 routeRec).someCycles 31).2.tcount 5 0x310 k).fetchesA routeRec ia pb pd s2 ∧
      ∃ s3, s2.writeBytes 7 routeRec.d 0 .write (bearing 0 4 2 1 (routeRec.rowsA ia)).1 = (s3, .ok ()) :=
  ⟨by decide +kernel, rfl, rfl, fun k hk => by
    have h : ∃ bs, (bearing 0 4 2 1 (routeRec.rowsA [[0, 0, 0, 0, 0, 0, 0, 0, 0, 0, 0, 0, 0, 0, 0, 0]])).1 = bs ∧ bs.length = 256 :=
      ⟨_, rfl, by decide +kernel⟩
    obtain ⟨bs, h1, h2⟩ := h
    refine ⟨[[0, 0, 0, 0, 0, 0, 0, 0, 0, 0, 0, 0, 0, 0, 0, 0]], [], [[⟨.sp 5 0x2000, 256, none, 0, 0⟩]],
      ((piece5 1 routeRec).someCycles 31).2.tcount 5 0x310 k, ?_⟩
    rw [h1]
    unfold State.writeBytes
    rw [h2]
    interval_cases k <;> exact ⟨⟨_, _, rfl, rfl⟩, _, rfl⟩⟩

set_option maxRecDepth 8000 in
theorem witness_ExpertPieces_comb : (piece5b table5 1 combRec).current 5 1 0x27 = some (runOf 1 combRec) ∧ ∃ ga gd, combRec.geoA = some ga ∧
    combRec.geoD = some gd ∧ ∀ k, k < 29 → ∃ pa pb pd s2 s3 recs, (((piece5b table5 1 combRec).someCycles 28).2.tcount 5 0x310 k).allParts combRec =
      (s2, .ok (pa, pb, pd)) ∧ s2.readBearing combRec ga = (s3, .ok (recs, 0)) ∧
      ∃ s4 rows, s3.combineRows 7 combRec.a ga combRec.param.toNat gd.cols recs = (s4, .ok rows) ∧
        ∃ s5 m, s4.write32 combRec gd pd rows 0 = (s5, .ok m) :=
  ⟨by decide +kernel, _, _, rfl, rfl, fun k hk => by
    interval_cases k <;> exact ⟨_, _, _, _, _, _, rfl, rfl, _, _, rfl, _, _, rfl⟩⟩

/-- A row of one element 1.0 whose products sum to zero, and to one. -/
theorem witness_MatrixChecksums :
    lineFails 1 [0x3F800000] [(.fin false 0 0, .fin false 0 0)] = true ∧
    lineFails 1 [0x3F800000] [(.fin false 1 0, .fin false 1 0)] = false := by decide +kernel

/-- Each vector piece, the last code among them, for a lane whose residue does not agree. -/
theorem witness_VectorResidues : ([0x20#8, 0x21, 0x22, 0x23, 0x24, 0x25].all fun c =>
    (piece5 1 (small 0 0 0 c 1 0)).current 5 1 c.toNat = some (runOf 1 (small 0 0 0 c 1 0))) = true ∧
    ((piece5 1 (small 0 0 0 0x25 1 0)).tile 5).upkeep.injVector = false := by decide +kernel

/-- Pilot and stow pieces of one row over scratchpad and page 0 of context 7: PLOAD, PGATH, SSTOW, SSCAT, SATOM. -/
def movers : List (Nat × Rec × (State → Rec → State × Except Status Formed)) :=
  [(2, { small 0 0 0 0x30 2 0 with a := ⟨1, 0⟩, b := ⟨3, 64⟩ }, State.formLoad),
   (2, { small 0 11 0 0x31 2 0 with a := ⟨1, 0⟩, cols := 0, param := 4 }, State.formGather),
   (6, { small 0 0 0 0x38 6 0 with d := ⟨1, 0⟩, b := ⟨3, 64⟩ }, State.formStow),
   (6, { small 0 11 0 0x39 6 0 with d := ⟨1, 0⟩, cols := 0, param := 4 }, State.formScatter),
   (6, { small 11 11 11 0x3A 6 0 with extent := 1, d := ⟨1, 0⟩ }, State.formAtom)]

set_option maxRecDepth 8000 in
theorem witness_MoverPieces (q) (hq : q ∈ movers) : (piece5 q.1 q.2.1).run? 5 q.1 0 = some (runOf q.1 q.2.1) ∧
    (piece5 q.1 q.2.1).moving = true ∧ (piece5 q.1 q.2.1).formReached 5 q.2.1 = true ∧
    ∃ s1 reqs zeros ev, q.2.2 ((piece5 q.1 q.2.1).drain 5) q.2.1 = (s1, .ok (reqs, zeros, ev)) ∧
      (s1.checkWrites 7 reqs).2 = .ok () ∧ zeros = [] ∧ reqs.length = 1 := by
  simp only [movers, List.mem_cons, List.not_mem_nil, or_false] at hq
  rcases hq with rfl | rfl | rfl | rfl | rfl <;> refine ⟨?_, ?_, ?_, _, _, _, _, rfl, rfl, rfl, rfl⟩ <;> decide +kernel

/-- A piece that reads memory, on a tile whose crossing is stopped. -/
theorem witness_MoverPieces_wait : ({ piece5 2 { small 0 0 0 0x30 2 0 with a := ⟨1, 0⟩, b := ⟨1, 64⟩ } with
    safety := { Safety.reset with stopped := [.own 5] } } : State).formReached 5 { small 0 0 0 0x30 2 0 with a := ⟨1, 0⟩, b := ⟨1, 64⟩ } = false := by
  decide +kernel

/-- The same pieces over a page that does not translate; a write to far memory while port F is down. -/
theorem witness_MoverPiecesFail : (movers.all fun q =>
    let x := { q.2.1 with a := if q.1 = 2 then ⟨1, 0x200000⟩ else q.2.1.a, d := if q.1 = 6 then ⟨1, 0x200000⟩ else q.2.1.d }
    (piece5 q.1 x).formReached 5 x && match (q.2.2 ((piece5 q.1 x).drain 5) x).2 with | .error st => st = 0x3012 | .ok _ => false) = true ∧
    (match ((far7 []).checkWrites 7 [⟨0, 0, .write, [⟨.far 3 0, 4, some 0x200000, 0, 0⟩], [0, 0, 0, 0], [], none, false, none, false⟩]).2 with
      | .error st => decide (st = 0x6041) | .ok _ => false) = true := by decide +kernel

/-- A request of such a piece, issued: 64 bytes of page 0, or 4 for an atomic. -/
def askOf (k : ReqKind) : Req :=
  match k with
  | .read => ⟨1, 0, .read, [⟨.pa 0x400000, 64, some 0x200000, 0, 0⟩], [], [(0, 0, 512)], some 0, false, none, false⟩
  | .write => ⟨1, 0, .write, [⟨.pa 0x400000, 64, some 0x200000, 0, 0⟩], List.replicate 64 0, [], some 0, false, none, false⟩
  | .atomic => ⟨1, 0, .atomic, [⟨.pa 0x400000, 4, some 0x200000, 0, 0⟩], [1, 0, 0, 0], [], some 0, false, none, false⟩
def moverRun (code : BitVec 8) (k : ReqKind) : Run :=
  { runOf 6 { small 11 11 11 code 6 0 with extent := 1, d := if k = .read then sp5 0x2000 else ⟨1, 0⟩ } with
    formed := true, reqs := [askOf k] }
def asking (code : BitVec 8) (k : ReqKind) : State := work7 { Work.empty with running := [moverRun code k], nextSeq := 9 }

theorem witness_MoverRequestsEnd_common (k) (hk : k ∈ [ReqKind.read, .write, .atomic]) : (asking 0x3A k).moving = true ∧
    ((asking 0x3A k).tile 5).work.issuedReqs 6 = [(moverRun 0x3A k, askOf k)] ∧
    (asking 0x3A k).req? 5 3 1 = some (moverRun 0x3A k, askOf k) ∧ (askOf k).node? = none ∧
    (asking 0x3A k).partsReached 5 (askOf k).parts = true ∧ (askOf k).tier? = some 0 ∧ (asking 0x3A k).ageOf (askOf k) < timeoutOf 0 ∧
    (asking 0x3A k).nextWrite 5 = (if k = .read then none else some (moverRun 0x3A k, askOf k)) ∧ (askOf k).kind = k := by
  fin_cases hk <;> decide +kernel

set_option maxRecDepth 8000 in
theorem witness_MoverRequestsEnd :
    (∃ s1 data, (asking 0x3A .read).readParts 7 false (askOf .read).parts = (s1, .ok data)) ∧
    (moverRun 0x30 .write).rowUnit (askOf .write) = false ∧
    (∃ s1, (asking 0x30 .write).writeParts 7 .write (askOf .write).parts (askOf .write).data = (s1, .ok ())) ∧
    (moverRun 0x39 .write).rowUnit (askOf .write) = true ∧
    (∃ s1 ps s2, (asking 0x39 .write).rowParts 7 ((moverRun 0x39 .write).rowReqs (askOf .write)) = (s1, .ok ps) ∧
      s1.writeParts 7 .write ps (((moverRun 0x39 .write).rowReqs (askOf .write)).flatMap (·.data)) = (s2, .ok ())) ∧
    (askOf .atomic).parts.findSome? ((asking 0x3A .atomic).refuseWrite 7) = none ∧
    ∃ s1 data s2 s3 ps s4, (((askOf .atomic).parts.foldl (fun acc p => match p.place with | .pa a => acc.writeBack (a / 64) | _ => acc)
        (asking 0x3A .atomic)).touch 7 .atomic (askOf .atomic).parts).fetchParts 7 true (askOf .atomic).parts = (s1, .ok data) ∧
      s1.storeParts 7 (askOf .atomic).parts [1, 0, 0, 0] = (s2, .ok ()) ∧
      ((s2.answerReqs 5 3 (fun z => z.issued.isSome && z.seq = 1) (.ok data)).onRun 5 3 fun y => { y with reqs := [] }).operandParts 7 (sp5 0x1000) 0 4
        .write = (s3, .ok ps) ∧ allHere [ps] = true ∧ s3.writeParts 7 .write ps data = (s4, .ok ()) :=
  ⟨⟨_, _, rfl⟩, rfl, ⟨_, rfl⟩, rfl, ⟨_, _, _, rfl, rfl⟩, rfl, _, _, _, _, _, _, rfl, rfl, rfl, rfl, rfl⟩

/-- A piece whose requests have ended, with 8 bytes to land at an offset of its scratchpad whose word is sound, and where it is not. -/
def landing5 (off : Nat) (st : Status) : State :=
  let s := piece5 2 (small 0 0 0 0x30 2 0)
  { s with tiles := [(5, { s.tile 5 with
    sp := { Scratch.empty with bad := [(0x402, true)] }
    work := { Work.empty with running := [{ runOf 2 (small 0 0 0 0x30 2 0) with
      formed := true, status := st, got := [([(off, 0, 4)], [1, 2, 3, 4])] }] } })] }

theorem witness_MoverPiecesLand (st : Status) (h : st ∈ [0, 0x5020#16]) :
    (∃ s2, (((landing5 0 st).onRun 5 3 fun r => { r with got := [] }).drain 5).landGot 7 (sp5 0x2000) [([(0, 0, 4)], [1, 2, 3, 4])] = (s2, .ok ())) ∧
    (∃ s2, (((landing5 0x14 st).onRun 5 3 fun r => { r with got := [] }).drain 5).landGot 7 (sp5 0x2000) [([(0x14, 0, 4)], [1, 2, 3, 4])] =
      (s2, .error 0x5001)) ∧ (st = 0 ∨ landsAnyway st = true) ∧ landsAnyway 0x5060 = false := by
  fin_cases h <;> exact ⟨⟨_, rfl⟩, ⟨_, rfl⟩, by decide, by decide⟩

/-- A request not yet issued: to Near memory, and to far memory while port F is down; its page translates, or no more. -/
theorem witness_RequestsAreIssued :
    (∃ s1 ps, (asking 0x3A .read).freshParts 7 .read (askOf .read).parts = (s1, .ok ps) ∧ ({ askOf .read with parts := ps } : Req).far = false ∧
      ({ askOf .read with parts := ps } : Req).node? = none) ∧
    (∃ s1 ps, (far7 []).freshParts 7 .read [⟨.far 3 0, 64, some 0x200000, 0, 0⟩] = (s1, .ok ps) ∧ ({ askOf .read with parts := ps } : Req).far = true ∧
      s1.farUp = false) ∧
    ∃ s1, (far7 []).freshParts 7 .atomic [⟨.far 3 0, 64, some 0x200008, 0, 1⟩] = (s1, .error 0x3012) := by
  refine ⟨⟨_, _, rfl, ?_, ?_⟩, ⟨_, _, rfl, ?_, ?_⟩, _, rfl⟩ <;> decide +kernel

/-- The time limit of the Near tier exactly, and one nanosecond less; an entry of a wrong parity; a tile whose way to memory is stopped;
a tile without requests, one of whose requests may still be answered. -/
theorem witness_MoverRequestsFail :
    ({ asking 0x3A .read with chron := 1000000 } : State).ageOf (askOf .read) = timeoutOf 0 ∧
    ({ asking 0x3A .read with chron := 999999 } : State).ageOf (askOf .read) < timeoutOf 0 ∧
    ((asking 0x3A .read).meet 5 7 false .parity .read (askOf .read).parts).2 = some 0x3012 ∧
    ({ asking 0x3A .read with safety := { (asking 0x3A .read).safety with stopped := [.own 5] } } : State).partsReached 5 (askOf .read).parts = false ∧
    ((work7 .empty).tile 5).work.issuedReqs 6 = [] ∧ ((work7 .empty).tile 5).upkeep.unanswered = 0 ∧
    (((work7 .empty).onUpkeep 5 fun u => { u with unanswered := 1 }).tile 5).upkeep.unanswered ≠ 0 ∧
    tst ((asking 0x3A .read).reg (mtBase + 0x158)) 63 = false := by
  decide +kernel

/-- A group of tiles 5 and 9 of this node, tile 5 at position 0, instance 4; its descriptor lies at B. -/
def group5 : FMap Byte :=
  (List.range 16).zip (bytesOf 8 (2 + 4 * 2 ^ 32) ++ bytesOf 4 (5 * 2 ^ 12) ++ bytesOf 4 (9 * 2 ^ 12)) |>.map fun p => (0x1000 + p.1, p.2)

def collRec (code : BitVec 8) : Rec := small 0 11 0 code 8 0

set_option maxRecDepth 8000 in
theorem witness_CollectivePieces_begin (code) (hc : code ∈ [0x40#8, 0x41, 0x42]) :
    (piece5b group5 8 (collRec code)).run? 5 8 0 = some (runOf 8 (collRec code)) ∧ (piece5b group5 8 (collRec code)).moving = true ∧
    ((piece5b group5 8 (collRec code)).tile 5).colls = [] ∧
    (piece5b group5 8 (collRec code)).partsReached 5 ((piece5b group5 8 (collRec code)).ownParts 7 (collRec code).a (collRec code).geoA .read) = true ∧
    ∃ s1 g y data, ((piece5b group5 8 (collRec code)).drain 5).beginColl 5 (runOf 8 (collRec code)) = (s1, .ok (g, y, data)) ∧
      (s1.tile 5).early = [] ∧ (∀ p ∈ g.members, p.2 = s1.node) := by
  fin_cases hc <;> refine ⟨?_, ?_, ?_, ?_, _, _, _, _, rfl, rfl, ?_⟩ <;> decide +kernel

/-- A collective of tiles 5 and 9, and one of tiles 5, 9 and 10, that tile 5 has begun; the contribution of position 1. -/
def coll5 (n : Nat) : Coll :=
  ⟨collRec 0x40, 3, 4, 0, (List.range n).map fun i => (if i = 0 then 5 else 8 + i, 0), [(0, List.replicate 16 0)], [[⟨.sp 5 0x2000, 16, none, 0, 0⟩]]⟩
def contribution1 : Contribution := ⟨3, 4, 1, List.replicate 16 0⟩
def inColl (n : Nat) : State :=
  st7 [] { TileState.empty with
    colls := [coll5 n]
    work := { Work.empty with
      running := [runOf 8 (collRec 0x40)] } } ctx7

set_option maxRecDepth 8000 in
theorem witness_CollectivePieces_join : (coll5 2).takes contribution1 = true ∧ (coll5 3).takes contribution1 = true ∧
    (FMap.put [] (coll5 3).got 1 contribution1.data).length < (coll5 3).members.length ∧
    (coll5 2).members.length ≤ (FMap.put [] (coll5 2).got 1 contribution1.data).length ∧
    (inColl 2).run? 5 8 0 = some (runOf 8 (collRec 0x40)) ∧ (coll5 2).ord = (runOf 8 (collRec 0x40)).ord ∧
    ((inColl 2).setColl 5 { coll5 2 with got := FMap.put [] (coll5 2).got 1 contribution1.data }).partsReached 5 (coll5 2).parts.flatten = true ∧
    (inColl 2).faultedTile 5 = false ∧ ((inColl 2).onUpkeep 5 fun u => { u with state := 3 }).faultedTile 5 = true ∧
    (inColl 2).pathClear 9 5 = true ∧ (inColl 2).landedContribution contribution1 = none ∧
    ∃ ga gd s2 m, (collRec 0x40).geoA = some ga ∧ (collRec 0x40).geoD = some gd ∧
      ((((inColl 2).setColl 5 { coll5 2 with got := FMap.put [] (coll5 2).got 1 contribution1.data }).drain 5).dropColl 5 3).collResult
        { coll5 2 with got := FMap.put [] (coll5 2).got 1 contribution1.data } ga gd = (s2, .ok m) :=
  by refine ⟨?_, ?_, ?_, ?_, ?_, rfl, ?_, ?_, ?_, ?_, ?_, _, _, _, _, rfl, rfl, rfl⟩ <;> decide +kernel

/-- The request of node 9, tile 1, that carries a contribution of 16 bytes, landed. -/
theorem witness_CollectivePieces_landed :
    let s := { inColl 2 with light := { (inColl 2).light with
      forwards := [⟨0, ⟨6, 0, 0, 9, 1, 3, 0, 5, 16, 0, 0, List.replicate 16 0⟩, 7, ⟨1, 0⟩, false⟩] } }
    ((s.landedContribution contribution1).map fun p => p.2.length) = some 1 := by decide +kernel

/-! ### Signals, notices, reports, flushes, commits -/

/-- Tile 5 with a counter set of context 7, and a signal on its way there. -/
def signal5 : State :=
  { work7 { Work.empty with sets := [⟨7, 0, false, [(9, 4)]⟩] } with
    mail := { Mail.empty with signals := [⟨7, 1, 5, 5, 9, 2, 5⟩] } }

theorem witness_SignalsAdd : signal5.moving = true ∧ signal5.pathClear 5 5 = true ∧ ((signal5.tile 5).work.set? 7).isSome = true := by decide +kernel

/-- The counter of `signal5`, 4, gains the increment 2. -/
theorem test_signal_adds : (after (.signalApply 5) signal5).counter 5 7 9 = 6 := by decide +kernel

def report7 (st : Status) (tag : BitVec 2) : Report := ⟨5, 7, tag, st, 0, 5, 0, true, (0, 0)⟩
def tally7 : Tally := { (step1 .running).tally with issued := 3, received := 1, tiles := [5, 9] }
def limit1 : Waypoint := { (step1 .running).wp with limit := 1 }
/-- Step 1 of context 7, of which tiles 5 and 9 have pieces, with the messages `m`. -/
def mail7 (ph : Phase) (m : Mail) : State :=
  { step7 { step1 ph with tally := { tally7 with awaiting := [5] }, wp := limit1 } (coreT { Slot.empty with ctx := 7, stepno := 1 }) with mail := m }

theorem witness_NoticesCount : (mail7 .running { Mail.empty with notices := [report7 0 1] }).moving = true ∧
    (mail7 .running .empty).pathClear 5 5 = true ∧ ((mail7 .running .empty).tagStep? 7 1).map (·.stepno) = some 1 ∧
    (mail7 .running .empty).tagStep? 7 2 = none ∧ (report7 0 1).home = 5 := by decide +kernel

/-- The lowest and highest statuses of the classes. -/
theorem witness_ReportsActByClass : (mail7 .running { Mail.empty with reports := [report7 0x1003 1] }).moving = true ∧
    (mail7 .running .empty).pathClear 5 5 = true ∧
    (mail7 .running .empty).tagStep? 7 1 = some { step1 .running with tally := { tally7 with awaiting := [5] }, wp := limit1 } ∧
    (mail7 .running .empty).step? 7 1 = some { step1 .running with tally := { tally7 with awaiting := [5] }, wp := limit1 } ∧
    (mail7 .running .empty).laterSteps 7 1 = [] ∧ tally7.tiles ≠ [] ∧ tally7.replays < limit1.limit ∧
    ([0x1000#16, 0x1FFF].all fun v => decide (v.toNat / 4096 = 1)) = true ∧
    ([0x4000#16, 0x4FFF, 0x7000, 0x8FFF].all fun v => decide (v.toNat / 4096 = 4 ∨ v.toNat / 4096 = 7 ∨ v.toNat / 4096 = 8)) = true ∧
    ([0x5000#16, 0x500F, 0x5011, 0x6FFF].all fun v => decide ((v.toNat / 4096 = 5 ∨ v.toNat / 4096 = 6) ∧ v ≠ 0x5010 ∧ v ≠ 0x5071)) = true := by
  decide +kernel

theorem witness_FlushesDiscard : (mail7 (.flushing true) { Mail.empty with flushes := [⟨5, 7, 1, true⟩] }).moving = true ∧
    (mail7 (.flushing true) .empty).fromHome 7 5 = true ∧ ((mail7 (.flushing true) .empty).tagStep? 7 1).isSome = true ∧
    ((work7 { Work.empty with sets := [⟨7, 0, false, []⟩] }).tile 5 |>.work.set? 7).isSome = true := by decide +kernel

/-- The last confirmation, and one of two. -/
theorem witness_ConfirmationsEndTheFlush :
    (mail7 (.flushing false) { Mail.empty with confirms := [⟨5, 7, 1, false⟩] }).moving = true ∧
    (mail7 (.flushing false) .empty).homeOf 7 = some (5, 2) ∧ (mail7 (.flushing false) .empty).pathClear 5 5 = true ∧
    (mail7 (.flushing false) .empty).confirmed ⟨5, 7, 1, false⟩ = true ∧
    ((mail7 (.flushing false) .empty).tagStep? 7 1).map (fun p => (p.phase, p.tally.awaiting)) = some (.flushing false, [5]) ∧
    ([5].erase 5 : List Nat) = [] ∧ ([5, 9].erase 5 : List Nat) ≠ [] := by decide +kernel

/-- Norm-watch entry 2 of tile 5 is context 7's, with a pending bank of step 1. -/
def commit5 : State :=
  { st7 [(tileBase 5 + 0x460, 0x00070000)] { TileState.empty with work := { Work.empty with banks := [⟨2, 1, 1, 2, 3, 4, 5, 0, 8⟩] } } ctx7 with
    mail := { Mail.empty with commits := [⟨5, 7, 1, true⟩] } }

theorem witness_NormWatchCommits : commit5.moving = true ∧ commit5.fromHome 7 5 = true ∧
    ((commit5.tile 5).work.banks.filter fun y => y.tag = 1 && bits (commit5.nwCfg 5 y.entry) 16 12 = 7) = [⟨2, 1, 1, 2, 3, 4, 5, 0, 8⟩] ∧
    ([(0x10, 1), (0x18, 2), (0x20, 3), (0x28, 4)].all fun q => decide (bits (commit5.treg 5 (0x400 + 0x30 * 2 + q.1)) 0 48 + q.2 < 2 ^ 48)) = true := by
  decide +kernel

/-! ### Sweeps, records, steps, KV operations, Lodestar -/

/-- Context 7 with its ring, steps and pool as given, the sweep's link and budget in place. -/
def ring7 (r : Ring) (ps : List Step) (pool : Option Pool) (host : FMap Byte) : State :=
  let s := st7 [] .empty { ctx7 with ring := r, steps := ps, cr := { cr7 with pool := pool } }
  { s with
    mem := { s.mem with
      host := host } }
def r0 : Ring := ctx7.ring
def plain7 : State := ring7 r0 [] none []

theorem witness_SweepsReadTails : FMap.sorted plain7.ctxs = true ∧ plain7.sweeps = true ∧ plain7.lineDue 0 = true ∧ plain7.lineFirst 0 = true ∧ plain7.hostReadFree = true ∧
    plain7.refusesAny pf0Space (plain7.reg 0x18).toNat 64 = false ∧ ({ ctx7 with ring := r0 } : Ctx).swept = true ∧
    (0 - r0.fetched).toNat ≤ 2 ^ cr7.ringLog := by decide +kernel

/-- The 32nd unchanged read in a row doubles the interval, and 64 µs stays 64 µs (R249). -/
theorem test_sweep_doubles : (({ r0 with unchanged := 31, interval := 8 } : Ring).sweep 0).interval = 16 ∧
    (({ r0 with unchanged := 31, interval := 64 } : Ring).sweep 0).interval = 64 ∧
    (({ r0 with unchanged := 30, interval := 8 } : Ring).sweep 0).interval = 8 ∧
    (({ r0 with unchanged := 31, interval := 64 } : Ring).sweep 1).interval = 2 := by decide

theorem witness_SweepStretch : plain7.sweeps = true ∧ plain7.due 14 64000 = true ∧ plain7.budget < plain7.demand ∧ (full []).demand ≤ (full []).budget := by
  decide +kernel

/-- A ring with 3 records announced, a fetch of 3 in progress, and the eighth failure next. -/
theorem witness_RecordsAreFetched : (ring7 { r0 with tail := 3 } [] none []).sweeps = true ∧
    (ring7 { r0 with tail := 3 } [] none []).hostReadFree = true ∧
    ({ ctx7 with ring := { r0 with tail := 3 } } : Ctx).swept = true ∧ (3 - r0.fetched : BitVec 32).toNat ≤ 2 ^ cr7.ringLog ∧
    (ring7 { r0 with tail := 3, fetching := some 3 } [] none []).moving = true ∧ plain7.linkUp = true ∧
    plain7.refusesAny (hostSpace 0 9) ((0x800000010000 + 64 * (0 % 2 ^ 4)) % 2 ^ 47) (64 * 3) = false ∧
    (7 ≤ ({ r0 with fails := 7 } : Ring).fails) ∧ ctx7.st ≠ .faulted := by decide +kernel

/-- Record `ws` at the front of context 7's records, index 4. -/
def front7 (ws : List Word) (pool : Option Pool) (near : FMap Byte) : State :=
  let s := ring7 { r0 with waiting := [(4, ws)] } [] pool []
  { s with
    mem := { s.mem with
      near := s.mem.near ++ near } }

theorem witness_StepsAreAdmitted : FMap.sorted (front7 words1 none []).ctxs = true ∧
    ((front7 words1 none []).nextRecord 7).map (fun q => (q.2, q.1.home)) = some ((4, words1), some (5, 2)) ∧
    recOk words1 = true ∧ recType words1 = 1 ∧ (front7 words1 none []).sequences ≤ 8192 ∧ recSeqs words1 = 0 ∧ recChart words1 = 0xFF ∧
    recFallback words1 = 0 ∧ bits ((front7 words1 none []).treg 5 (0x900 + 8 * 2)) 0 48 = 0 ∧
    recType (0x0100000000000001#64 :: words1.drop 1) = 1 ∧ recOk (0x0100000000000001#64 :: words1.drop 1) = false ∧
    (∃ x i s2 a s3, (front7 words1 none []).nextRecord 7 = some (x, i, words1) ∧
      (((front7 words1 none []).tookRecord 7).onCtx 7 fun x =>
        { x with nextStep := x.nextStep + 1, steps := x.steps ++ [newStep x.nextStep i words1 ((front7 words1 none []).resolved x words1)] }).admitChecks 7 x (5, 2) words1 = (s2, .ok a) ∧
      s2.applyAdmission 7 x x.nextStep words1 a = (s3, .ok ())) := by
  refine ⟨?_, ?_, ?_, ?_, ?_, by decide +kernel, ?_, ?_, ?_, ?_, ?_, ⟨_, _, _, _, _, rfl, rfl, rfl⟩⟩ <;> decide +kernel

/-- Step 1 finished, its completion record 64 bytes past the status line; and a step that still runs. -/
def done7 (ph : Phase) : State := ring7 r0 [{ step1 ph with ended := true }] none []

theorem witness_StepsComplete : (done7 .complete).moving = true ∧ ((done7 .complete).ctx? 7).map (·.destroying) = some false ∧
    ({ step1 .complete with ended := true } : Step).finished = true ∧ (step1 .running).finished = false ∧
    ({ step1 .complete with ended := true } : Step).overdue 0 = false ∧
    (step1 .complete).seqs = [] ∧ (step1 .complete).chart = none ∧ (done7 .complete).linkUp = true ∧
    (0 : Nat) ∉ (done7 .complete).outside.ats ∧ (done7 .complete).refusesAny (hostSpace 0 9) 0x20000 64 = false ∧ (0x20000 + 64 ≤ 0x30000) := by
  decide +kernel

/-- A pool of 4 pages and 2 slots with its metadata in the mapped page. -/
def pool2 : Pool := ⟨1, 0x10000, 4, 0x1000, 2, 4⟩
def kvWords (op source target n : Nat) : List Word := [0x0200000000000000, pack [(56, op), (24, source), (0, target)], BitVec.ofNat 64 n, 0, 0, 0, 0, 0]
/-- Slot 0's and slot 1's length entries. -/
def entries (a b : Word) : FMap Byte := put64 0x401040 a ++ put64 0x401060 b

def fork7 : State := front7 (kvWords 2 0 1 5) pool2 (entries (2 ^ 62 + 2 ^ 24 + 5) 0 ++ put64 (0x400000 + 0x1000 + pool2.lists + 8) 0x10000)
def open7 : State := (front7 (kvWords 1 0 0 0) pool2 []).tookRecord 7
def cancel7 (e : Word) : State := (front7 (kvWords 3 0 0 0) pool2 (entries e 0)).tookRecord 7

/-- OPEN of slot 0, FORK of slot 0's 5 positions to slot 1, CANCEL of an In-step slot, of an Open one without pages; slots at the last
legal number and past it; the edges of the illegal operations. -/
theorem witness_RecordsThatAreNoStep :
    (∃ s2 s3 s4 s5 e v, open7.kvEntry 7 pool2 0 = (s2, .ok e) ∧ kvState e = 0 ∧ s2.devGet 7 (s2.fallbackAt 7 0) 1 = (s3, .ok v) ∧
      s3.devPut 7 (pool2.entryAt 0) 8 (2 ^ 62) = (s4, .ok ()) ∧ s4.putFallback 7 false 0 v = (s5, .ok ())) ∧
    (∃ s2, (fork7.tookRecord 7).kvForkSlot 7 pool2 0 1 5 = (s2, .ok ())) ∧
    (∃ s2 s3 e, (cancel7 (2 ^ 63)).kvEntry 7 pool2 0 = (s2, .ok e) ∧ kvState e = 2 ∧
      s2.devPut 7 (pool2.entryAt 0) 8 (2 ^ 63 + 2 ^ 61 + kvPages e * 2 ^ 24 + kvLength e) = (s3, .ok ())) ∧
    (∃ s2, (cancel7 (2 ^ 62)).kvCancelSlot 7 pool2 0 = (s2, .ok ())) := by
  refine ⟨⟨_, _, _, _, 0, 0, ends_ok _ _ ?_, ?_, ends_ok _ _ ?_, ends_ok _ _ ?_, ends_ok _ _ ?_⟩, ⟨_, ends_ok _ _ ?_⟩, ⟨_, _, 2 ^ 63, ends_ok _ _ ?_, ?_, ends_ok _ _ ?_⟩,
    ⟨_, ends_ok _ _ ?_⟩⟩ <;> decide +kernel

/-- The block of slot 0's fall-back bit is lost, and that of its entry is not. -/
def open7bad : State := { open7 with mem := { open7.mem with bad := [((0x400000 + open7.fallbackAt 7 0) / 64, true)] } }
theorem witness_RecordsThatAreNoStep_bad : ∃ s2, open7bad.kvEntry 7 pool2 0 = (s2, .ok 0) ∧
    (match (s2.devGet 7 (s2.fallbackAt 7 0) 1).2 with | .error st => decide (st = 0x5020) | .ok _ => false) = true := by
  refine ⟨_, ends_ok _ _ ?_, ?_⟩ <;> decide +kernel

theorem witness_RecordsThatAreNoStep_front : kvLegal pool2 (kvWords 1 0 1 0) = true ∧ kvLegal pool2 (kvWords 2 0 1 5) = true ∧ kvLegal pool2 (kvWords 3 0 0 0) = true ∧
    kvLegal pool2 (kvWords 1 0 2 0) = false ∧ kvLegal pool2 (kvWords 0 0 0 0) = false ∧ kvLegal pool2 (kvWords 4 0 0 0) = false ∧
    ((front7 (kvWords 1 0 0 0) pool2 []).nextRecord 7).map (fun q => (q.2.1, q.1.cr.pool)) = some (4, some pool2) ∧
    recType (kvWords 1 0 0 0) = 2 ∧ kvOp (kvWords 4 0 0 0) = 4 ∧ recType [0x0300000000000000#64] = 3 := by decide +kernel

/-- A watched step: deadline 5 µs, grace 3 µs, 10 of counter 9 in all, fall-back entry `0x2000`; `u` a unit's time, nothing done. -/
def watchWords : List Word := [0x010009000A000300, 0x1000, 0, 5000, 0x2000, 0, 0xFF00000000000000, 0]
def stepW (fb : Bool) : Step :=
  { step1 .running with
    words := watchWords, codeStart := some 1, wp := limit1, tally := tally7, watch := ⟨0, 1000, 0, fb, false⟩ }
def watched7 (u chron : Word) (fb : Bool) : State :=
  { st7 [(tileBase 5 + 0xA08 + 0x20 * 2, u)] .empty { ctx7 with steps := [stepW fb] } with chron := chron }

/-- At 1 µs: with 1 µs a unit a miss lies ahead; with 0.125 µs none does; a step that has fallen back does not fall again. -/
theorem witness_LodestarEvaluates : (watched7 0x3F800000 1000 false).moving = true ∧ (watched7 0x3F800000 1000 false).homeOf 7 = some (5, 2) ∧
    (watched7 0x3F800000 1000 false).evaluated 7 = some (stepW false) ∧ (watched7 0x3F800000 1000 true).evaluated 7 = some (stepW true) ∧
    missAhead 1000 0 5000 10 0 (microUnits 0x3F800000) 0 = true ∧ missAhead 1000 0 5000 10 0 (microUnits 0x3E000000) 0 = false ∧
    ((watched7 0x3F800000 1000 false).treg 5 (0xA08 + 0x20 * 2)).setWidth 32 = 0x3F800000#32 ∧ (stepW false).phase = .running ∧
    recFallback watchWords ≠ 0 ∧ (stepW false).watch.fallback = false ∧ (stepW false).tally.replays < (stepW false).wp.limit ∧
    (watched7 0x3F800000 1000 false).step? 7 1 = some (stepW false) ∧ (stepW false).seqs = [] ∧ (stepW false).tally.tiles ≠ [] ∧
    (watched7 0x3F800000 1000 false).laterSteps 7 1 = [] := by decide +kernel

/-- A step that is flushed or restored for a replay falls back with it, whatever ended its run. -/
theorem witness_LodestarEvaluates_replayed : ([Phase.flushing true, .restoring].all fun ph =>
    let p := { stepW false with phase := ph }
    let s := { st7 [(tileBase 5 + 0xA08 + 0x20 * 2, 0x3F800000)] .empty { ctx7 with steps := [p] } with chron := 1000 }
    p.phase.movable && s.evaluated 7 = some p && s.step? 7 1 = some p) = true ∧ Phase.complete.movable = false := by decide +kernel

/-- A finished step may still complete at the end of its grace, and not a nanosecond later (R276). -/
theorem witness_overdue_steps :
    let p := { stepW false with ended := true, tally := { tally7 with received := 3 } }
    p.overdue 8001 = true ∧ p.overdue 8000 = false ∧ p.finished = true := by decide +kernel

/-- At the end of the grace, deadline + 3 µs, and a nanosecond before it; a step that is flushed, or restored, for a replay. -/
theorem witness_MissedDeadlinesAbort : (watched7 0 8000 false).missed 7 = some (stepW false) ∧ (watched7 0 7999 false).missed 7 = none ∧
    (watched7 0 8000 false).step? 7 1 = some (stepW false) ∧ (watched7 0 8000 false).laterSteps 7 1 = [] ∧ (watched7 0 8000 false).moving = true ∧
    ([Phase.flushing true, .restoring].all fun ph =>
      let p := { stepW false with phase := ph }
      let s := { st7 [] .empty { ctx7 with steps := [p] } with chron := 8000 }
      s.missed 7 = some p && s.step? 7 1 = some p) = true := by
  decide +kernel

/-! ### A tile as PF0 serves it -/

/-- Unchanged partition fields; a queued command; a region of context 9; no region. -/
theorem witness_TileControl : takes [] (tileBase 5 + 0x008) 1 ∧ takes [(tileBase 5 + 0x100, 0x10000009)] (tileBase 5 + 0x008) 0x1E ∧
    bits (1 : Word) 1 13 = bits ((full []).reg (tileBase 5 + 0x008)) 1 13 ∧ bits (0x1E : Word) 1 13 ≠ bits ((full []).reg (tileBase 5 + 0x008)) 1 13 ∧
    ((work7 { Work.empty with queues := [(0, [⟨tok, 3, true⟩])] }).tile 5).work.queue 0 ≠ [] ∧
    ((full []).tile 5).work.queues = [] ∧ (0x1E : Word).getLsbD 1 = true ∧
    ((full [(tileBase 5 + 0x100, 0x10000009)]).treg 5 0x100).getLsbD 28 = true ∧
    bits ((full [(tileBase 5 + 0x100, 0x10000009)]).treg 5 0x100) 0 12 ≠ bits (0x1E : Word) 2 12 ∧ (0x0 : Word).getLsbD 1 = false := by
  refine ⟨?_, ?_, ?_⟩
  all_goals first | exact takes_full _ _ _ (by decide) | decide +kernel

/-- A Faulted tile, and one in its self-test, keep HOLD. -/
theorem witness_TileControl_keeps : ((full []).makeFaulted 5).keepsHold 5 = true ∧ (full []).keepsHold 5 = false ∧
    ({ full [] with start := { (full []).start with tileReset := some 5 } } : State).keepsHold 5 = true := by decide +kernel

/-- Entry words `valid, count, base, context`. -/
def region (valid count base c : Nat) : Word := pack [(28, valid), (20, count), (12, base), (0, c)]

/-- Ranges that end at granule 191 and past it, no granule, an overlap of one granule with entry 1 and none. -/
theorem witness_RegionEntries : takes [] (tileBase 5 + 0x100) (region 1 2 190 7) ∧ takes [] (tileBase 5 + 0x100) (region 0 0 0 0) ∧
    (region 1 2 190 7).getLsbD 28 = true ∧ (190 + 2 ≤ 192) ∧ 192 < 191 + 2 ∧ bits (region 1 0 0 7) 20 8 = 0 ∧
    (let e := (full [(tileBase 5 + 0x108, region 1 4 8 9)]).treg 5 0x108
     e.getLsbD 28 = true ∧ bits e 20 8 ≠ 0 ∧ (11 < bits e 12 8 + bits e 20 8 ∧ bits e 12 8 < 11 + 1) ∧ ¬ (12 < bits e 12 8 + bits e 20 8) ∧
       ¬ bits e 12 8 < 7 + 1) ∧ (region 0 0 0 0).getLsbD 28 = false ∧
    FMap.get none ({ Scratch.empty with owners := [(190, some 9)] } : Scratch).owners 190 = some 9 ∧ (9 : Nat) ≠ 7 := by
  refine ⟨?_, ?_, ?_⟩
  all_goals first | exact takes_full _ _ _ (by decide) | decide +kernel

theorem witness_ZeroingEnds :
    let s := fullT [(tileBase 5 + 0x100, region 3 2 8 7)] { TileState.empty with sp := { Scratch.empty with zeroing := [8] } }
    s.moving = true ∧ (s.treg 5 0x100).getLsbD 29 = true ∧ (s.treg 5 0x100).getLsbD 28 = true ∧ 8 ∈ (s.tile 5).sp.zeroing ∧ 9 ∉ (s.tile 5).sp.zeroing ∧
    bits (s.treg 5 0x100) 12 8 ≤ 8 ∧ 8 < bits (s.treg 5 0x100) 12 8 + bits (s.treg 5 0x100) 20 8 := by decide +kernel

/-- Norm-watch entries: word, valid bit 63, key bits 27 to 0, bits 49 to 44. -/
theorem witness_TileService :
    ((0 < 0x600000 ∧ 0x5FFFFF < 0x600000) ∧ (full []).moving = true ∧ FMap.get false ((full []).tile 5).sp.bad 0x5FFFFF = false ∧
      ((full []).treg 5 0x018).getLsbD 1 = false) ∧
    takes [] (tileBase 5 + 0x3F8) 1 ∧ takes [] (tileBase 5 + 0x808) 1 ∧ takes [] (tileBase 5 + 0x898) 1 ∧ takes [] (tileBase 5 + 0xA00) 100 ∧
    (fullT [] { TileState.empty with flushing := true, slots := [(2, { Slot.empty with dirty := [0x4000] })] }).moving = true ∧
    takes [(tileBase 5 + 0x430, 0x8000100000070001)] (tileBase 5 + 0x400) 0x8000100000070001 ∧
    ((full [(tileBase 5 + 0x430, 0x8000100000070001)]).treg 5 0x430).getLsbD 63 = true ∧
    takes [] (tileBase 5 + 0x400) 0x8000100000070001 ∧ bits (0x8000100000070001 : Word) 44 6 ≠ 0 ∧
    ((List.range 16).all fun i => ! ((full []).treg 5 (0x400 + 0x30 * i)).getLsbD 63) = true ∧
    (bits (0x8000000000070001 : Word) 44 6 = 0 ∧ (0x8000000000070001 : Word).getLsbD 63 = true) ∧
    takes [] (tileBase 5 + 0x720) 0x18001 ∧ (0x18001 : Word).getLsbD 15 = true ∧ (0x18001 : Word).getLsbD 0 = true ∧ (0x18001 : Word).getLsbD 16 = true := by
  refine ⟨?_, ?_, ?_, ?_, ?_, ?_, takes_full _ _ _ (by decide), ?_, ?_, ?_, ?_, ?_, ?_, ?_⟩
  all_goals first | exact takes_full _ _ _ (by decide) | decide +kernel

/-- The ports of tile 19, east of it the package's edge; row 3 of tile 60. -/
theorem witness_SeamLinkResends : (full []).moving = true ∧ 0 ∉ ((full []).tile 5).upkeep.linkDown ∧ seamPort 5 0 = true ∧ seamPort 19 0 = false ∧
    seamPort 60 2 = true ∧ FMap.get 0 ({ Upkeep.empty with resends := [(0, 7)] } : Upkeep).resends 0 + 1 = 8 ∧
    0 ∈ (((full []).onUpkeep 5 fun u => { u with linkDown := [0] }).tile 5).upkeep.linkDown := by decide +kernel

/-! ### Spill, restore, the watch bill, function tables -/

/-- Contexts 7 (priority 1) and 9 (priority 0, with a spill reserve); region 0 of tile 5 is context 9's; `r` lists further registers. -/
def spill5 (r : FMap Word) (o : Option Order) : State :=
  { st7 ((tileBase 5 + 0x100, region 1 0 8 9) :: r) { TileState.empty with work := { Work.empty with order := o } } ctx7 with
    ctxs := [(7, ctx7), (9, { ctx7 with cr := { cr7 with prio := 0, spillSize := 0x100000 }, home := none })] }
def order0 : Order := ⟨false, 0, 1, 7, 1, 9, 0, 0⟩
/-- SPILL of entry 0, recorded in entry 1, for context 7 at offset 1; RESTORE of entry 0. -/
def spillWord : Word := 0x1010070000000001
def restoreWord : Word := 0x2000000000000000

theorem witness_Spills : (spill5 [] none).accepts (tileBase 5 + 0x730) (wr spillWord) spillWord (BitVec.allOnes 64) ∧
    (bits spillWord 60 4 = 1 ∧ ((spill5 [] none).tile 5).work.order = none ∧ ((spill5 [] none).treg 5 0x100).getLsbD 28 = true ∧
      ((spill5 [] none).treg 5 0x100).getLsbD 29 = false ∧ ((spill5 [] none).treg 5 0x108).getLsbD 28 = false ∧
      ((spill5 [] none).treg 5 0x748).getLsbD 63 = false ∧ (spill5 [] none).ctx? 7 = some ctx7 ∧ ctx7.destroying = false ∧
      (spill5 [] none).prioOf 9 < ctx7.cr.prio.toNat ∧ bits ((spill5 [] none).treg 5 0x100) 0 12 = 9 ∧
      ((spill5 [] none).treg 5 0x008).getLsbD 1 = false ∧ 1 ≤ bits spillWord 0 24 ∧
      bits spillWord 0 24 * 0x10000 + bits ((spill5 [] none).treg 5 0x100) 20 8 * 0x40000 + 0x90000 ≤ (spill5 [] none).reserveSize 9) ∧
    (spill5 [] (some order0)).moving = true ∧ (spill5 [] (some order0)).victimRuns 5 order0 = false ∧
    (∃ s1, (spill5 [] (some order0)).spillCopy 5 order0 = (s1, .ok ()) ∧ s1.tiles = (spill5 [] (some order0)).tiles) ∧
    order0.failed = 0 ∧ ((spill5 [] (some { order0 with failed := 0x3012 })).tile 5).work.order = some { order0 with failed := 0x3012 } ∧
    ((spill5 [] (some order0)).tile 5).work.order = some order0 ∧ ((spill5 [] (some order0)).tile 5).work.kept = none ∧
    ((spill5 [] (some order0)).tile 5).work.parkedFor 0 < 2048 := by
  refine ⟨accepts_of _ _ _ ?_, ?_, ?_, ?_, ⟨_, ends_ok _ _ rfl, rfl⟩, rfl, rfl, rfl, rfl, ?_⟩
  all_goals decide +kernel

/-- A save entry of entry 0: context 9, granules from 8, offset 1; entry 2 overlaps granule 8 or does not. -/
def saved0 (count : Nat) : Word := pack [(63, 1), (51, 9), (43, count), (35, 8), (0, 1)]

theorem witness_Restores : (spill5 [(tileBase 5 + 0x740, saved0 1)] none).accepts (tileBase 5 + 0x730) (wr restoreWord) restoreWord (BitVec.allOnes 64) ∧
    bits restoreWord 60 4 = 2 ∧ ((spill5 [(tileBase 5 + 0x740, saved0 1)] none).treg 5 0x740).getLsbD 63 = true ∧
    ((List.range 16).all fun i => ((spill5 [(tileBase 5 + 0x740, saved0 1)] none).treg 5 (0x100 + 8 * i)).getLsbD 28 = false ∨
      bits ((spill5 [(tileBase 5 + 0x740, saved0 1)] none).treg 5 (0x100 + 8 * i)) 20 8 = 0) = true ∧
    (let s := spill5 [(tileBase 5 + 0x740, saved0 1), (tileBase 5 + 0x110, region 1 1 8 7)] none
     (s.treg 5 0x110).getLsbD 28 = true ∧ 8 < bits (s.treg 5 0x110) 12 8 + bits (s.treg 5 0x110) 20 8 ∧ bits (s.treg 5 0x110) 12 8 < 8 + 1) ∧
    ((spill5 [] none).treg 5 0x740).getLsbD 63 = false ∧
    (let s := spill5 [(tileBase 5 + 0x740, saved0 0)] (some { order0 with restore := true })
     s.moving = true ∧ (s.tile 5).work.order = some { order0 with restore := true } ∧ FMap.find? (s.tile 5).work.accSave 0 = none ∧
     ∃ s1 s2, s.restoreCopy 5 { order0 with restore := true } (bits (saved0 0) 35 8) (bits (saved0 0) 43 8) = (s1, none) ∧
      s1.restoreKept 9 (s.reserve 9 + 0x10000) none = (s2, none, none) ∧
      doAll s2 (fun s' i => s'.restoreParked 5 0 (s.reserve 9 + 0x90000) i) [] = (s2, none)) := by
  refine ⟨accepts_of _ _ _ ?_, ?_, ?_, ?_, ?_, ?_, rfl, rfl, rfl, _, _, rfl, rfl, rfl⟩ <;> decide +kernel

/-- Limits 1 to 3 for every band; a bill at the limits, the present one, one past a limit; a period of 1 ms just over. -/
theorem witness_WatchBill :
    takes [(sxBase + 0x410, 0x313131313131), (sxBase + 0x400, 0x20000000000)] (sxBase + 0x418) 0x313131 ∧
    takes [(sxBase + 0x410, 0x313131313131)] (sxBase + 0x418) 0x413131 ∧
    ((List.range 6).all fun b => decide (bits (0x313131313131 : Word) (8 * b) 4 ≤ bits (0x313131 : Word) (4 * b) 4 ∧
      bits (0x313131 : Word) (4 * b) 4 ≤ bits (0x313131313131 : Word) (8 * b + 4) 4)) = true ∧
    ¬ bits (0x413131 : Word) (4 * 5) 4 ≤ bits (0x313131313131 : Word) (8 * 5 + 4) 4 ∧
    bands 0x313131 4 4 0 ≠ bands ((full []).reg (sxBase + 0x420)) 4 4 0 ∧ bands 0x313131 4 4 0 = bands ((full [(sxBase + 0x420, 0x313131)]).reg (sxBase + 0x420)) 4 4 0 ∧
    tierOf (bits ((full [(sxBase + 0x400, 0x20000000000)]).reg (sxBase + 0x400)) 0 48) ≠ .near ∧
    (let s := { full [(sxBase + 0x408, 0x1000001)] with chron := 1000000 }
     s.sextant = true ∧ (s.reg (sxBase + 0x408)).getLsbD 0 = true ∧ ((full []).reg (sxBase + 0x408)).getLsbD 0 = false ∧
     tierOf (bits (s.reg (sxBase + 0x400)) 0 48) = .near ∧ bits (s.reg (sxBase + 0x408)) 24 16 * 1000000 ≤ (s.chron - s.power.billAt).toNat) := by
  refine ⟨?_, ?_, ?_⟩
  all_goals first | exact takes_full _ _ _ (by decide) | decide +kernel

/-- A version 1 image of one segment from 1 to the next FP32, with the constant value `c`; `flags` are word 0's bits 33 and 32. -/
def image1 (hi : BitVec 32) (c flags : Nat) : List Word :=
  pack [(40, 1), (32, flags), (16, 1), (0, 1)] :: List.replicate 7 0 ++ [pack [(32, hi.toNat), (0, 0x3F800000)]] ++ List.replicate 135 0 ++ [BitVec.ofNat 64 c, 0, 0, 0]

/-- A rising version 1 image of two segments with the constant values `c` and `d`. -/
def image2 (c d : Nat) : List Word :=
  pack [(40, 1), (32, 1), (16, 1), (0, 2)] :: List.replicate 7 0 ++ [pack [(32, 0x40000000), (0, 0x3F800000)], 0x40400000] ++
    List.replicate 134 0 ++ [BitVec.ofNat 64 c, 0, 0, 0, BitVec.ofNat 64 d, 0, 0, 0]

/-- The seam of two constant segments that do not rise, and of two that do. -/
theorem witness_TableLoads_seams : badSeam (image2 0x40000000 0x3F800000) = some (1, 0x40000000) ∧ badSeam (image2 0x3F800000 0x40000000) = none ∧
    headerLegal (image2 0x40000000 0x3F800000) = true ∧ valuesLegal (image2 0x40000000 0x3F800000) = true ∧
    breaksLegal (image2 0x40000000 0x3F800000) = true := by decide +kernel

/-- An image for each outcome of the checks: a legal one; no version; breakpoints out of order; one whose second seam falls; its pass. -/
theorem witness_TableLoads :
    (∃ s1 ws, (full []).ftFetch = (s1, some ws) ∧ headerLegal ws = false) ∧
    (headerLegal (image1 0x3F800001 0x40000000 0) = true ∧ valuesLegal (image1 0x3F800001 0x40000000 0) = true ∧
      breaksLegal (image1 0x3F800001 0x40000000 0) = true ∧ badSeam (image1 0x3F800001 0x40000000 0) = none ∧
      tablePass (image1 0x3F800001 0x40000000 0) = none) ∧
    (valuesLegal (image1 0x3F800001 0x7F800000 0) = false ∧ breaksLegal (image1 0x3F800000 0x40000000 0) = false) ∧
    (tablePass (image1 0x3F800001 0x40000000 2)).isSome = true :=
  ⟨⟨_, _, rfl, by decide +kernel⟩, by decide +kernel⟩

/-- A load whose image is still to come: it comes, or the host refuses a page of it; the reads in use. -/
def loading0 (denied : List (Nat × Nat)) : State :=
  { full [] with
    tables := ⟨[], some ⟨0, true, [], [], false, 0⟩⟩
    outside := { (full []).outside with denied := denied } }
theorem witness_TableLoads_fetch : (loading0 []).moving = true ∧ (loading0 []).safety.safe = false ∧ (loading0 []).hostReads ≤ 768 ∧
    ((loading0 []).ftFetch).2.isSome = true ∧ ((loading0 [(pf0Space, 0)]).ftFetch).2.isNone = true ∧ image1 0x3F800001 0x40000000 0 ≠ [] := by
  decide +kernel

theorem witness_TableLoads_commands : takes [] (bnBase + 0xC08) 1 ∧ takes [] (bnBase + 0xC08) 2 ∧ (full []).tables.cmd = none ∧
    (full []).vectorBoundary 5 = true ∧ (full []).moving = true ∧ FMap.find? (full []).tables.images 0 = none ∧
    (5 : Nat) ∈ List.range 640 ∧ (∃ u ∈ List.range 640, u ≠ 5) ∧ (∀ u ∈ [5], u = 5) := by
  refine ⟨?_, ?_, rfl, rfl, ?_, rfl, List.mem_range.2 ?_, ⟨0, List.mem_range.2 ?_, ?_⟩, ?_⟩
  all_goals first | exact takes_full _ _ _ (by decide) | decide +kernel

/-! ### The memory tiers -/

/-- The last lost-line entry, and the bit that clears all. -/
theorem witness_TierCommands : (full []).mem.job = none ∧
    ([0x418, 0x410, 0x400, 0x420].all fun o => ((full []).linkUp && decide (mtBase + o < 0x70000))) = true ∧
    takes [] (mtBase + 0x418) 1 ∧ takes [] (mtBase + 0x410) 7 ∧ takes [] (mtBase + 0x400) 0x3F ∧ takes [] (mtBase + 0x400) 0x40 ∧
    takes [] (mtBase + 0x420) 1 ∧ bits (7 : Word) 12 12 = 0 ∧ bits (0x3F : Word) 0 6 = 63 ∧ (0x40 : Word).getLsbD 6 = true ∧
    (st7 [] .empty ctx7).ctx? (bits (7 : Word) 0 12) = some ctx7 ∧
    (∀ b, ({ full [] with mem := { Memory.empty with job := some b } } : State).mem.job = some b) := by
  refine ⟨rfl, ?_, ?_, ?_, ?_, ?_, ?_, ?_, ?_, ?_, rfl, fun _ => rfl⟩
  all_goals first | exact takes_full _ _ _ (by decide) | decide +kernel

/-- An invalidation of context 7's page 0: a request to it in flight, and none. -/
theorem witness_TierCommands_inval : ((asking 0x3A .write).using false 7 0 1).any (asking 0x3A .write).flying = true ∧
    ((work7 .empty).using false 7 0 1).any (work7 .empty).flying = false := by decide +kernel

/-- A leaf of frame code 0 whose frames 0 and 1 are dirty. -/
def dirty7 : State :=
  { full [] with mem := { Memory.empty with near := put64 0x100000 0x8000000000200000#64 ++ put64 0x200000 0xE000000000400000#64 ++ put64 0x200008 3 } }

theorem witness_HarvestTakesTheMap : dirty7.leafOf 0x100000 (0 * 2 ^ 21) = .inl 0x200000 ∧ dirty7.flaw 0x200000 64 = none ∧
    (dirty7.pa64 0x200000).getLsbD 63 = true ∧ frameSize (bits (dirty7.pa64 0x200000) 55 4) ≠ 0 ∧
    dirty7.pageLines (bits (dirty7.pa64 0x200000) 21 23 * 2 ^ 21) = [] := by decide +kernel

/-- Window 3 pending; the far tier up; a millisecond since it was asked, and a nanosecond less. -/
def far3 (chron : Word) : State := { full [(mtBase + 0x198, 0x4000000000000000), (mtBase + 0x010, 2), (mtBase + 0x018, 0x20000), (lpStatus 6, 5)] with chron := chron }

theorem witness_FarWindows : takes [] (mtBase + 0x198) 0x8000000000000000 ∧ takes [] (mtBase + 0x180) 0 ∧
    ((far3 0).reg (mtBase + 0x180 + 8 * 3)).getLsbD 62 = true ∧ (far3 0).farUp = true ∧ (1 : BitVec 2) ≠ 0 ∧
    1000000 ≤ ((far3 1000000).chron - FMap.get 0 (far3 0).light.farQuery 3).toNat ∧ ¬ 1000000 ≤ ((far3 999999).chron - FMap.get 0 (far3 0).light.farQuery 3).toNat ∧
    1000000 < ((far3 1000001).chron - FMap.get 0 (far3 0).light.farQuery 3).toNat := by
  refine ⟨?_, ?_, ?_⟩
  all_goals first | exact takes_full _ _ _ (by decide) | decide +kernel

/-- The issued request of `asking`, at 1 ms and a nanosecond less; its lateness bound of 2 µs and one more. -/
theorem witness_TierFailures : (asking 0x3A .read).tierReq? 5 6 0 = some (((asking 0x3A .read).tile 5).work.running.headD (moverRun 0x3A .read), askOf .read, 0) ∧
    (asking 0x3A .read).moving = true ∧ ({ asking 0x3A .read with chron := 1000000 } : State).ageOf (askOf .read) = 1000000 ∧
    ({ asking 0x3A .read with chron := 999999 } : State).ageOf (askOf .read) < 1000000 ∧ (askOf .read).late = false ∧ (askOf .read).kind = .read ∧
    (askOf .write).kind ≠ .read ∧ (asking 0x3A .write).tierReq? 5 6 0 = some (((asking 0x3A .write).tile 5).work.running.headD (moverRun 0x3A .write), askOf .write, 0) ∧
    (askOf .read).waiting = false ∧ (askOf .write).waiting = true ∧
    bits ((asking 0x3A .read).reg (mtBase + 0x048)) 0 16 < ({ asking 0x3A .read with chron := 65536 } : State).ageOf (askOf .read) ∧
    ({ asking 0x3A .read with chron := 0 } : State).ageOf (askOf .read) ≤ bits ((asking 0x3A .read).reg (mtBase + 0x048)) 0 16 := by decide +kernel

/-- The last stack and the last group; blocks in the first and last bytes of the tiers. -/
theorem witness_TierUnitsFail : (full []).moving = true ∧ (full []).absent (11 * 2 ^ 36) = false ∧ (5 : Fin 12).val < 6 ∧
    (full []).absent (0x10000000000 + 5 * 2 ^ 38) = false ∧ 6 ≤ (6 : Fin 12).val ∧
    ((full [(mtBase + 0x010, 2), (lpBase + 0x408, 1)]).reg (mtBase + 0x010)).getLsbD 1 = true ∧ bits ((full [(mtBase + 0x010, 2), (lpBase + 0x408, 1)]).reg (lpBase + 0x408)) 0 4 ≤ 1 ∧
    (full []).absent (0x2FFFFFFFF * 64) = false ∧ tierOf (0x2FFFFFFFF * 64) = .near ∧ tierOf (0x300000000 * 64) = .none ∧
    tierOf (0x400000000 * 64) = .mid ∧ tierOf (0x9FFFFFFFF * 64) = .mid ∧ FMap.get false (full []).mem.bad 0x2FFFFFFFF = false := by decide +kernel

/-! ### Light ports -/

/-- Port 0 in state `k` with LP_LASER word `l`, as `x` has it; `r` lists further registers. -/
def port0 (k l : Nat) (x : Port) (r : FMap Word) : State :=
  let s := full ((lpStatus 0, BitVec.ofNat 64 k) :: (lpLaser 0, BitVec.ofNat 64 l) :: r)
  { s with
    light := { s.light with
      ports := [(0, x)] } }
/-- Laser on, gates 0 and 1 open. -/
def lit : Nat := 2 ^ 32 + 3

theorem witness_PortsDropTheirLink : (port0 4 lit .empty []).portState 0 ≠ 5 ∧ (port0 4 lit .empty []).portState 0 ≠ 0 ∧ (port0 4 lit .empty []).gates 0 ≠ 0 := by
  decide +kernel

/-- Port 0 enabled, coordinates valid, at FULL: the port may leave Off. -/
def wanted0 : FMap Word := [(lpCfg 0, 0x100), (lpBase + 0x008, 0x80)]

/-- The last gate of one and of two; 1 s in Dark with the laser off, and a nanosecond less. -/
theorem witness_GatesAndTraining :
    (port0 1 (2 ^ 32) .empty []).looping 0 = false ∧ (port0 1 (2 ^ 32) .empty []).laserOn 0 = true ∧ (port0 1 (2 ^ 32) .empty []).gateOpen 0 15 = false ∧
    (port0 2 lit .empty []).gateOpen 0 1 = true ∧ (port0 2 lit .empty []).gateOpen 0 0 = true ∧ (port0 2 lit .empty []).portState 0 = 2 ∧
    (port0 5 lit .empty []).portState 0 = 5 ∧ (port0 7 lit .empty []).portState 0 = 7 ∧ (port0 2 (2 ^ 32 + 2) .empty []).gates 0 = 2 ^ 1 ∧
    ({ port0 1 0 .empty wanted0 with chron := 1000000000 } : State).portWanted 0 = true ∧ (port0 1 0 .empty wanted0).laserOn 0 = false ∧
    1000000000 ≤ (({ port0 1 0 .empty wanted0 with chron := 1000000000 } : State).chron - Port.empty.since).toNat ∧
    ¬ 100000000 ≤ ((100000000 : Word) - 1).toNat ∧ takes [(lpStatus 0, 6)] (lpReg 0x120 0) 1 ∧ (full [(lpStatus 0, 6)]).portState 0 = 6 := by
  refine ⟨?_, ?_, ?_, ?_, ?_, ?_, rfl, ?_, ?_, ?_, ?_, ?_, ?_, ?_, ?_⟩
  all_goals first | exact takes_full _ _ _ (by decide) | decide +kernel

/-- A neighbour's capabilities: every pair receives on every lane at both rates; `f` its FEC setting. -/
def cap0 (f : BitVec 2) : Capability := ⟨1, 9, true, 1, false, 0, f, 0, List.replicate 16 0xFF⟩
def fecOn : Port := { Port.empty with mine := 1 }
def trained0 : Port := { Port.empty with passed := (List.range 8).map fun i => (i, 0xFF) }
def lit8 : Nat := 2 ^ 32 + 0xFF
def heard (x : Port) : State := ((port0 3 lit8 x []).onPort 0 fun x => { x with cap := some (cap0 0) }).setReg (lpPartner 0) (capWord (cap0 0))

/-- Contrary FEC settings; no candidate, and some; 1 ms in a state; results without errors. -/
theorem witness_Negotiation : Instr.wf (.lpCapabilityBlock 0 (cap0 2)) = true ∧ capListed (cap0 2) = true ∧ Instr.wf (.lpCapabilityBlock 0 { cap0 2 with pairs := [] }) = false ∧
    (port0 3 lit fecOn []).portState 0 = 3 ∧ ((port0 3 lit fecOn []).port 0).mine.toNat % 4 = 1 ∧ (cap0 2).fec = 2 ∧
    (port0 4 lit { trained0 with own := some ⟨0, 0, 0⟩ } []).portState 0 = 4 ∧
    ((port0 4 lit { trained0 with own := some ⟨0, 0, 0⟩ } []).port 0).own = some ⟨0, 0, 0⟩ ∧
    1000000 ≤ (({ port0 4 lit trained0 [] with chron := 1000000 } : State).chron - trained0.since).toNat ∧ trained0.own = none ∧ trained0.peer = none := by
  decide +kernel

theorem witness_Negotiation_candidates : ((heard .empty).port 0).candidates = [] ∧ ∃ c cs, ((heard trained0).port 0).candidates = c :: cs := by
  have h0 : ∃ L : List Candidate, ((heard .empty).port 0).candidates = L.mergeSort Candidate.before ∧ L.length = 0 := ⟨_, rfl, by decide +kernel⟩
  have h1 : ∃ L : List Candidate, ((heard trained0).port 0).candidates = L.mergeSort Candidate.before ∧ L.length ≠ 0 := ⟨_, rfl, by decide +kernel⟩
  obtain ⟨L, h, n⟩ := h0
  obtain ⟨M, k, m⟩ := h1
  refine ⟨List.eq_nil_of_length_eq_zero (by rw [h, List.length_mergeSort, n]), List.exists_cons_of_ne_nil fun e => m ?_⟩
  rw [← List.length_mergeSort (le := Candidate.before), ← k, e, List.length_nil]

/-- Port 6, which serves no direction of the torus, and port 0 without a neighbour that may carry data. -/
theorem witness_LinksSettle : (port0 4 lit .empty []).portState 6 ≠ 5 ∧ (port0 4 lit .empty []).torusOf 6 = none ∧
    (port0 4 lit .empty []).torusOf 0 ≠ none ∧ (port0 4 lit .empty []).portState 0 ≠ 5 ∧ ((port0 4 lit .empty []).port 0).cap = none ∧
    (port0 4 lit .empty []).mismatched 0 = false := by decide +kernel

/-- A neighbour that port 0 must face, in a ring of eight, and one that reports another port. -/
theorem witness_LinksSettle_facing : (let s := port0 4 lit { Port.empty with cap := some { cap0 0 with coord := 4 } } [(lpBase + 0x018, 0x800000000000007F), (lpBase + 0x020, 0)]
     s.torusOf 0 ≠ none ∧ s.hold = false ∧ topoValid s.topo = true ∧ s.facing 0 = true ∧ (cap0 0).kind = 0) ∧
    (port0 4 lit { Port.empty with cap := some { cap0 0 with port := 2 } } []).mismatched 0 = true := by decide +kernel

/-- A data block of request class, slot 0, phase 0, with the bytes of a header. -/
def parcel0 : Parcel := ⟨channel 1 false 0, .flits (List.replicate 64 0), .nobody⟩
/-- Blocks 3 and 4 await acknowledgement. -/
def holding : Port := { Port.empty with held := [⟨3, parcel0, 1, 0⟩, ⟨4, parcel0, 1, 0⟩], next := 5, expect := 5 }

theorem ofBytes_bytesOf (w : Word) : BitVec.ofNat 64 (ofBytes (bytesOf 8 w.toNat)) = w := by
  have h := w.isLt
  apply BitVec.eq_of_toNat_eq
  simp only [bytesOf, List.range, List.range.loop, List.map, ofBytes, BitVec.toNat_ofNat, Nat.shiftRight_eq_div_pow]
  omega

/-- A block of two header words and zeros, with a CRC. -/
def bodyOf (h : Word × Word) : List Byte := bytesOf 8 h.1.toNat ++ bytesOf 8 h.2.toNat ++ List.replicate 256 0
def blockOf (h : Word × Word) (crc : Word) : List Byte := bodyOf h ++ bytesOf 8 crc.toNat

theorem blockOf_crc (h : Word × Word) (crc : Word) : (blockOf h crc).length = 280 ∧ (blockOf h crc).take 272 = bodyOf h ∧
    BitVec.ofNat 64 (ofBytes ((blockOf h crc).drop 272)) = crc := by
  have k : (bodyOf h).length = 272 := by simp only [bodyOf, List.length_append, List.length_replicate, bytesOf, List.length_map, List.length_range]
  refine ⟨?_, List.take_left' k, ?_⟩
  · simp only [blockOf, List.length_append, k, bytesOf, List.length_map, List.length_range]
  · simp only [blockOf]; rw [List.drop_left' k]; exact ofBytes_bytesOf crc

/-- A good block and a damaged one, for any header. -/
theorem sealed_block (h : Word × Word) : (blockOf h (crc64 (bodyOf h))).length = 280 ∧
    crc64 ((blockOf h (crc64 (bodyOf h))).take 272) = BitVec.ofNat 64 (ofBytes ((blockOf h (crc64 (bodyOf h))).drop 272)) ∧
    crc64 ((blockOf h (crc64 (bodyOf h) + 1)).take 272) ≠ BitVec.ofNat 64 (ofBytes ((blockOf h (crc64 (bodyOf h) + 1)).drop 272)) := by
  refine ⟨(blockOf_crc _ _).1, by rw [(blockOf_crc _ _).2.1, (blockOf_crc _ _).2.2], ?_⟩
  rw [(blockOf_crc _ _).2.1, (blockOf_crc _ _).2.2]
  intro e
  bv_omega

/-- The headers of an idle block, and of a data block of two flits with the sequence that is expected. -/
def headers : List (Word × Word) := [(0, 0), (pack [(60, 1), (54, 16), (24, 5)], 2)]

theorem witness_BlocksAreAcknowledged : (port0 5 lit holding []).carrying 0 = true ∧ (port0 5 lit holding []).fecIsOn 0 = false ∧
    ((port0 5 lit holding []).port 0).expect = 5 ∧ (headers.all fun h =>
      blockLegal (BitVec.ofNat 64 (ofBytes ((blockOf h (crc64 (bodyOf h))).take 8)))
        (BitVec.ofNat 64 (ofBytes (((blockOf h (crc64 (bodyOf h))).drop 8).take 8)))) = true := by decide +kernel

/-- Sequences at the ends of what a re-send covers; 2 µs exactly; the eighth sending. -/
theorem witness_BlocksAreAcknowledged_again : (holding.held.all fun h => decide ((h.seq - (3 : BitVec 24)).toNat < 2 ^ 23) && h.sends < 8) = true ∧
    2000 ≤ ((2000 : Word) - (holding.held.headD ⟨0, parcel0, 0, 0⟩).since).toNat ∧ 8 ≤ ({ seq := 3, parcel := parcel0, sends := 8, since := 0 } : Held).sends := by
  refine ⟨?_, ?_, ?_⟩ <;> decide

/-! ### The light FEC -/

theorem gfMul_zero (x : Byte) : gfMul 0#8 x = 0#8 := by
  have t : gfTwice 0#8 = 0#8 := by decide
  simp [gfMul, List.range, List.range.loop, t]

theorem gfEval_zeros (p : List Byte) (n : Nat) (x : Byte) : gfEval (p ++ List.replicate n 0#8) x = gfEval p x := by
  have z : (List.replicate n 0#8).foldr (fun c acc => gfMul acc x ^^^ c) 0#8 = 0#8 := by
    induction n with
    | zero => rfl
    | succ n ih => simp [List.replicate_succ, ih, gfMul_zero]
  simp [gfEval, List.foldr_append, z]

theorem syndromes_zeros (p : List Byte) (n : Nat) : syndromes (p ++ List.replicate n 0#8) = syndromes p := by
  simp [syndromes, gfEval_zeros]

/-- What correction makes of a word, part by part. -/
theorem rsCorrect_of (p syn : List Byte) (s : Search) (es : List Nat) (w q : List Byte) (h1 : syndromes p = syn) (h2 : syn.all (· = 0) = false)
    (h3 : Search.run syn = s) (h4 : errorsAt syn s.c p.length = es) (h5 : gfProduct rsCheck syn s.c = w)
    (h6 : (p.zipIdx.map fun x => if es.contains x.2 then x.1 ^^^ errorValue s.c w x.2 else x.1) = q) :
    rsCorrect p = if s.len ≤ rsLimit && es.length = s.len && (syndromes q).all (· = 0) then some (q, es.length) else none := by
  subst h1 h3 h4 h5 h6
  simp only [rsCorrect, h2, Bool.false_eq_true, if_false]

/-- The first interleave of a word that begins with zeros. -/
theorem interleave_zeros (m k : Nat) (tail : List Byte) (h : tail.length = 4 * k) :
    interleave (List.replicate (4 * m) 0#8 ++ tail) 0 = ((List.range k).map fun j => tail.getD (4 * j) 0).reverse ++ List.replicate m 0#8 := by
  have n : (List.replicate (4 * m) 0#8 ++ tail).length / 4 = m + k := by rw [List.length_append, List.length_replicate, h]; omega
  rw [interleave, n, List.range_add, List.map_append, List.reverse_append, List.map_map]
  congr 1
  · congr 1
    refine List.map_congr_left fun j _ => ?_
    have e : 4 * (m + j) + 0 = (List.replicate (4 * m) 0#8).length + 4 * j := by rw [List.length_replicate]; omega
    simp only [Function.comp, e]
    rw [List.getD_append_right _ _ _ _ (Nat.le_add_right _ _), Nat.add_sub_cancel_left]
  · refine List.eq_replicate_iff.2 ⟨by rw [List.length_reverse, List.length_map, List.length_range], fun b h => ?_⟩
    obtain ⟨i, hi, rfl⟩ := List.mem_map.1 (List.mem_reverse.1 h)
    have l : 4 * i + 0 < 4 * m := by have := List.mem_range.1 hi; omega
    rw [List.getD_append _ _ _ _ (by rwa [List.length_replicate]), List.getD_eq_getElem _ _ (by rwa [List.length_replicate])]; exact List.getElem_replicate ..

/-- An interleave whose bytes are all zero. -/
theorem interleave_all_zeros (bs : List Byte) (k : Nat) (h : ∀ i, i < bs.length / 4 → bs.getD (4 * i + k) 0#8 = 0#8) :
    interleave bs k = List.replicate (bs.length / 4) 0#8 := by
  refine List.eq_replicate_iff.2 ⟨by rw [interleave, List.length_reverse, List.length_map, List.length_range], fun b m => ?_⟩
  obtain ⟨i, hi, rfl⟩ := List.mem_map.1 (List.mem_reverse.1 m)
  exact h i (List.mem_range.1 hi)

theorem rsCorrect_zeros (n : Nat) : rsCorrect (List.replicate n 0#8) = some (List.replicate n 0#8, 0) := by
  have s : syndromes (List.replicate n 0#8) = syndromes [] := syndromes_zeros [] n
  have a : (syndromes []).all (· = 0) = true := by decide +kernel
  rw [rsCorrect, s]
  simp only [a, if_true]

/-- A codeword of zeros but for one byte of the first interleave. -/
def oneTail : List Byte := 7 :: List.replicate 183 0
def oneError : List Byte := List.replicate (4 * 250) 0 ++ oneTail
def oneLow : List Byte := List.replicate 45 0 ++ [7]

def oneSyn : List Byte := [7, 125, 39, 120, 197, 252, 242, 8, 70, 182, 33, 196, 61, 45, 161, 208]

theorem oneError_first : rsCorrect (interleave oneError 0) = some (List.replicate 296 0#8, 1) := by
  have i : interleave oneError 0 = oneLow ++ List.replicate 250 0#8 :=
    (interleave_zeros 250 46 oneTail rfl).trans (congrArg (· ++ List.replicate 250 0#8) (by decide +kernel))
  have a : syndromes oneLow = oneSyn := by decide +kernel
  have c : (Search.run oneSyn).c = [1, 193] ∧ (Search.run oneSyn).len = 1 := by decide +kernel
  have e : errorsAt oneSyn [1, 193] 296 = [45] := by decide +kernel
  have w : gfProduct rsCheck oneSyn [1, 193] = 7 :: List.replicate 15 0 := by decide +kernel
  have q : ((oneLow ++ List.replicate 250 0#8).zipIdx.map fun x =>
      if [45].contains x.2 then x.1 ^^^ errorValue [1, 193] (7 :: List.replicate 15 0) x.2 else x.1) = List.replicate 296 0#8 := by decide +kernel
  have z : (syndromes (List.replicate 296 0#8)).all (· = 0) = true := by
    have s : syndromes (List.replicate 296 0#8) = syndromes [] := syndromes_zeros [] 296
    rw [s]; decide +kernel
  rw [i, rsCorrect_of _ oneSyn (Search.run oneSyn) [45] (7 :: List.replicate 15 0) (List.replicate 296 0#8) ((syndromes_zeros _ _).trans a)
    (by decide +kernel) rfl (by rw [c.1, List.length_append, List.length_replicate]; exact e) (by rw [c.1]; exact w) (by rw [c.1]; exact q), c.2, z]
  rfl

/-- Byte 1,000 alone is not zero. -/
theorem oneError_rest (k i : Nat) (h : 4 * i + k ≠ 1000) : oneError.getD (4 * i + k) 0#8 = 0#8 := by
  rw [oneError, oneTail]
  by_cases l : 4 * i + k < 1000
  · rw [List.getD_append _ _ _ _ (by rwa [List.length_replicate]), List.getD_eq_getElem _ _ (by rwa [List.length_replicate])]; exact List.getElem_replicate ..
  · rw [List.getD_append_right _ _ _ _ (by rw [List.length_replicate]; omega), List.length_replicate]
    obtain ⟨n, hn⟩ : ∃ n, 4 * i + k - 4 * 250 = n + 1 := ⟨4 * i + k - 1001, by omega⟩
    rw [hn, List.getD_cons_succ]
    by_cases m : n < 183
    · rw [List.getD_eq_getElem _ _ (by rwa [List.length_replicate])]; exact List.getElem_replicate ..
    · rw [List.getD_eq_default _ _ (by rw [List.length_replicate]; omega)]

theorem decodeCodeword_of (bs a b c d : List Byte) (i j k l : Nat) (h0 : rsCorrect (interleave bs 0) = some (a, i))
    (h1 : rsCorrect (interleave bs 1) = some (b, j)) (h2 : rsCorrect (interleave bs 2) = some (c, k)) (h3 : rsCorrect (interleave bs 3) = some (d, l)) :
    decodeCodeword bs = some (blocksOfData ((List.range codewordData).map fun n =>
      ([a.reverse, b.reverse, c.reverse, d.reverse].getD (n % 4) []).getD (n / 4) 0), i + j + k + l != 0) := by
  unfold decodeCodeword
  rw [h0, h1, h2, h3]

set_option maxRecDepth 100000 in
/-- A codeword with one byte in error is corrected; the zeros that it then holds are no blocks with a CRC. -/
theorem test_one_error : ∃ bs, decodeCodeword oneError = some (bs, true) ∧ ∀ b ∈ bs, crc64 (b.take 272) ≠ BitVec.ofNat 64 (ofBytes (b.drop 272)) := by
  have n : oneError.length / 4 = 296 := by rw [oneError, oneTail, List.length_append, List.length_replicate, List.length_cons, List.length_replicate]
  have z : ∀ k, k % 4 ≠ 0 → rsCorrect (interleave oneError k) = some (List.replicate 296 0#8, 0) := fun k h => by
    rw [interleave_all_zeros _ _ fun i _ => oneError_rest k i (by omega), n]; exact rsCorrect_zeros 296
  refine ⟨_, decodeCodeword_of _ _ _ _ _ _ _ _ _ oneError_first (z 1 (by decide)) (z 2 (by decide)) (z 3 (by decide)), fun b h => ?_⟩
  have f : ∀ m, m < 4 → ∀ k, k < 280 → ([(List.replicate 296 0#8).reverse, (List.replicate 296 0#8).reverse, (List.replicate 296 0#8).reverse,
      (List.replicate 296 0#8).reverse].getD m []).getD k 0 = 0 := fun m hm k hk => by
    have r : (List.replicate 296 0#8).reverse = List.replicate 296 0#8 := List.reverse_replicate
    rw [r]
    have g : (List.replicate 296 0#8).getD k 0 = 0 := by
      rw [List.getD_eq_getElem _ _ (by rw [List.length_replicate]; omega)]; exact List.getElem_replicate ..
    interval_cases m <;> exact g
  have e : (List.range codewordData).map (fun n => ([(List.replicate 296 0#8).reverse, (List.replicate 296 0#8).reverse,
      (List.replicate 296 0#8).reverse, (List.replicate 296 0#8).reverse].getD (n % 4) []).getD (n / 4) 0) = List.replicate 1120 0#8 := by
    refine List.eq_replicate_iff.2 ⟨by rw [List.length_map, List.length_range]; rfl, fun b m => ?_⟩
    obtain ⟨i, hi, rfl⟩ := List.mem_map.1 m
    have : i < 1120 := List.mem_range.1 hi
    exact f _ (Nat.mod_lt _ (by decide)) _ (by omega)
  rw [e] at h
  obtain ⟨i, hi, rfl⟩ := List.mem_map.1 h
  have c : ((List.replicate 1120 0#8).drop (280 * i)).take 280 = List.replicate 280 0#8 := by
    have := List.mem_range.1 hi
    rw [List.drop_replicate, List.take_replicate, show min 280 (1120 - 280 * i) = 280 by omega]
  rw [c]
  decide +kernel

/-- A codeword whose first interleave has nine errors. -/
def nineLow : List Byte := [24, 200, 173, 239, 54, 81, 11, 255, 1]
def nineErrors : List Byte := List.replicate (4 * 287) 0 ++ nineLow.reverse.flatMap fun b => [b, 0, 0, 0]

theorem decodeCodeword_none (bs : List Byte) (h : rsCorrect (interleave bs 0) = none) : decodeCodeword bs = none := by
  unfold decodeCodeword
  rw [h]

/-- The code does not correct nine errors of one interleave (R315). -/
theorem test_nine_errors : decodeCodeword nineErrors = none := by
  have i : interleave nineErrors 0 = nineLow ++ List.replicate 287 0#8 := interleave_zeros 287 9 _ rfl
  have a : (syndromes nineLow).all (· = 0) = false := by decide +kernel
  have b : ¬ (Search.run (syndromes nineLow)).len ≤ rsLimit := by decide +kernel
  apply decodeCodeword_none
  rw [i, rsCorrect_of _ _ _ _ _ _ (syndromes_zeros nineLow 287) a rfl rfl rfl rfl]
  simp only [b, decide_false, Bool.false_and, Bool.false_eq_true, if_false]

/-- Codewords of 1,184 bytes at a port with the FEC: one that is not corrected, one that is (`test_one_error`), and blocks to encode. -/
theorem witness_CodewordsDecode : (port0 0x85 lit holding []).fecIsOn 0 = true ∧ (port0 0x85 lit holding []).carrying 0 = true ∧
    nineErrors.length = 1184 ∧ oneError.length = 1184 ∧ (List.replicate 4 (blockOf (0, 0) 0)).length = 4 ∧
    ∀ b ∈ List.replicate 4 (blockOf (0, 0) 0), b.length = 280 := by
  refine ⟨?_, ?_, ?_, ?_, rfl, fun b h => by rw [List.eq_of_mem_replicate h]; exact (blockOf_crc _ _).1⟩ <;> decide +kernel

/-- With the light FEC on, a block with room in the codeword, and the fourth. -/
theorem witness_BlocksLeave : (port0 5 lit .empty []).fecIsOn 0 = false ∧ (port0 0x85 lit .empty []).fecIsOn 0 = true ∧
    ([List.replicate 3 ([] : List Byte), List.replicate 2 []].map fun f => ((port0 0x85 lit { Port.empty with frame := f } []).port 0).frame.length + 1) = [4, 3] := by
  decide +kernel

/-- A data block that waits at a port with credit; one at a port without. -/
theorem witness_PortsSendByRounds :
    let s := port0 5 lit { Port.empty with waiting := [parcel0] } []
    (s.port 0).turn < 8 ∧ (s.sendNext 0 9).isSome = true ∧ (s.port 0).hasCredit parcel0.vc = true ∧
    ((port0 5 lit { Port.empty with waiting := [parcel0], sentOn := [(16, 512)] } []).sendNext 0 9).isSome = false := by decide +kernel

/-- News newer by 1 and by the most, old news, and news of this package. -/
theorem witness_LinkNews : (port0 5 lit .empty []).carrying 0 = true ∧ (port0 5 lit .empty []).torusOf 0 ≠ none ∧ (port0 5 lit .empty []).portState 0 = 5 ∧
    (9 : Nat) ≠ (port0 5 lit .empty []).coord ∧ FMap.find? (port0 5 lit .empty []).light.links 72 = none ∧
    ([1#32, 0x7FFFFFFF#32].all fun e => decide (e ≠ 0 ∧ (e - 0).toNat < 2 ^ 31)) = true ∧ ([0#32, 0x80000000#32].all fun e => decide (¬ (e ≠ 0 ∧ (e - 0).toNat < 2 ^ 31))) = true ∧
    9 ∈ ({ FabricSide.empty with holds := [9], remotes := [storeOut 2] } : FabricSide).holds ∧ (storeOut 2).node = 9 ∧ (storeOut 2).sent ≠ none := by
  decide +kernel

/-- Slots of 1,024 and 2,048 blocks fill a port, 16 more do not fit. -/
def jobs0 (n : Nat) : FMap Word := [(jobvcReg 0 1, pack [(63, 1), (0, 1024)]), (jobvcReg 0 2, pack [(63, 1), (0, n)])]

theorem witness_LightRegisters_torus : takes [(lpBase + 0x020, 0)] (lpBase + 0x008) 5 ∧ ((full [(lpBase + 0x020, 0)]).reg (lpBase + 0x020)).getLsbD 0 = false ∧
    takes [(lpBase + 0x020, 1)] (lpBase + 0x010) 5 ∧ ((full [(lpBase + 0x020, 1)]).reg (lpBase + 0x020)).getLsbD 0 = true ∧
    takes [(lpBase + 0x008, 3)] (lpBase + 0x018) 0x8000000000000002 ∧ inRings 0x8000000000000002 (full [(lpBase + 0x008, 3)]).coord = false ∧
    inRings 0x8000000000000003 (full [(lpBase + 0x008, 3)]).coord = true ∧ takes [] (lpBase + 0x020) 1 ∧
    ((List.range 8).all fun q => decide ((full []).portState q ≠ 5 ∧ (full []).portState q ≠ 6)) = true := by
  refine ⟨?_, ?_, ?_, ?_, ?_, ?_, ?_, ?_, ?_⟩
  all_goals first | exact takes_full _ _ _ (by decide) | decide +kernel

theorem witness_LightRegisters_ports : takes (jobs0 2048) (jobvcReg 0 3) (pack [(63, 1), (0, 16)]) ∧
    3072 < ((full (jobs0 2048)).putFields (jobvcReg 0 3) (pack [(63, 1), (0, 16)]) (BitVec.allOnes 64) jobvcFields).allotted 0 ∧
    ((full (jobs0 2032)).putFields (jobvcReg 0 3) (pack [(63, 1), (0, 16)]) (BitVec.allOnes 64) jobvcFields).allotted 0 ≤ 3072 ∧
    takes [] (lpCfg 0) 0x100 ∧ takes [(lpCfg 5, 0x100)] (lpCfg 7) 0x5400 ∧ bits (0x5400 : Word) 9 3 = 2 ∧ bits (0x5400 : Word) 12 3 ≤ 5 ∧
    ((full [(lpCfg 5, 0x100)]).reg (lpCfg (bits (0x5400 : Word) 12 3))).getLsbD 8 = true ∧ takes [] (lpBase + 0x048) 1 := by
  refine ⟨?_, ?_, ?_, ?_, ?_, ?_, ?_, ?_, ?_⟩
  all_goals first | exact takes_full _ _ _ (by decide) | decide +kernel

/-- SP carries data and is given another role. -/
theorem witness_LightRegisters_again : takes [(lpStatus 7, 5)] (lpCfg 7) 0x5600 ∧ bits (0x5600 : Word) 9 3 ≠ 2 ∧
    bits (0x5600 : Word) 9 6 ≠ bits ((full [(lpStatus 7, 5)]).reg (lpCfg 7)) 9 6 ∧ (full [(lpStatus 7, 5)]).carrying 7 = true ∧
    (full []).carrying 7 = false := by
  refine ⟨takes_full _ _ _ (by decide), ?_⟩
  decide +kernel

/-- Loopback tests of the shortest and the longest time, by both kinds; one that ends after 10 ms. -/
def loopWord (k ms : Nat) : Word := pack [(63, 1), (61, k), (32, ms), (0, 7)]

theorem witness_LightRegisters_loop : takes [(lpStatus 0, 5)] (lpLoopReg 0) (loopWord 1 10) ∧ (full [(lpStatus 0, 5)]).portState 0 ≠ 0 ∧
    takes [] (lpLoopReg 7) (loopWord 1 10) ∧ takes [] (lpLoopReg 7) (loopWord 2 60000) ∧ (full []).portState 7 = 0 ∧ ((full []).reg (lpCfg 7)).getLsbD 8 = false ∧
    bits ((full []).reg (lpCfg 7)) 9 3 = 0 ∧ bits (loopWord 2 60000) 32 16 ≤ 60000 ∧ 10 ≤ bits (loopWord 1 10) 32 16 ∧
    (let s := { full [(lpLoopReg 0, loopWord 1 10), (lpStatus 0, 4)] with chron := 10000000 }
     Instr.wf (.lpLoopDone 0 0xFFFF (List.replicate 64 1)) = true ∧ s.looping 0 = true ∧ s.portWanted 0 = false ∧
       bits (s.reg (lpLoopReg 0)) 32 16 * 1000000 ≤ (s.chron - (s.port 0).since).toNat ∧ (List.replicate 64 1).sum < 2 ^ 48 ∧ 4 ≤ s.stage % 0x80) ∧
    (port0 4 lit .empty []).gateOpen 0 1 = true ∧ 1 ∉ ((port0 4 lit .empty []).port 0).shut ∧
    Instr.wf (.lpLoopDone 0 0xFFFF []) = false := by
  refine ⟨?_, ?_, ?_, ?_, ?_⟩
  all_goals first | exact takes_full _ _ _ (by decide) | decide +kernel

/-! ### Remote accesses -/

/-- A request of context 7 to node 9, not yet sent; node 9 leaves by port F, which is up; `near` lists further bytes. -/
def waiting9 : Remote := { storeOut 2 with sent := none }
def fabric7 (q : Remote) (map : Word) (near : FMap Byte) : State :=
  let s := st7 [(lpBase + 0x8048, map), (lpStatus 6, 5)] { TileState.empty with fab := { FabricSide.empty with remotes := [q] } } ctx7
  { s with
    mem := { s.mem with
      near := near ++ s.mem.near } }
def node9 : Word := pack [(63, 1), (61, 1)]
def reach9 : FMap Byte := [(0xE01, 2)]

def ageing (n : Word) : State := { fabric7 (storeOut 2) node9 reach9 with chron := n }

/-- Room for the request, none, each refusal, grants at their limits, 10 ms. -/
theorem witness_RemoteRequests : (fabric7 waiting9 node9 reach9).moving = true ∧
    ((fabric7 waiting9 node9 reach9).tile 5).fab.remotes.find? ((fabric7 waiting9 node9 reach9).tile 5).fab.mayLeave = some waiting9 ∧
    (fabric7 waiting9 node9 reach9).senderCheck 7 9 = none ∧ (fabric7 waiting9 node9 reach9).exitOf 9 false = .ok (6, false) ∧
    (fabric7 { waiting9 with sent := some 3 } node9 reach9 |>.tile 5).fab.remotes.find?
      (fabric7 { waiting9 with sent := some 3 } node9 reach9 |>.tile 5).fab.mayLeave = none ∧
    (fabric7 waiting9 0 reach9).senderCheck 7 9 = some 0x6020 ∧ (fabric7 waiting9 node9 []).senderCheck 7 9 = some 0x3023 ∧
    (fabric7 waiting9 (pack [(63, 1)]) reach9).senderCheck 7 9 = none ∧ (fabric7 waiting9 (pack [(63, 1)]) reach9).exitOf 9 false = .error 0x6020 ∧
    ((fabric7 (storeOut 2) node9 reach9).tile 5).fab.remotes.find?
      (fun x => x.id = 0 && x.sent.isSome && ! (fabric7 (storeOut 2) node9 reach9).expired x) = some (storeOut 2) ∧
    (ageing 9999999).expired (storeOut 2) = false ∧ (ageing 10000000).expired (storeOut 2) = true ∧
    ([1#8, 64].all fun g => decide (1 ≤ g.toNat ∧ g.toNat ≤ 64)) = true ∧ ([0#8, 65, 255].all fun g => decide (g = 0 ∨ 64 < g.toNat)) = true ∧
    (storeOut 2).sent = some 0 ∧ 10000000 ≤ ((ageing 10000000).chron - 0).toNat := by decide +kernel

/-- A load of slot 2 that waits for request 4. -/
def loadOut (f : LoadForm) : Remote := { storeOut 2 with id := 4, owner := .load 2 f 3 0x1000 }

theorem witness_RemoteRequestsEnd (f : LoadForm) : (loadOut f).owner = .load 2 f 3 0x1000 ∧
    ((run7 { Slot.empty with stall := .remote 4 }).tile 5 |>.slot 2).stall = .remote (loadOut f).id ∧
    ((run7 { Slot.empty with stall := .remote 4 }).tile 5 |>.slot 2).ctx.toNat = (loadOut f).ctx ∧ ({ loadOut f with owner := .nobody } : Remote).owner = .nobody :=
  ⟨rfl, rfl, rfl, rfl⟩

/-- Context 7's landing register: valid, signals, contributions; `n` entries at `0x2000`. -/
def landWord (n : Nat) : Word := pack [(63, 1), (62, 1), (61, 1), (52, n), (13, 1)]
def fbLand7 : Nat := fbBase + 0x8000 + 8 * 7
/-- An entry: window of 64 KiB at 0 to page 0 of context 7, all kinds, every node. -/
def landEntry : List Word := [pack [(60, 15), (58, 1)], 1, 0, pack [(63, 1)]]
def landed7 : State := { full [] with mem := { Memory.empty with near := put64 0x2000 (landEntry.getD 0 0) ++ put64 0x2008 1 ++ put64 0x2018 (landEntry.getD 3 0) } }

set_option maxRecDepth 8000 in
theorem witness_FabricCommands : takes [] fbLand7 (landWord 1) ∧ takes [] fbLand7 0 ∧ takes [] fbLand7 (landWord 257) ∧ (full []).light.job = none ∧
    (writeFields ((full []).reg fbLand7) (landWord 1) (BitVec.allOnes 64) landFields).1.getLsbD 63 = true ∧
    (writeFields ((full []).reg fbLand7) 0 (BitVec.allOnes 64) landFields).1.getLsbD 63 = false ∧ bits (landWord 257) 52 9 = 257 ∧
    bits (landWord 256) 52 9 ≤ 256 ∧ (∃ s1, (full []).readLanding 0x2000 1 = (s1, none)) ∧
    (∃ s1, landed7.readLanding 0x2000 1 = (s1, some [landEntry])) ∧ takes [] (fbBase + 0x018) 1 ∧ takes [] (fbBase + 0x030) 1 ∧ takes [] (fbBase + 0x0F8) 1 := by
  refine ⟨?_, ?_, ?_, rfl, ?_, ?_, ?_, ?_, ⟨_, Prod.ext rfl ?_⟩, ⟨_, Prod.ext rfl ?_⟩, ?_, ?_, ?_⟩
  all_goals first | exact takes_full _ _ _ (by decide) | decide +kernel

/-- A request of node 9, tile 1, for job 3, at window offset `off`. -/
def asks (k op : BitVec 4) (off n : Nat) : FabricRequest :=
  ⟨k, op, 0, 9, 1, 3, BitVec.ofNat 44 off, 5, n, 5, 0, if k = 2 then List.replicate n 0 else []⟩
/-- Port 0 is up and lands; its unit holds the entries `es` of context 7, whose table of one entry stands at `0x2000`. -/
def lands (es : List (Nat × List Word)) (reg : Word) : State :=
  let s := (st7 [(fbLand7, reg), (lpStatus 0, 5)] .empty ctx7).onPort 0 fun x => { x with entries := es }
  { s with
    mem := { Memory.empty with near := landed7.mem.near } }
def held0 : State := lands [(7, landEntry)] (landWord 1)

/-- The last bytes of the window and one past them; an entry held, one in the table, none. -/
theorem witness_LandingUnitChecks : held0.moving = true ∧ held0.landsOn 0 = true ∧
    FabricRequestListed (asks 1 0 0 8) = true ∧ Instr.wf (.landingCheck 0 (asks 1 0 0 8)) = true ∧
    held0.landingCheck 0 (asks 1 0 0xFFF8 8) = .ok (7, ⟨1, 0xFFF8⟩) ∧ held0.landingCheck 0 (asks 1 0 0xFFF9 8) = .error (3, 0x3020) ∧
    ({ asks 1 0 0 8 with dst := 4 } : FabricRequest).dst.toNat ≠ (lands [] 0).node ∧ (asks 1 0 0 8).dst.toNat = (lands [] 0).node ∧
    (lands [] 0).jobCtx 4 = none ∧ (lands [] 0).jobCtx 3 = some 7 ∧ ((lands [] 0).reg fbLand7).getLsbD 63 = false ∧
    ((lands [] (landWord 1)).reg fbLand7).getLsbD 63 = true ∧ held0.landingEntry 0 7 (asks 1 0 0xFFF8 8) = some landEntry ∧
    (lands [] (landWord 1)).landingEntry 0 7 (asks 1 0 0xFFF8 8) = none ∧ held0.landingEntry 0 7 (asks 1 0 0xFFF9 8) = none := by decide +kernel

theorem witness_LandingUnitChecks_table :
    (∃ s2, ((lands [] (landWord 1)).count (fbBase + 0x048) 1).tableEntry 7 (asks 1 0 0xFFF8 8) = (s2, some landEntry)) ∧
    ∃ s2, (held0.count (fbBase + 0x048) 1).tableEntry 7 (asks 1 0 0xFFF9 8) = (s2, none) := by
  refine ⟨⟨_, Prod.ext rfl ?_⟩, ⟨_, Prod.ext rfl ?_⟩⟩ <;> decide +kernel

/-- A request that its landing unit has forwarded to page 0, with nothing before it. -/
def forward7 (q : FabricRequest) : Forward := ⟨0, q, 7, ⟨1, 0⟩, false⟩
def landing (q : FabricRequest) : State :=
  let s := st7 [] .empty ctx7
  { s with
    light := { s.light with
      forwards := [forward7 q] } }

set_option maxRecDepth 8000 in
/-- A read, a write and both atomics. -/
theorem witness_RequestsLand :
    (∃ s1 ps s2 bs, (landing (asks 1 0 0 8)).targetMeets (forward7 (asks 1 0 0 8)) .none .read = (s1, .ok ps) ∧
      s1.readParts 7 false ps = (s2, .ok bs)) ∧
    (∃ s1 ps s2, (landing (asks 2 0 0 8)).targetMeets (forward7 (asks 2 0 0 8)) .none .write = (s1, .ok ps) ∧
      s1.writeParts 7 .write ps (asks 2 0 0 8).data = (s2, .ok ())) ∧
    (∃ s1 ps s2 bs, (landing (asks 3 0 0 4)).targetMeets (forward7 (asks 3 0 0 4)) .none .atomic = (s1, .ok ps) ∧
      s1.atomicAt 7 ps 4 (fun old => atomValue 0 old 5 0) = (s2, .ok bs)) ∧
    (∃ s1 ps s2 bs, (landing (asks 4 9 0 8)).targetMeets (forward7 (asks 4 9 0 8)) .none .atomic = (s1, .ok ps) ∧
      s1.atomicAt 7 ps 8 (fun old => amoValue 9 old 0 5) = (s2, .ok bs)) := by
  refine ⟨?_, ?_, ?_, ?_⟩
  · exact ⟨_, _, _, _, rfl, rfl⟩
  · exact ⟨_, _, _, rfl, rfl⟩
  all_goals exact ⟨_, _, _, _, rfl, rfl⟩

/-- What a request may meet: an uncorrectable block. -/
theorem witness_RequestsLand_error : ((landing (asks 1 0 0 8)).applyForward (forward7 (asks 1 0 0 8)) .uncorrectable).2 = .error 0x5020 := by
  decide +kernel

/-- An offset past the mapped page. -/
def astray : Forward := { forward7 (asks 1 0 0 8) with target := ⟨1, 0x200000⟩ }
theorem witness_RequestsLand_denied : ((landing (asks 1 0 0 8)).applyForward astray .none).2 = .error 0x3012 ∧ astray.req.kind ≠ 6 ∧
    tst (((landing (asks 1 0 0 8)).applyForward astray .none).1.reg (fbBase + 0x080)) 63 = false ∧
    bits (((landing (asks 1 0 0 8)).applyForward astray .none).1.reg (fbBase + 0x080)) 0 48 < 2 ^ 48 - 1 := by decide +kernel

/-- An earlier write of the same source tile; signals to the last tile and past it. -/
theorem witness_RequestsLand_turns : (landing (asks 2 0 0 8)).light.forwards[0]? = some (forward7 (asks 2 0 0 8)) ∧ (landing (asks 2 0 0 8)).moving = true ∧
    (landing (asks 2 0 0 8)).inOrder 0 (forward7 (asks 2 0 0 8)) = true ∧ (landing (asks 2 0 0 8)).inOrder 1 (forward7 (asks 1 0 0 8)) = false ∧
    (landing (asks 1 0 0 8)).inOrder 1 (forward7 (asks 2 0 0 8)) = false ∧ (landing (asks 1 0 0 8)).inOrder 1 (forward7 (asks 1 0 0 8)) = true ∧
    bits (639 : Word) 0 10 < 640 ∧ 640 ≤ bits (640 : Word) 0 10 ∧ (landing (asks 5 0 0 8)).faultedTile 639 = false ∧ (landing (asks 5 0 0 8)).setRoom 639 7 = true ∧
    (asks 6 0 0 8).kind = 6 := by decide +kernel

/-- A drain with a request out and without. -/
theorem witness_FabricCommands_drains :
    (∃ f ∈ ({ State.reset.light with forwards := [{ forward7 (asks 1 0 0 8) with old := true }] } : Light).forwards, f.old = true) ∧
    ∀ f ∈ (landing (asks 1 0 0 8)).light.forwards, f.old = false := ⟨⟨_, List.mem_singleton.mpr rfl, rfl⟩, by decide⟩

/-- The exit of a response to node 9 and of a block for it; no route without the node map. -/
theorem witness_AnswersLeave : (fabric7 waiting9 node9 reach9).exitOf (9 : BitVec 12).toNat true = .ok (6, false) ∧
    (fabric7 waiting9 0 reach9).exitOf (9 : BitVec 12).toNat false = .error 0x6020 ∧
    (⟨9, 3, 1, 0, 3, true⟩ : Transit).node.toNat ≠ (fabric7 waiting9 node9 reach9).node := by decide +kernel

/-! ### The management ring, contexts and charts -/

/-- The management engine at work on record `ws`, index 2, with contexts `cs`; 16 ring entries and a log of 16; `r` lists further registers. -/
def mg7 (cur : Option (List Word × Nat)) (cs : FMap Ctx) (r : FMap Word) (host : FMap Byte) : State :=
  let s := full ((hiBase + 0x040, 0x10404) :: r)
  { s with
    ctxs := cs
    mgmt := { s.mgmt with
      current := cur }
    mem := { s.mem with
      host := host } }
def mgWords (op w1 : Nat) : List Word := [pack [(56, op)], BitVec.ofNat 64 w1, 0, 0, 0, 0, 0, 0]
/-- A tail word of 1 and, at the ring's head, a record. -/
def tail1 (ws : List Word) : FMap Byte :=
  put64 (hostKey pf0Space 0) (ws.getD 0 0) ++ put64 (hostKey pf0Space 8) (ws.getD 1 0) ++ put64 (hostKey pf0Space 0x4000) 1

theorem ok_some {α : Type} (x : State × Except Status α) (h : (match x.2 with | .ok _ => true | .error _ => false) = true) : ∃ s1 v, x = (s1, .ok v) := by
  match x, h with
  | (s1, .ok v), _ => exact ⟨s1, v, rfl⟩

/-- As many chart loads as the host interface may have reads outstanding. -/
def reads768 : State := { mg7 none [] [] [] with mgmt := { (mg7 none [] [] []).mgmt with loads := List.replicate 768 (Load.mk 7 3 1 0 0 []) } }

/-- A tail that has moved and one that has not; a tail read just due. -/
theorem witness_ManagementSweeps : (mg7 none [] [(hiBase + 0x030, 0x4000)] (tail1 (mgWords 0x11 7))).mgmtRuns = true ∧
    FMap.find? (mg7 none [] [] []).mgmt.swept 512 = none ∧
    ({ mg7 none [] [] [] with chron := 2000 } : State).intervalPast 0 2 = true ∧ ({ mg7 none [] [] [] with chron := 1999 } : State).intervalPast 0 2 = false ∧
    (mg7 none [] [] []).logRoom = true ∧ (mg7 none [] [] []).mgmt.current = none ∧ (mg7 none [] [] []).hostReadFree = true ∧ reads768.hostReadFree = false ∧
    ofBytes ((mg7 none [] [] (tail1 (mgWords 0x11 7))).hostRead pf0Space 0x4000 4) = 1 ∧
    wordsOf 8 ((mg7 none [] [] (tail1 (mgWords 0x11 7))).hostRead pf0Space 0 64) = mgWords 0x11 7 ∧ mgLegal (mgWords 0x11 7) = true ∧ mgLegal (mgWords 0x14 7) = false ∧
    (∃ s1 v, (mg7 none [] [] []).readPart 0xFFF false ⟨.host pf0Space 0x4000, 8, none, 0, 0⟩ = (s1, .ok v)) ∧
    ((mg7 none [] [(hiBase + 0x020, 0)] []).readPart 0xFFF false ⟨.host pf0Space 0, 64, none, 0, 0⟩).1.mgmt = (mg7 none [] [(hiBase + 0x020, 0)] []).mgmt := by
  refine ⟨?_, ?_, ?_, ?_, ?_, ?_, ?_, ?_, ?_, ?_, ?_, ?_, ok_some _ ?_, ?_⟩
  all_goals decide +kernel

theorem witness_RecordsEnd : recorded 0x2104 = false ∧ (mg7 none [] [] []).mgmt.stopping = false ∧ (mg7 none [] [] []).mgmt.events = [] ∧
    (mg7 none [] [] []).logRoom = true ∧ (full []).logRoom = false := by decide +kernel

/-- One state for each outcome of the context records. -/
theorem witness_ContextRecords : (mg7 (some (mgWords 0x10 0, 2)) [] [] []).record? 0x10 = some (mgWords 0x10 0, 2) ∧
    (mg7 (some (mgWords 0x11 7, 2)) [(7, { ctx7 with home := none })] [] []).record? 0x11 = some (mgWords 0x11 7, 2) ∧
    (mg7 (some (mgWords 0x12 7, 2)) [(7, ctx7)] [] []).record? 0x12 = some (mgWords 0x12 7, 2) ∧
    (mg7 (some (mgWords 0x13 7, 2)) [(7, ctx7)] [] []).record? 0x13 = some (mgWords 0x13 7, 2) ∧
    mgCtx (mgWords 0x12 (7 + 5 * 2 ^ 18)) = 7 ∧ mgTile (mgWords 0x12 (7 + 5 * 2 ^ 18)) = 5 ∧ (mg7 none [] [] []).ctx? 7 = none ∧
    (mg7 none [(7, ctx7)] [] []).live? 7 = some ctx7 ∧ ctx7.home.isSome = true ∧ ({ ctx7 with steps := [step1 .running] } : Ctx).flights ≠ 0 ∧
    (mg7 none [] [(tileBase 5 + 0x008, 0x26)] []).partitionedFrom 5 7 = true ∧ (mg7 none [] [(tileBase 5 + 0x008, 0x1E)] []).partitionedFrom 5 7 = false ∧
    (mg7 none [] [] []).freeSlot 5 = some 0 ∧ ((List.range 16).all fun n => decide ((mg7 none [] ((List.range 16).map fun n => (tileBase 5 + 0x810 + 8 * n, 0x1009)) []).slotCtx 5 n ≠ none)) = true ∧
    (newCtx cr7).st = .unbound ∧ ctx7.st ≠ .faulted ∧ ({ ctx7 with st := .faulted } : Ctx).home.isSome = true := by decide +kernel

theorem find_none {β : Type} (m : FMap β) (k : Nat) (h : ∀ p ∈ m, p.1 ≠ k) : FMap.find? m k = none := by
  induction m with
  | nil => rfl
  | cons p m ih =>
    unfold FMap.find?
    rw [if_neg (h p (List.mem_cons_self ..)), ih fun q hq => h q (List.mem_cons_of_mem _ hq)]

/-- With no tile register listed, a tile register reads its reset value, here 0. -/
theorem tile_zero (s : State) (h : (s.regs.all fun p => p.1 < 0x100000) = true) (t o : Nat) (ht : t < 640) (ho : o < 0x1000)
    (hr : (match tileRows.find? fun r => r.covers o with | some r => BitVec.ofNat 64 r.reset | none => 0) = (0 : Word)) : s.reg (tileBase t + o) = 0 := by
  have hw : window (tileBase t + o) = (tileRows, o) := by
    unfold window inTile tileBase
    rw [if_pos (by simp; omega)]
    exact congrArg _ (by omega)
  have hz : resetAt (tileBase t + o) = 0 := by
    unfold resetAt rowAt
    rw [hw]
    exact hr
  unfold State.reg FMap.get
  rw [find_none s.regs _ fun p hp => by
    have := List.all_eq_true.1 h p hp
    simp only [decide_eq_true_eq] at this
    unfold tileBase
    omega, hz]
  rfl

/-- Every region entry is then empty. -/
theorem entry_empty (s : State) (h : (s.regs.all fun p => p.1 < 0x100000) = true) (t n : Nat) (ht : t < 640) (hn : n < 16) : s.spEntry t n = 0 :=
  tile_zero s h t _ ht (by omega) (by
    have : ∀ k, k < 16 → (match tileRows.find? fun r => r.covers (0x100 + 8 * k) with | some r => BitVec.ofNat 64 r.reset | none => 0) = (0 : Word) := by
      decide +kernel
    exact this n hn)

theorem witness_ContextRecords_destroy : (∀ t n, t < 640 → n < 16 → ((mg7 none [(7, ctx7)] [] []).treg t (0x100 + 8 * n)).getLsbD 28 = false) ∧
    (mg7 none [(7, ctx7)] [] []).mgmt.loads = [] ∧ ctx7.steps = [] ∧ ctx7.destroying = false :=
  ⟨fun t n ht hn => by
    have h : (mg7 none [(7, ctx7)] [] []).treg t (0x100 + 8 * n) = 0 := entry_empty _ (by decide) t n ht hn
    rw [h]; rfl, rfl, rfl, rfl⟩

def dying : Ctx := { ctx7 with destroying := true }

theorem witness_DestroyEnds : (mg7 (some (mgWords 0x11 7, 2)) [(7, dying)] [] []).ctx? 7 = some dying ∧ dying.destroying = true ∧
    (mg7 none [(7, dying)] [] []).destroyBusy 7 dying = false ∧ (mg7 none [] [] []).safety.safe = false ∧ (mg7 none [] [] []).fixed = false ∧
    mgOp (mgWords 0x11 7) = 0x11 ∧ mgCtx (mgWords 0x11 7) = 7 ∧ (mg7 (some (mgWords 0x11 7, 2)) [(7, dying)] [] []).mgmt.current = some (mgWords 0x11 7, 2) := by
  refine ⟨by decide, rfl, ?_, rfl, by decide +kernel, by decide +kernel, by decide +kernel, rfl⟩
  have h : (allTiles.any fun t => (List.range 16).any fun n =>
      let v := (mg7 none [(7, dying)] [] []).spEntry t n
      tst v 29 && ! tst v 28 && bits v 0 12 = 7) = false := by
    rw [List.any_eq_false]
    intro t ht
    rw [Bool.not_eq_true, List.any_eq_false]
    intro n hn
    rw [entry_empty _ (by decide) t n (List.mem_range.1 ht) (List.mem_range.1 hn)]
    decide
  unfold State.destroyBusy
  rw [h]
  rfl

/-- Chart 3 of context 7 with generations as given. -/
def charted (gs : List Gen) : Ctx := { ctx7 with charts := [(3, ⟨gs, 4⟩)] }
def gen (n : Nat) (st : GenState) : Gen := ⟨n, st, 0, 0, 0, 0, []⟩
/-- Word 1 of a record for chart 3, generation `g`, of context 7. -/
def chartWord (g : Nat) : Nat := 7 + 3 * 2 ^ 28 + g * 2 ^ 34

theorem witness_WeightCharts :
    (mg7 (some (mgWords 0x20 (chartWord 0), 2)) [] [] []).record? 0x20 = some (mgWords 0x20 (chartWord 0), 2) ∧ 4 ≤ (List.replicate 4 (Load.mk 7 3 1 0 0 [])).length ∧
    (List.replicate 3 (Load.mk 7 3 1 0 0 [])).length < 4 ∧ (mg7 none [(7, charted [gen 1 .ready])] [] []).live? (mgCtx (mgWords 0x20 (chartWord 0))) = some (charted [gen 1 .ready]) ∧
    3 ≤ ((charted [gen 1 .ready, gen 2 .current, gen 3 .loading, gen 4 .retired]).liveGens 3).length ∧ ((charted [gen 1 .ready, gen 2 .failed, gen 3 .loading]).liveGens 3).length < 3 ∧
    [Load.mk 7 3 1 0 0 []].find? (fun y => y.ctx = 7 && y.chart = 3) = some (Load.mk 7 3 1 0 0 []) ∧
    (mg7 (some (mgWords 0x21 (chartWord 1), 2)) [] [] []).record? 0x21 = some (mgWords 0x21 (chartWord 1), 2) ∧
    (mg7 (some (mgWords 0x22 (chartWord 1), 2)) [] [] []).record? 0x22 = some (mgWords 0x22 (chartWord 1), 2) ∧ mgChart (mgWords 0x21 (chartWord 1)) = 3 ∧
    mgGen (mgWords 0x21 (chartWord 1)) = 1 ∧ (charted [gen 1 .ready]).gen? 3 1 = some (gen 1 .ready) ∧ (charted [gen 1 .ready]).current? 3 = none ∧
    (charted [gen 1 .ready, gen 2 .current]).current? 3 = some 2 ∧ ((charted [gen 1 .loading]).gen? 3 1).map (·.st) ≠ some .ready ∧ (charted []).gen? 3 1 = none := by
  decide +kernel

/-! ### The host link, functions, security -/

/-- One thing that waits for a completion, of each kind. -/
theorem witness_HostCompletionErrors : plain7.linkUp = true ∧ plain7.safety.safe = false ∧ plain7.sweeps = true ∧ plain7.lineDue 0 = true ∧ plain7.lineFirst 0 = true ∧
    (mg7 none [] [] []).mgmtRuns = true ∧
    ((ring7 { r0 with fetching := some 3, fails := 6 } [] none []).ctx? 7).map (fun y => (y.ring.fetching, y.ring.fails + 1)) = some (some 3, 7) ∧
    (let s := work7 { Work.empty with running := [{ moverRun 0x21 .read with reqs := [{ askOf .read with parts := [⟨.host 9 0, 64, none, 0, 0⟩] }] }] }
     ((((s.tile 5).work.issuedReqs 6).filter fun p => p.2.host)[0]?).isSome = true) ∧
    ((run7 { Slot.empty with stall := .fence 2, posted := true }).tile 5 |>.slot 2).fencing = true ∧ ((run7 { Slot.empty with stall := .tsig 9 5 1, posted := true }).tile 5 |>.slot 2).fencing = true ∧
    (mg7 none [] [] []).mgmt.loads.find? (fun l => l.ctx = 7 && l.chart = 3 && l.num = 1) = none ∧
    [Load.mk 7 3 2 0 0 [], Load.mk 7 3 1 0 0 []].find? (fun l => l.ctx = 7 && l.chart = 3 && l.num = 1) = some (Load.mk 7 3 1 0 0 []) ∧
    (plain7.ftReads ⟨3, true, [], [], false, 0⟩ = true) ∧ (FtCmd.mk 3 true [1] [] false 0).fetching = false ∧
    plain7.fixed = false ∧ (full [(dbBase + 0x008, 4)]).fixed = true ∧ (full [(dbBase + 0x008, 4)]).linkUp = true ∧
    (full [(dbBase + 0x008, 4)]).safety.safe = false := by decide +kernel

/-- A mover's read of the host that is out. -/
def hostRead21 : Run := { moverRun 0x21 .read with reqs := [{ askOf .read with parts := [⟨.host 9 0, 64, none, 0, 0⟩] }] }
theorem witness_HostCompletionErrors_request : (work7 { Work.empty with running := [hostRead21] }).req? 5 hostRead21.ord (askOf .read).seq =
    some (hostRead21, { askOf .read with parts := [⟨.host 9 0, 64, none, 0, 0⟩] }) := by decide +kernel

/-- A link that is down, before SAFE_MIN and after it; rates and widths at their ends. -/
def down (stage : Nat) : State := { full [] with regs := [(hiBase, 0), (bnBase + 0x008, BitVec.ofNat 64 stage)] }

theorem witness_HostLinkStates : (down 6).linkUp = false ∧ (full []).linkUp = true ∧ (full []).tiles = [] ∧ (full []).ctxs = [] ∧ (full []).mgmt.loads = [] ∧
    (full []).sec.cmd = none ∧ linkMode 1 1 = true ∧ linkMode 7 16 = true ∧ linkMode 0 1 = false ∧ linkMode 8 16 = false ∧ linkMode 7 3 = false ∧
    (down 6).safety.safe = false ∧ (down 6).normal = true ∧ (down 6).stage = 6 ∧ (down 0).stage = 0 ∧ (down 0x81).stage = 0x81 ∧
    100000000 ≤ (({ down 0x81 with chron := 100000000 } : State).chron - (down 0x81).start.since).toNat ∧ takes [] (hiBase + 0x1F8) 1 := by
  refine ⟨?_, ?_, rfl, rfl, rfl, rfl, ?_, ?_, ?_, ?_, ?_, rfl, ?_, ?_, ?_, ?_, ?_, takes_full _ _ _ (by decide)⟩
  all_goals decide +kernel

theorem witness_FunctionResets : (st7 [] .empty ctx7).safety.safe = false ∧ (st7 [] .empty ctx7).normal = true ∧ (st7 [] .empty ctx7).mgmt.current = none ∧
    (mg7 (some (mgWords 0x11 7, 2)) [] [] []).mgmt.current.isSome = true ∧ (down 6).linkUp = false ∧ (down 6).ctxs = [] := by decide +kernel

/-- Minimum versions at the ends of what may be set: 3 fused, 9 running. -/
def secured (c : Option SecCmd) : State := { full [] with sec := { Secure.empty with cmd := c, addr := 0x1000, fused := 3, fusedB := 5, running := 9 } }

theorem witness_SecurityCommands : (∀ o ∈ [0x018, 0x028, 0x108, 0x208], takes [] (scBase + o) 1) ∧ (secured (some .cert)).sec.cmd.isSome = true ∧
    (secured none).sec.cmd = none ∧ ([4, 9].all fun n => decide ((secured none).fusedOf (secured none).activeB < bits (BitVec.ofNat 64 n) 0 7 ∧ bits (BitVec.ofNat 64 n) 0 7 ≤ (secured none).sec.running)) = true ∧
    ([3, 10].all fun n => decide (bits (BitVec.ofNat 64 n) 0 7 ≤ (secured none).fusedOf (secured none).activeB ∨ (secured none).sec.running < bits (BitVec.ofNat 64 n) 0 7)) = true ∧
    takes [] (scBase + 0x208) 0x1007 ∧ (0x1007 : Word).getLsbD 12 = true ∧ (full []).live? (bits (0x1007 : Word) 0 12) = none ∧
    (st7 [] .empty ctx7).live? (bits (0x1007 : Word) 0 12) ≠ none ∧
    (∃ s1 v, (secured none).readPart 0xFFF false ⟨.host pf0Space (((secured none).reg (scBase + 0x200)).toNat + 0x20), 64, none, 0, 0⟩ = (s1, .ok v)) ∧
    takes [] (scBase + 0x308) 0x11 ∧ takes [] (scBase + 0x308) 0x12 ∧ takes [(scBase + 0x008, 1)] (scBase + 0x308) 0x11 ∧
    ((full [(scBase + 0x008, 1)]).reg (scBase + 0x008)).getLsbD 0 = true ∧ takes [] (scBase + 0x008) 1 ∧ takes [] (scBase + 0x008) 0 := by
  refine ⟨?_, rfl, rfl, ?_, ?_, ?_, ?_, ?_, ?_, ok_some _ ?_, ?_, ?_, ?_, ?_, ?_, ?_⟩
  · intro o ho
    simp only [List.mem_cons, List.not_mem_nil, or_false] at ho
    rcases ho with rfl | rfl | rfl | rfl <;> exact takes_full _ _ _ (by decide)
  all_goals first | exact takes_full _ _ _ (by decide) | decide +kernel

/-- A key record with exponent 65,537 and the modulus's first and last bits set. -/
def keyBytes : List Byte := bytesOf 4 65537 ++ List.replicate 508 0 ++ 0x80 :: List.replicate 510 0 ++ [1]

theorem witness_SecurityCommandsEnd : (secured (some (.verify 0))).sec.cmd = some (.verify 0) ∧ (secured (some (.svn 9))).start.boot ≠ .warmWait ∧
    (secured (some .cert)).linkUp = true ∧ keyFormat keyBytes = true ∧ keyFormat (List.replicate 1024 0) = false ∧ (15 : Nat) < 16 ∧
    (secured (some (.verify 0))).stage ≠ 1 ∧ (down 1).stage = 1 ∧
    (∃ s1 bs, (secured (some (.key 15 true))).readPart 0xFFF false ⟨.host pf0Space (secured (some (.key 15 true))).sec.addr, 1024, none, 0, 0⟩ = (s1, .ok bs)) := by
  refine ⟨rfl, ?_, ?_, ?_, ?_, ?_, ?_, ?_, ok_some _ ?_⟩
  all_goals decide +kernel

/-- An entry for context 7, alone and beside another that names it. -/
theorem witness_PartitionEntries : takes [] (scBase + 0x380) 0x8000000000000007 ∧ takes [] (scBase + 0x3B8) 0 ∧ (full []).live? 7 = none ∧
    (st7 [] .empty ctx7).live? (bits (0x8000000000000007 : Word) 0 12) ≠ none ∧
    (st7 [(scBase + 0x388, 0x8000000000000007)] .empty ctx7).accepts (scBase + 0x380) (wr 0x8000000000000007) 0x8000000000000007 (BitVec.allOnes 64) ∧
    ((st7 [(scBase + 0x388, 0x8000000000000007)] .empty ctx7).reg (scBase + 0x380 + 8 * 1)).getLsbD 63 = true ∧
    ((List.range 8).all fun i => ! ((st7 [] .empty ctx7).reg (scBase + 0x380 + 8 * i)).getLsbD 63) = true := by
  refine ⟨takes_full _ _ _ (by decide), takes_full _ _ _ (by decide), ?_, ?_, accepts_of _ _ _ ?_, ?_, ?_⟩
  all_goals decide +kernel

/-! ### Power, capping, thermal control -/

/-- Power phase and commanded state as given, at FULL. -/
def phased (ph : Nat) (p : Power) (chron : Word) : State := { full [] with power := { p with phase := ph }, chron := chron }

theorem witness_PowerStates : (∀ k ∈ [1, 2, 3], takes [] (pwBase + 0x008) (BitVec.ofNat 64 k) ∧ bits (BitVec.ofNat 64 k) 0 2 = k) ∧
    (phased 4 .empty 0).power.phase = 4 ∧ (phased 2 .empty 0).power.phase = 2 ∧ (full []).power.phase = 1 ∧ (full []).stowBusy = false ∧
    (step7 (step1 .running) .empty).stowBusy = true ∧ ((List.range 8).all fun p => decide ((full []).portState p ≠ 5)) = true ∧
    (phased 2 .empty 0).power.trimmed = false ∧ (phased 4 .empty 0).sextant = true ∧ (phased 5 .empty 0).sextant = true ∧
    1000000000 ≤ ((phased 1 { Power.empty with trimmed := true, cool := some 0 } 1000000000).chron - 0).toNat ∧ (639 : Nat) ∉ (phased 5 .empty 0).power.held := by
  refine ⟨?_, rfl, rfl, rfl, ?_, ?_, ?_, rfl, ?_, ?_, ?_, ?_⟩
  · intro k hk
    simp only [List.mem_cons, List.not_mem_nil, or_false] at hk
    rcases hk with rfl | rfl | rfl <;> exact ⟨takes_full _ _ _ (by decide), by decide⟩
  all_goals decide +kernel

/-- The cap at its limits, in both modes. -/
theorem witness_HostCap : takes [] (pwBase + 0x018) 5601 ∧ takes [] (pwBase + 0x018) 5600 ∧ takes [] (pwBase + 0x018) 1199 ∧ takes [(pwBase + 0x028, 1)] (pwBase + 0x018) 4399 ∧
    takes [(pwBase + 0x028, 1)] (pwBase + 0x018) 4400 ∧ ((full [(pwBase + 0x028, 1)]).reg (pwBase + 0x028)).getLsbD 0 = true ∧
    ((full []).reg (pwBase + 0x028)).getLsbD 0 = false ∧ bits (1199 : Word) 0 16 < 1200 ∧ bits (5601 : Word) 0 16 > 5600 ∧ (full []).power.lowRack = false ∧
    takes [(pwBase + 0x018, 4399)] (pwBase + 0x028) 1 ∧ max 1200 (min (bits ((full [(pwBase + 0x018, 4399)]).reg (pwBase + 0x018)) 0 16) (full []).power.rackCap) < 4400 ∧
    takes [] (pwBase + 0x028) 3 ∧ 4400 ≤ (full []).effCap ∧ takes [] (pwBase + 0x028) 2 ∧ takes [] (pwBase + 0x0F8) 1 ∧ takes [] (sxBase + 0x3F8) 1 ∧
    BitVec.allOnes 64 &&& 0xFFFF#64 ≠ 0 := by
  refine ⟨?_, ?_, ?_, ?_, ?_, ?_, ?_, ?_, ?_, rfl, ?_, ?_, ?_, ?_, ?_, ?_, ?_, ?_⟩
  all_goals first | exact takes_full _ _ _ (by decide) | decide +kernel

/-- A write of the upper half of `PW_CAP`, which names no bit of the cap. -/
theorem witness_HostCap_upper : (full []).accepts (pwBase + 0x018) ⟨0, 4, 4, 7⟩ (7 * 2 ^ 32) (0xFFFFFFFF00000000#64) ∧ (0xFFFFFFFF00000000#64) &&& 0xFFFF#64 = 0 :=
  ⟨⟨rfl, by decide +kernel, Boot.noConfusion, rfl, by decide +kernel, fun h => absurd h (by decide +kernel), by decide +kernel⟩, by decide⟩

/-- A rack line at Near address `0x4000`: sequence, cap. -/
def rack (seq cap : Nat) : State :=
  let s := full [(sxBase + 0x010, 0x8000000000004000)]
  { s with
    mem := { s.mem with
      near := put64 0x4000 (BitVec.ofNat 64 seq) ++ put64 0x4008 (BitVec.ofNat 64 cap) } }

theorem witness_RackLease : (rack 1 5600).rackRuns = true ∧ (rack 1 5600).due 2 5000 = true ∧ (rack 1 5600).due 3 1000000 = true ∧ tierOf (rack 1 5600).rackLine = .near ∧
    (∃ s1, ((rack 1 5600).acted 2).readPart 0xFFF true ⟨.pa (rack 1 5600).rackLine, 64, none, 0, 0⟩ =
      (s1, .ok (bytesOf 8 1 ++ bytesOf 8 5600 ++ List.replicate 48 0))) ∧
    wordsOf 8 (bytesOf 8 1 ++ bytesOf 8 5600 ++ List.replicate 48 0) = [1, 5600, 0, 0, 0, 0, 0, 0] ∧
    ([1, 2 ^ 31 - 1].all fun a => decide (a ≠ 0 ∧ a < 2 ^ 31)) = true ∧ ([0, 2 ^ 31].all fun a => decide (a = 0 ∨ 2 ^ 31 ≤ a)) = true ∧
    tierOf ((rack 1 5600).rackLine + 64) = .near ∧ ((rack 1 5600).reg (sxBase + 0x010)).getLsbD 63 = true ∧
    30000000000 ≤ ((30000000000 : Word) - 0).toNat := by
  refine ⟨?_, ?_, ?_, ?_, ⟨_, Prod.ext rfl ?_⟩, ?_, ?_, ?_, ?_, ?_, ?_⟩
  all_goals decide +kernel

/-- Die 0 has drooped. -/
def drooping : State := { full [] with power := { (full []).power with droops := [(0, 1)] } }

/-- A valid rail and one that is not; the last tile die and the first other; a droop at the limit and past it. -/
theorem witness_RailsAndDroop : (full []).sextant = true ∧ (List.replicate 16 (none : Option (BitVec 16 × BitVec 16))).length = 16 ∧ (full []).due 4 1000000 = true ∧
    ((full [(sxBase + 0x178, 0x8000000000000000)]).reg (sxBase + 0x100 + 8 * 15)).getLsbD 63 = true ∧ ((full []).reg (sxBase + 0x100 + 8 * 15)).getLsbD 63 = false ∧
    (79 : Fin 100).val < 80 ∧ 80 ≤ (80 : Fin 100).val ∧ bits ((full [(pwBase + 0x040, 30)]).reg (pwBase + 0x040)) 0 8 = 30 ∧
    FMap.find? (full []).power.droops 79 = none ∧ FMap.find? drooping.power.droops 0 = some 1 := by decide +kernel

/-- The last nanosecond of 256 cycles at half of 550 MHz, and the next. -/
theorem witness_RailsAndDroop_end : drooping.droopPast 0 930 = false ∧ drooping.droopPast 0 931 = true := by decide +kernel

/-- Tile 5 at point 1 on its way to 2, its neighbours within 120 mV at point 1, or one at point 7. -/
def pointed (q : Nat) : State :=
  let x := fun (p w : Nat) => { TileState.empty with upkeep := { Upkeep.empty with point := p, wanted := w } }
  { full [] with tiles := [(4, x 1 1), (5, x 1 2), (6, x q 1), (25, x 1 1)] }

theorem witness_SextantCycles : (full []).due 0 1000 = true ∧ (full []).due 1 20000 = true ∧ (full [(pwBase + 0x038, 32)]).clampActs = true ∧ (pointed 1).moving = true ∧
    ((pointed 1).tile 5).upkeep.point ≠ ((pointed 1).tile 5).upkeep.wanted ∧
    ((List.range 4).all fun p => match neighbour 5 p with | some n => near120 2 ((pointed 1).tile n).upkeep.point | none => true) = true ∧
    neighbour 5 0 = some 6 ∧ near120 2 ((pointed 7).tile 6).upkeep.point = false ∧ (full []).stage = 6 ∧ (full []).running = true ∧
    (full []).isFixedFreq = false ∧ (full []).normal = true ∧ ((full []).tile 5).upkeep.point < 8 ∧
    (full [(pwBase + 0x028, 1)]).isFixedFreq = true ∧ (full []).clampActs = false ∧ (full []).due 5 1000000 = true := by decide +kernel

/-- Temperatures at the limits of the steps, in units of 1/16 °C. -/
theorem witness_ThermalControl : (List.replicate 100 (1520#16)).length = 100 ∧ (full []).due 6 10000 = true ∧ (full []).due 7 100000 = true ∧ (full []).due 8 10000000 = true ∧
    (full []).due 9 100000 = true ∧ (full []).power.clamped = [] ∧ (full []).ceiling 99 < 8 ∧
    (95 : Int) * 16 ≤ (full [(sxBase + 0x818, 1520)]).tempOf 99 ∧ ¬ (95 : Int) * 16 ≤ (full [(sxBase + 0x818, 1519)]).tempOf 99 ∧
    (full [(sxBase + 0x500, 641), (sxBase + 0x508, 0)]).hotterBy 0 40 = true ∧ (full [(sxBase + 0x500, 0), (sxBase + 0x508, 0)]).hotterBy 0 40 = false ∧
    (full []).start.boot ≠ .off ∧ (full []).inReset = false ∧ State.reset.start.boot ≠ .off ∧ State.reset.inReset = true := by decide +kernel

/-! ### Resets, staged start, the safe state -/

/-- The package in a boot phase and stage, since 0. -/
def booting (b : Boot) (stage : Nat) (chron : Word) (x : Start) : State :=
  { full [] with
    regs := [(hiBase, 0x800), (bnBase + 0x008, BitVec.ofNat 64 stage), (bnBase + 0x018, 0)], chron := chron
    start := { x with
      boot := b, resetLow := false, perstLow := false } }

/-- Power is removed and every power-good land low; `e` says whether the emergency-off land is low. -/
def unpowered (e : Bool) (pg : BitVec 16) : State :=
  let s := booting .off 6 0 .reset
  { s with safety := { s.safety with pg := pg, eoff := e } }

theorem witness_ColdResets : (full []).start.boot ≠ .off ∧ (full []).safety.eoff = false ∧ (unpowered true 0).start.boot = .off ∧ (unpowered true 0).safety.pg = 0 ∧
    (unpowered true 0).safety.safe = false ∧ (unpowered true 0).safety.eoff = true ∧ (unpowered false 0).safety.eoff = false ∧ (unpowered false 1).safety.pg ≠ 0 ∧
    (secured none).sec.cmd ≠ some (.svn 9) ∧ (secured (some (.svn 9))).sec.cmd = some (.svn 9) ∧ (secured (some (.svn 9))).sec.fused ≤ 9 ∧
    (secured (some (.svn 9))).sec.fusedB ≤ 9 := by decide

/-- The safe state under emergency-off, which a reset land's fall meets too. -/
theorem witness_ColdResets_safe : ({ full [] with safety := { Safety.reset with safe := true, eoff := true } } : State).safety.safe = true := rfl

/-- Straps of odd and even parity; held by nothing, by emergency-off, by one power-good land; both reset lands high, and one low. -/
theorem witness_ResetReleases : State.reset.start.boot ≠ .off ∧ State.reset.start.resetLow = true ∧ State.reset.safety.safe = false ∧ State.reset.safety.eoff = false ∧
    State.reset.safety.pg = 0xFFFF ∧ ({ State.reset with safety := { State.reset.safety with eoff := true } } : State).safety.eoff = true ∧
    ({ State.reset with safety := { State.reset.safety with pg := 0x7FFF } } : State).safety.pg ≠ 0xFFFF ∧ (unpowered false 0).start.boot = .off ∧
    (full []).start.resetLow = false ∧ (full []).start.perstLow = false ∧
    ({ full [] with start := { (full []).start with perstLow := true } } : State).start.perstLow = true ∧
    (List.range 8).countP (fun i => (0x85#8).getLsbD i) % 2 = 1 ∧ ¬ (List.range 8).countP (fun i => (0x84#8).getLsbD i) % 2 = 1 := by decide

theorem witness_WarmResets : takes [] (bnBase + 0x028) 3 ∧ takes [] (bnBase + 0x028) 1 ∧ (3 : Word).getLsbD 0 = true ∧
    (booting .warmFlush 6 0 .reset).accepts (bnBase + 0x028) (wr 1) 1 (BitVec.allOnes 64) ∧ (full []).start.boot = .stage ∧ (full []).dbg.deferred = [] ∧ (full []).sec.cmd = none ∧ (full []).ctxs = [] ∧
    (secured (some (.svn 9))).accepts (bnBase + 0x028) (wr 1) 1 (BitVec.allOnes 64) ∧ (booting .warmFlush 6 0 .reset).tiles = [] ∧
    10000000 ≤ ((booting .warmFlush 6 10000000 .reset).chron - Start.reset.since).toNat ∧ (booting .warmFlush 6 0 .reset).safety.safe = false ∧
    1000000 ≤ ((booting .warmHold 6 1000000 .reset).chron - Start.reset.since).toNat ∧ (booting .warmHold 6 0 { Start.reset with kept := true }).start.kept = true := by
  refine ⟨?_, ?_, ?_, ⟨rfl, ?_, Boot.noConfusion, rfl, ?_, fun h => absurd h ?_, rfl, ?_⟩, rfl, rfl, rfl, rfl, accepts_of _ _ _ ?_, rfl, ?_, rfl, ?_, rfl⟩
  all_goals first | exact takes_full _ _ _ (by decide) | decide +kernel

/-- The last tile and one past it; a tile that is held and empty, one that is not, one whose reset runs. -/
theorem witness_TileResets : takes [] (bnBase + 0x040) 640 ∧ takes [] (bnBase + 0x040) 639 ∧ bits (639 : Word) 0 10 < 640 ∧ 640 ≤ bits (640 : Word) 0 10 ∧
    (full []).start.tileReset = none ∧ (full []).start.boot = .stage ∧ (full []).tileFree 639 = true ∧ ready.tileFree 5 = false ∧
    (booting .stage 6 0 { Start.reset with tileReset := some 639 }).start.tileReset = some 639 ∧ ((full []).tile 639).upkeep.point = 0 ∧
    ((fullT [] { TileState.empty with upkeep := { Upkeep.empty with point := 1 } }).tile 5).upkeep.point ≠ 0 ∧
    (booting .stage 6 0 { Start.reset with tileReset := some 639 }).accepts (bnBase + 0x040) (wr 5) 5 (BitVec.allOnes 64) := by
  refine ⟨?_, ?_, ?_, ?_, rfl, rfl, ?_, ?_, rfl, ?_, ?_, accepts_of _ _ _ ?_⟩
  all_goals first | exact takes_full _ _ _ (by decide) | decide +kernel

/-- Ages at a stage's limit and past it. -/
theorem witness_StagedStart_limits : (∀ q ∈ [(2, 30000000000), (3, 5000000000), (5, 10000000000)],
    let at_ := booting .stage q.1 (BitVec.ofNat 64 q.2) .reset
    let past := booting .stage q.1 (BitVec.ofNat 64 (q.2 + 1)) .reset
    at_.inStage q.1 = true ∧ (at_.chron - at_.start.since).toNat = q.2 ∧ past.inStage q.1 = true ∧ q.2 < (past.chron - past.start.since).toNat) ∧
    (List.replicate 12 (some false)).length = 12 ∧ (List.replicate 24 (some (0 : BitVec 2))).length = 24 := by decide +kernel

/-- Each stage with the outcomes that it can have; enough memory exactly, and one stack short; the time limits just over. -/
theorem witness_StagedStart :
    ((booting .stage 2 0 .reset).inStage 2 ∧ (booting .stage 3 0 .reset).inStage 3 ∧ (booting .stage 4 0 .reset).inStage 4 ∧ (booting .stage 5 0 .reset).inStage 5) ∧
    (let s := { booting .stage 2 0 .reset with regs := [(bnBase + 0x008, 2), (bnBase + 0x018, 0x60C)] }
     s.inStage 2 = true ∧ bits (s.reg (bnBase + 0x018)) 0 4 ≤ (List.replicate 12 (some false)).countP (·.isSome) ∧
       ¬ bits (s.reg (bnBase + 0x018)) 0 4 ≤ (none :: List.replicate 11 (some false)).countP (·.isSome) ∧
       bits (s.reg (bnBase + 0x018)) 8 4 ≤ (List.range 6).countP fun g => ! groupAbsent (List.replicate 24 (some 0)) g) ∧
    ({ booting .stage 3 0 .reset with regs := [(bnBase + 0x008, 3), (lpBase + 0x008, 0x80)] } : State).coordValid = true ∧ (booting .stage 3 0 .reset).coordValid = false ∧
    ((List.range 8).all fun q => decide (({ booting .stage 4 0 .reset with regs := (bnBase + 0x008, 4) :: (List.range 8).map fun q => (lpStatus q, 1) } : State).portState q ∈ [1, 5, 6])) = true ∧
    2000000000 ≤ ((booting .stage 4 2000000000 .reset).chron - Start.reset.since).toNat ∧
    30000000000 < ((booting .stage 2 30000000001 .reset).chron - Start.reset.since).toNat ∧ (booting .stage 2 30000000001 .reset).stage = 2 ∧
    takes [] (bnBase + 0x020) 2 ∧ takes [] (bnBase + 0x020) 1 ∧ (full []).stage < 0x80 ∧
    (booting .stage 0x82 0 .reset).accepts (bnBase + 0x020) (wr 1) 1 (BitVec.allOnes 64) ∧ 0x80 ≤ (booting .stage 0x82 0 .reset).stage ∧
    (booting .stage 0x82 0 .reset).stage ≠ 0x84 := by
  refine ⟨?_, ?_, ?_, ?_, ?_, ?_, by decide +kernel, ?_, ?_, ?_, ?_, ⟨rfl, ?_, Boot.noConfusion, rfl, ?_, fun h => absurd h ?_, rfl, ?_⟩, ?_, ?_⟩
  all_goals first | exact takes_full _ _ _ (by decide) | decide +kernel

theorem witness_StagesFail : ((List.range 8).all fun p => decide ((booting .stage 2 0 .reset).portState p ≠ 5)) = true := by decide +kernel

theorem witness_EmergencyOff : (full []).safety.eoff = false ∧ (full []).start.boot ≠ .off ∧ (booting .off 6 0 .reset).safety.eoff = false ∧
    ({ full [] with safety := { Safety.reset with eoff := true } } : State).safety.eoff = true := by decide

theorem witness_SafeState : ({ full [] with safety := { Safety.reset with safe := true } } : State).safety.safe = true ∧ (down 6).safety.safe = false ∧
    (down 6).linkUp = false ∧ ((List.range 8).all fun p => decide ((down 6).portState p ≠ 5)) = true := by decide +kernel

/-! ### Crossings, Binnacles, known-answer tests, injection -/

/-- A step of tile 9's, within its limit. -/
def stepAt9 : Step :=
  let p := step1 .running
  { p with
    tally := { p.tally with tiles := [9] }
    wp := { p.wp with limit := 1 } }

/-- Traffic about tile 5, which has a counter set of context 7 and a request out; tile 9 has a set of context 8, which runs a step there
that may be replayed. -/
def rep57 (t : Nat) : Report := ⟨5, 7, 1, 0, 6, t, 0, true, (0, 0)⟩
def traffic : State :=
  let s := work7 { Work.empty with sets := [⟨7, 0, false, []⟩], running := [moverRun 0x21 .read], queues := [(6, [⟨tok, 0, false⟩])], parked := [⟨0, 0, ⟨tok, 1, false⟩⟩] }
  { s with
    tiles := s.tiles ++ [(9, { TileState.empty with work := { Work.empty with sets := [⟨8, 0, false, []⟩] } })]
    ctxs := s.ctxs ++ [(8, { ctx7 with
      home := some (9, 3)
      steps := [stepAt9] })]
    mail := { Mail.empty with
      channel := [(5, tok)], signals := [⟨7, 1, 5, 6, 0, 1, 5⟩], notices := [rep57 6], reports := [rep57 6], contribs := [(5, 6, contribution1)] } }
def over9 : Crossing := .link 9 0

theorem witness_IslandOverruns : traffic.moving = true ∧ crossingTiles (.link 19 0) = [] ∧ crossingTiles over9 = [9, 10] ∧ crossingTiles (.own 5) = [5] ∧
    traffic.safety.stopped.any (sameCrossing over9) = false ∧ [Crossing.link 6 1].any (sameCrossing (.link 5 0)) = true ∧
    (∀ u ∈ [9, 10], (traffic.tile u).work.set? 7 = none) ∧ traffic.reqsIn over9 5 = [] ∧ (traffic.tile 5).work.running ≠ [] ∧
    passes over9 5 5 = false ∧ passes over9 5 6 = false ∧ passes over9 6 5 = false := by decide +kernel

theorem witness_OverrunsReplaySteps : traffic.moving = true ∧ crossingTiles over9 = [9, 10] ∧ traffic.safety.stopped.any (sameCrossing over9) = false ∧
    (∃ u ∈ [9, 10], ((traffic.tile u).work.set? 8).isSome = true) ∧ FMap.sorted traffic.ctxs = true ∧ (traffic.ctx? 8).map (·.steps) = some [stepAt9] ∧
    stepAt9.inFlight = true ∧ stepAt9.phase = .running ∧ stepAt9.tally.tiles ≠ [] ∧ stepAt9.tally.replays < stepAt9.wp.limit := by decide +kernel

/-- Binnacle A active and B standing by, both last heard at 0. -/
def beats (reg chron : Word) (good : Bool) : State :=
  { full [(bnBase + 0x200, reg)] with
    chron := chron
    safety := { Safety.reset with
      beatA := { Beat.reset with
        seq := 1, msgGood := good, lineGood := true, lineAt := if good then chron else 0 } } }

/-- 1 ms of silence on one path and on both, and a nanosecond less; both Binnacles held. -/
theorem witness_Heartbeats : (beats 0x10 0 true).runsB false = true ∧ (beats 0x10 0 true).runsB true = true ∧ (beats 0x10 0 true).due 11 50000 = true ∧
    (beats 0x10 0 true).activeB = false ∧ (beats 0x10 1000000 true).pathChanges false false false = true ∧ (beats 0x10 999999 true).pathChanges false false false = false ∧
    (beats 0x10 999999 true).pathChanges true false false = false ∧
    (beats 0x10 1000000 false).msgSilent false = true ∧ (beats 0x10 1000000 false).lineSilent false = true ∧ (beats 0x10 1000000 false).binnacle true = 0 ∧
    (beats 0x10 1000000 false).tables.cmd = none ∧ (beats 0x10 1000000 false).sec.cmd = none ∧ (beats 0x10 1000000 false).start.tileReset = none ∧
    (beats 0x10 1000000 false).start.boot = .stage ∧ (beats 0x10 1000000 false).stage = 6 ∧ (beats 0xA0 0 true).lineSilent false = true ∧
    (beats 0xA0 0 true).lineSilent true = true ∧ (beats 0x10 0 true).normal = true ∧ 0xF006 ∉ (beats 0x10 0 true).safety.causes ∧
    0xF006 ∈ ({ Safety.reset with safe := true, causes := [0xF006] } : Safety).causes := by decide +kernel

/-- A link down in the nanosecond in which another cause enters the safe state. -/
theorem witness_RetrainAndSelfTest_safe : ({ full [] with safety := { Safety.reset with safe := true } } : State).justSafe = true ∧
    0 ∉ (Upkeep.empty).linkDown := by decide +kernel

/-- A tile in service and one that is Faulted; a running piece, a suppressed one, a queued and a parked piece. -/
theorem witness_TilesBecomeFaulted : (full []).faultedTile 5 = false ∧
    (fullT [] { TileState.empty with upkeep := { Upkeep.empty with state := 3 } }).faultedTile 5 = true ∧ traffic.faultedTile 5 = false ∧
    (traffic.tile 5).work.running = [moverRun 0x21 .read] ∧ (moverRun 0x21 .read).suppressed = false ∧
    (traffic.tile 5).work.parked ≠ [] ∧ (traffic.tile 5).work.queue 6 = [⟨tok, 0, false⟩] := by decide +kernel

/-- The second and the third failure. -/
theorem witness_RetrainAndSelfTest : (full []).moving = true ∧ 0 ∈ ({ Upkeep.empty with linkDown := [0] } : Upkeep).linkDown ∧
    FMap.get 0 ({ Upkeep.empty with retrains := [(0, 1)] } : Upkeep).retrains 0 + 1 < 3 ∧ 3 ≤ FMap.get 0 ({ Upkeep.empty with retrains := [(0, 2)] } : Upkeep).retrains 0 + 1 ∧
    (full []).stage = 6 ∧ (full []).vectorBoundary 639 = true ∧ (full []).due 1639 1000000 = true ∧ (full [(bnBase + 0x200, 0x10)]).activeB = false ∧
    (full [(bnBase + 0x200, 0x10)]).runsB false = true ∧ (full []).due 10 1000000000 = true := by decide +kernel

theorem witness_RetrainAndSelfTest_quiet : ∀ c ∈ correctedCounters, bits ((full []).reg c.1) 0 48 = bits (FMap.get 0 (full []).safety.summary c.1) 0 48 := by
  intro c hc
  unfold correctedCounters at hc
  rw [List.mem_append] at hc
  rcases hc with hc | hc
  · revert c
    decide +kernel
  · obtain ⟨t, ht, rfl⟩ := List.mem_map.1 hc
    have h : (full []).reg (tileBase t + 0x350) = 0 := tile_zero _ (by decide) t 0x350 (List.mem_range.1 ht) (by decide) (by decide +kernel)
    show bits ((full []).reg (tileBase t + 0x350)) 0 48 = _
    rw [h]
    rfl

/-- Kinds at the ends of their ranges, for the last tile and past it. -/
theorem witness_Injection : (∀ k ∈ [0, 1, 2, 3, 4, 5, 6, 7], takes [] (bnBase + 0x268) (BitVec.ofNat 64 (k * 2 ^ 60 + 639)) ∧
      bits (BitVec.ofNat 64 (k * 2 ^ 60 + 639)) 60 4 = k ∧ bits (BitVec.ofNat 64 (k * 2 ^ 60 + 639)) 0 10 < 640) ∧
    takes [] (bnBase + 0x268) (3 * 2 ^ 60 + 640) ∧ 640 ≤ bits (3 * 2 ^ 60 + 640 : Word) 0 10 ∧ (full []).stage = 6 ∧
    ((full [(bnBase + 0x200, 0x10)]).reg (bnBase + 0x200)).getLsbD 0 = false ∧ ((full [(bnBase + 0x200, 0x11)]).reg (bnBase + 0x200)).getLsbD 0 = true ∧
    takes [(bnBase + 0x200, 0x11)] (bnBase + 0x268) (4 * 2 ^ 60) ∧ takes [] (bnBase + 0x2F8) 1 := by
  refine ⟨?_, ?_, ?_, ?_, ?_, ?_, ?_, ?_⟩
  · intro k hk
    simp only [List.mem_cons, List.not_mem_nil, or_false] at hk
    rcases hk with rfl | rfl | rfl | rfl | rfl | rfl | rfl | rfl <;> exact ⟨takes_full _ _ _ (by decide), by decide, by decide⟩
  all_goals first | exact takes_full _ _ _ (by decide) | decide +kernel

/-! ### Fix, trace, watchpoints, the management port, the test access port, register writes -/

/-- DEBUG_EN set, the debug status word and the scan as given. -/
def debugging (st : Word) (r : FMap Word) (scan : Option (Nat × Nat)) (chron : Word) : State :=
  { full ((dbBase, 1) :: (dbBase + 0x008, st) :: r) with
    chron := chron
    dbg := { Debug.reset with scan := scan } }

/-- Trimmed with the package stowed; no scan and one. -/
theorem witness_FixCommands_trimmed : (phased 4 { Power.empty with trimmed := true } 0).power.trimmed = true ∧ (debugging 4 [] none 0).dbg.deferred = [] ∧
    (debugging 12 [] (some (0, 0)) 0).dbg.scan.isSome = true ∧ (debugging 12 [] (some (0, 0)) 0).accepts (dbBase + 0x010) (wr 3) 3 (BitVec.allOnes 64) ∧
    ((debugging 12 [] (some (0, 0)) 0).reg dbBase).getLsbD 0 = true ∧ ((debugging 12 [] (some (0, 0)) 0).reg (dbBase + 0x008)).getLsbD 2 = true := by
  refine ⟨?_, ?_, ?_, ⟨rfl, ?_, Boot.noConfusion, rfl, ?_, fun _ => ?_, rfl, ?_⟩, ?_, ?_⟩
  all_goals decide +kernel

/-- A fix that has just had its microsecond; scan buffers of the exact size and one byte short. -/
theorem witness_FixCommands : (∀ k ∈ [0, 1, 2, 3], takes [] (dbBase + 0x010) (BitVec.ofNat 64 k) ∧ takes [(dbBase, 1)] (dbBase + 0x010) (BitVec.ofNat 64 k)) ∧
    ((full []).reg dbBase).getLsbD 0 = false ∧ ((full [(dbBase, 1)]).reg dbBase).getLsbD 0 = true ∧ (full [(dbBase, 1)]).dbg.scan = none ∧
    (full []).normal = true ∧ (full []).running = true ∧ ((full []).reg (dbBase + 0x008)).getLsbD 1 = false ∧ ((full []).reg (dbBase + 0x008)).getLsbD 2 = false ∧
    ((debugging 2 [] none 1000).reg (dbBase + 0x008)).getLsbD 1 = true ∧ 1000 ≤ ((debugging 2 [] none 1000).chron - (debugging 2 [] none 1000).reg (dbBase + 0x020)).toNat ∧
    (debugging 4 [] none 0).accepts (dbBase + 0x010) (wr 3) 3 (BitVec.allOnes 64) ∧
    ((debugging 4 [] none 0).reg (dbBase + 0x008)).getLsbD 2 = true ∧
    scanSize 0 ≤ ((debugging 4 [(dbBase + 0x030, BitVec.ofNat 64 (scanSize 0))] none 0).reg (dbBase + 0x030)).toNat ∧
    ((debugging 4 [(dbBase + 0x030, BitVec.ofNat 64 (scanSize 0 - 1))] none 0).reg (dbBase + 0x030)).toNat < scanSize 0 ∧
    (debugging 12 [] (some (0, 0)) 0).linkUp = true ∧ (debugging 12 [] (some (0, 0)) 0).safety.safe = false := by
  refine ⟨?_, ?_, ?_, rfl, ?_, ?_, ?_, ?_, ?_, ?_, ⟨rfl, ?_, Boot.noConfusion, rfl, ?_, fun _ => ?_, rfl, ?_⟩, ?_, ?_, ?_, ?_, ?_⟩
  · intro k hk
    simp only [List.mem_cons, List.not_mem_nil, or_false] at hk
    rcases hk with rfl | rfl | rfl | rfl <;> exact ⟨takes_full _ _ _ (by decide), takes_full _ _ _ (by decide)⟩
  all_goals decide +kernel

/-- Ranges of one byte, of none, of a tile and of no tile. -/
theorem witness_DebugRegisters : takes [] dbBase 4 ∧ takes [] dbBase 3 ∧ takes [(dbBase, 1)] dbBase 4 ∧ ((full []).reg dbBase).getLsbD 0 = false ∧
    takes [] (dbBase + 0x100) (2 ^ 56) ∧ takes [] (dbBase + 0x100) 0 ∧ takes [] (dbBase + 0x2E0) (3 * 2 ^ 61) ∧ takes [] (dbBase + 0x400) 0 ∧ takes [] (dbBase + 0x478) 0 ∧
    takes [] (dbBase + 0x7F8) 1 ∧ spRangeBad (640 * 2 ^ 26) (640 * 2 ^ 26) = true ∧ spRangeBad 0 (639 * 2 ^ 26) = false ∧
    bits ((full []).reg (dbBase + 0x100 + 16)) 0 56 < bits ((full [(dbBase + 0x108, 1)]).reg (dbBase + 0x100 + 8)) 0 56 := by
  refine ⟨?_, ?_, ?_, by decide +kernel, ?_, ?_, ?_, ?_, ?_, ?_, ?_, ?_, ?_⟩
  all_goals first | exact takes_full _ _ _ (by decide) | decide +kernel

/-- Tile 19, the last of row 0, has a packet; the log line has reached its column. -/
def logging : State :=
  { full [(dbBase, 2)] with
    tiles := [(19, { TileState.empty with upkeep := { Upkeep.empty with trace := [[1, 2]] } })]
    dbg := { Debug.reset with column := 19 } }

theorem witness_LogLine : logging.moving = true ∧ (logging.reg dbBase).getLsbD 1 = true ∧ logging.dbg.column = 19 ∧ logging.nextRow 19 = some 0 ∧
    (logging.tile (20 * 0 + 19)).upkeep.trace = [[1, 2]] ∧ (full []).due 13 10000 = true ∧ (∀ t, ((full []).tile t).upkeep.trace = []) := by
  refine ⟨?_, ?_, rfl, ?_, ?_, ?_, fun _ => rfl⟩
  all_goals decide +kernel

theorem witness_ManagementPort : (beats 0x10 0 true).runsB false = true ∧ (beats 0x62 0 true).runsB true = true ∨ (beats 0x12 0 true).runsB true = true := by decide +kernel

theorem witness_TestAccessPort : State.reset.start.resetLow = true ∧ ¬ (full []).start.resetLow = true ∧
    (after .extest State.reset).dbg.tap = .boundary ∧ Debug.reset.tap = .idcode ∧ (after (.bypass 0) (full [])).dbg.tap = .bypass ∧ ((0 : BitVec 8) = 0 ∨ 7 < (0 : BitVec 8).toNat) ∧ 7 < (8 : BitVec 8).toNat := by decide

/-- IDCODE of the spec's chapter 20 is selected after a reset of the port. -/
theorem test_tap_reset : (after .tapReset (after .samplePreload (full []))).dbg.ir = 1 := by decide

/-- A misaligned address, half a register; a read-only register; one with its own row; write-one-to-clear, with a bit that hardware has just
set; a plain register; the bill's limits, and a trace range whose end is before its start. -/
theorem witness_RegisterWrites : wrPart { wr 5 with sub := (sxBase + 0x021 + 0) % 8 } = none ∧
    (wrPart { wr 5 with size := 4, sub := (sxBase + 0x024) % 8 }).isSome = true ∧
    takes [] bnBase 5 ∧ takes [] (bnBase + 0x018) 5 ∧ takes [] (tileBase 5 + 0x700) 5 ∧ takes [] (tileBase 5 + 0x728) 5 ∧
    takes [] (sxBase + 0x410) 5 ∧ (∃ b, b < 6 ∧ limitPair (bits (5 : Word) (8 * b) 8) = false) ∧ takes [] (dbBase + 0x308) (2 ^ 16 + 2) ∧ takes [] (dbBase + 0x308) (640 * 2 ^ 16) ∧
    accessAt bnBase = .ro ∧ accessAt (tileBase 5 + 0x008) = .own ∧ (∃ k, accessAt (tileBase 5 + 0x700) = .rw1c k) ∧
    (∃ fs, accessAt (tileBase 5 + 0x728) = .rw fs) ∧
    bits (merge ((full []).reg (dbBase + 0x308)) (2 ^ 16 + 2) (BitVec.allOnes 64)) 16 10 <
      bits (merge ((full []).reg (dbBase + 0x308)) (2 ^ 16 + 2) (BitVec.allOnes 64)) 0 10 ∧
    639 < bits (merge ((full []).reg (dbBase + 0x308)) (640 * 2 ^ 16) (BitVec.allOnes 64)) 16 10 := by
  refine ⟨?_, ?_, ?_, ?_, ?_, ?_, ?_, ?_, ?_, ?_, rfl, rfl, ⟨_, rfl⟩, ⟨_, rfl⟩, ?_, ?_⟩
  all_goals first | exact takes_full _ _ _ (by decide) | decide +kernel

/-- R10: a bit that hardware sets in the nanosecond of the write that clears it stays set; a nanosecond later it is cleared. -/
theorem test_w1c_same_cycle :
    (let r := (full []).orReg (tileBase 5 + 0x700) 1
     ((after (.registerWrite (BitVec.ofNat 23 (tileBase 5 + 0x700)) (wr 1)) r).reg (tileBase 5 + 0x700)).getLsbD 0 = true ∧
     ((after (.registerWrite (BitVec.ofNat 23 (tileBase 5 + 0x700)) (wr 1)) r.nanosecond).reg (tileBase 5 + 0x700)).getLsbD 0 = false) := by
  decide +kernel

/-- `TL_SELCFG`: 2 and 64 are legal, 65 leaves the field and is recorded (R5). -/
theorem test_register_field : (writeFields 8 64 (BitVec.allOnes 64) [⟨0, 7, fun n => 2 ≤ n && n ≤ 64⟩]) = (64, false) ∧
    (writeFields 8 65 (BitVec.allOnes 64) [⟨0, 7, fun n => 2 ≤ n && n ≤ 64⟩]) = (8, true) := by decide

/-- A write for each way to be turned away, and half a command register without a field. -/
theorem witness_RegisterWriteGate : (full []).accepts sxBase (wr 5) 5 (BitVec.allOnes 64) ∧ ((full []).safety.safe = false ∧ (full []).linkUp = true ∧ (full []).start.boot ≠ .off) ∧
    ¬ ((down 6).safety.safe = false ∧ (down 6).linkUp = true ∧ (down 6).start.boot ≠ .off) ∧ ({ wr 5 with fn := 1 } : Wr).fn.val ≠ 0 ∧
    (booting .stage 2 0 .reset).open sxBase = false ∧ (booting .stage 2 0 .reset).linkUp = true ∧ wrPart ⟨0, 2, 0, 5⟩ = none ∧ wrPart ⟨0, 4, 2, 5⟩ = none ∧
    (debugging 4 [] none 0).fixed = true ∧ runsInFix (lpBase + 0x020) = false ∧ runsInFix sxBase = true ∧ runsInFix bnBase = true ∧ (0xFF8 : Nat) < 0x1000 ∧ (full []).open sxBase = true ∧
    owned sxBase = true ∧ owned 0x700000 = false ∧ wrPart ⟨0, 4, 4, 1⟩ = some (2 ^ 32, 0xFFFFFFFF00000000) ∧ reachesField (bnBase + 0x028) 0xFFFFFFFF00000000 = false := by
  refine ⟨accepts_of _ _ _ ?_, ?_, ?_, ?_, ?_, ?_, by decide +kernel, ?_, ?_, ?_, ?_, ?_, ?_, ?_, ?_, ?_, ?_, ?_⟩
  all_goals decide +kernel

/-- Reads by PF0 and by a virtual function, of a counter and of a plain register, in an open and in a closed window. -/
theorem witness_RegisterReads : (sxBase % 8 = 0 ∧ (hiBase + 0x130) % 8 = 0) ∧ (full []).open sxBase = true ∧ (full []).fixed = false ∧
    isCounter (hiBase + 0x130) = true ∧ isCounter sxBase = false ∧ FMap.find? (full []).dbg.latched (latchKey 0 sxBase) = none ∧
    (sxBase + 2) - (sxBase + 2) % 8 = sxBase ∧ (4, (sxBase + 2) % 8) ∉ [(8, 0), (4, 0), (4, 4)] ∧ (2, sxBase % 8) ∉ [(8, 0), (4, 0), (4, 4)] ∧
    0x1000 ≤ sxBase ∧ (booting .stage 2 0 .reset).open sxBase = false := by decide +kernel

/-- R7: the high half of a counter is that of the time when its low half was read. -/
theorem test_latched_half :
    (let a := hiBase + 0x130
     let s := full [(a, 0xFFFFFFFF)]
     let r := (s.readReg 0 a 4).1.count a 1
     (s.readReg 0 a 4).2 = 0xFFFFFFFF ∧ (r.readReg 0 (a + 4) 4).2 = 0 ∧ (r.readReg 0 a 8).2 = 0x100000000) := by decide +kernel

/-! ### Well-formedness: an ill-formed term for each check -/

theorem smoke_lpBlockReceive : Instr.wf (.lpBlockReceive 0 (List.replicate 279 0) []) = false := by decide +kernel
theorem smoke_lpCapabilityBlock : Instr.wf (.lpCapabilityBlock 0 { cap0 0 with pairs := List.replicate 15 0 }) = false := by decide
theorem smoke_lpLoopDone : Instr.wf (.lpLoopDone 0 0 (List.replicate 63 0)) = false := by decide
theorem smoke_landingCheck : Instr.wf (.landingCheck 0 (asks 1 0 0 0)) = false ∧ Instr.wf (.landingCheck 0 (asks 1 0 0 131073)) = false ∧
    Instr.wf (.landingCheck 0 { asks 2 0 0 8 with data := [] }) = false := by decide
theorem smoke_remoteResponse : Instr.wf (.remoteResponse 0 0 0 0 []) = false ∧ Instr.wf (.remoteResponse 0 0 0 65 []) = false := by decide
theorem smoke_thermalSample : Instr.wf (.thermalSample []) = false := by decide
theorem smoke_pmbusRead : Instr.wf (.pmbusRead (List.replicate 17 none)) = false := by decide
theorem smoke_memoryStageDone : Instr.wf (.memoryStageDone (List.replicate 11 none) (List.replicate 24 none)) = false ∧
    Instr.wf (.memoryStageDone (List.replicate 12 none) (List.replicate 23 none)) = false := by decide
theorem smoke_spScrub : Instr.wf (.spScrub 0 6291456 true) = false := by decide
theorem smoke_stackFailed : Instr.wf (.stackFailed true 6) = false := by decide
theorem smoke_pcieLinkUp : Instr.wf (.pcieLinkUp 0 16 false) = false ∧ Instr.wf (.pcieLinkUp 8 16 false) = false ∧ Instr.wf (.pcieLinkUp 4 3 false) = false := by decide

/-! ### Single steps with results from the spec or by hand -/

/-- Register 3 after a scalar instruction, from `g1 = a` and `g2 = b`. -/
def g3 (i : Instr) (a b : Word) : Word := ((after i (fullT [] (coreT { Slot.empty with g := [(1, a), (2, b)] }))).tile 5 |>.slot 2).rg 3
/-- FP register 3, from `f1 = a` and `f2 = b`. -/
def f3 (i : Instr) (a b : Word) : Word := ((after i (fullT [] (coreT { Slot.empty with f := [(1, a), (2, b)] }))).tile 5 |>.slot 2).rf 3

/-- R68, R97: sums wrap; division by zero, and the smallest number by −1. -/
theorem test_add_wraps : g3 (.add 5 3 1 2) (BitVec.allOnes 64) 1 = 0 := by decide +kernel
theorem test_sub_wraps : g3 (.sub 5 3 1 2) 0 1 = BitVec.allOnes 64 := by decide +kernel
theorem test_div_by_zero : g3 (.div 5 3 1 2) 7 0 = 0 ∧ g3 (.rem 5 3 1 2) 7 0 = 7 ∧ g3 (.divu 5 3 1 2) 7 0 = 0 ∧ g3 (.remu 5 3 1 2) 7 0 = 7 := by decide +kernel
theorem test_div_least : g3 (.div 5 3 1 2) (2 ^ 63) (BitVec.allOnes 64) = 2 ^ 63 ∧ g3 (.rem 5 3 1 2) (2 ^ 63) (BitVec.allOnes 64) = 0 := by decide +kernel
theorem test_mulh_signs : g3 (.mulh 5 3 1 2) (BitVec.allOnes 64) 2 = BitVec.allOnes 64 ∧ g3 (.mulhu 5 3 1 2) (BitVec.allOnes 64) 2 = 1 := by decide +kernel
/-- R96: shifts by the low six bits; a signed and an unsigned comparison. -/
theorem test_shift_amount : g3 (.sll 5 3 1 2) 1 65 = 2 ∧ g3 (.srl 5 3 1 2) (2 ^ 63) 63 = 1 ∧ g3 (.sra 5 3 1 2) (2 ^ 63) 63 = BitVec.allOnes 64 := by decide +kernel
theorem test_comparisons : g3 (.slt 5 3 1 2) (BitVec.allOnes 64) 0 = 1 ∧ g3 (.sltu 5 3 1 2) (BitVec.allOnes 64) 0 = 0 := by decide +kernel
theorem test_source_is_destination : ((after (.add 5 1 1 1) (fullT [] (coreT { Slot.empty with g := [(1, 5)] }))).tile 5 |>.slot 2).rg 1 = 10 := by decide +kernel
/-- R98: 1 + 2 = 3; 1 / 3 rounded to nearest; −0 below +0. -/
theorem test_fadd : f3 (.fadd 5 ⟨0, 0⟩ 3 1 2) 0x3FF0000000000000 0x4000000000000000 = 0x4008000000000000 := by decide +kernel
theorem test_fdiv_rounds : f3 (.fdiv 5 ⟨0, 0⟩ 3 1 2) 0x3FF0000000000000 0x4008000000000000 = 0x3FD5555555555555 := by decide +kernel
theorem test_fmin_zeros : f3 (.fmin 5 ⟨0, 0⟩ 3 1 2) 0 0x8000000000000000 = 0x8000000000000000 := by decide +kernel

/-- R99: a byte is sign-extended or not; R100: an atomic returns the old value and stores the sum. -/
def bytes7 (v : Word) (z : Slot) : State :=
  let s := run7 z
  { s with
    mem := { s.mem with
      near := near7 ++ put64 0x400000 v } }
theorem test_byte_loads : ((after (.lb 5 3 0 0 .none) (bytes7 0xFF .empty)).tile 5 |>.slot 2).rg 3 = BitVec.allOnes 64 ∧
    ((after (.lbu 5 3 0 0 .none) (bytes7 0xFF .empty)).tile 5 |>.slot 2).rg 3 = 0xFF := by decide +kernel
theorem test_store_low_half : ((after (.sh 5 1 0 0 .none) (bytes7 0 { Slot.empty with g := [(1, 0x1234_5678)] })).helm8 0x400000 = 0x78 ∧
    (after (.sh 5 1 0 0 .none) (bytes7 0 { Slot.empty with g := [(1, 0x1234_5678)] })).helm8 0x400002 = 0) := by decide +kernel
theorem test_amo_add : (let r := after (.amoAdd 5 3 0 1 .none) (bytes7 41 { Slot.empty with g := [(1, 1)] })
    ((r.tile 5).slot 2).rg 3 = 41 ∧ r.helm8 0x400000 = 42) := by decide +kernel

/-- R2: the Chronometer counts nanoseconds while no command waits. -/
theorem test_idle_counts : (match step { full [] with chron := 41 } with | .next t => t.chron | _ => 0) = 42 := by decide +kernel
/-- R53: a virtual function's write outside its window is `0x3001`, recorded and counted. -/
theorem test_vf_write_refused : let r := after (.registerWrite 0x10018 { wr 5 with fn := 1 }) (full [])
    bits (r.reg (statusReg hiBase)) 16 16 = 0x3001 ∧ r.reg (hiBase + 0x130) = 1 := by decide +kernel

end Sys2Proof.Tests
end

section
/-! SUPPORT. The integer operations of R68 and R97, which the model computes on words, as numbers. Each fact holds at every width. -/

namespace Sys2Proof.Machine

variable {w : Nat} (a b : BitVec w)

theorem add_eq_ofInt_add : a + b = BitVec.ofInt w (a.toInt + b.toInt) := by
  rw [BitVec.ofInt_add, BitVec.ofInt_toInt, BitVec.ofInt_toInt]

theorem sub_eq_ofInt_sub : a - b = BitVec.ofInt w (a.toInt - b.toInt) := by
  apply BitVec.eq_of_toInt_eq
  rw [BitVec.toInt_sub, BitVec.toInt_ofInt]

theorem mul_eq_ofInt_mul : a * b = BitVec.ofInt w (a.toInt * b.toInt) := by
  rw [BitVec.ofInt_mul, BitVec.ofInt_toInt, BitVec.ofInt_toInt]

theorem shiftLeft_eq_ofNat_mul (k : Nat) : a <<< k = BitVec.ofNat w (a.toNat * 2 ^ k) := by
  apply BitVec.eq_of_toNat_eq
  rw [BitVec.toNat_shiftLeft, BitVec.toNat_ofNat, Nat.shiftLeft_eq]

theorem ushiftRight_eq_ofNat_div (k : Nat) : a >>> k = BitVec.ofNat w (a.toNat / 2 ^ k) := by
  rw [← Nat.shiftRight_eq_div_pow, ← BitVec.toNat_ushiftRight, BitVec.ofNat_toNat, BitVec.setWidth_eq]

/-- An arithmetic shift rounds towards minus infinity, as `Int`'s division by a positive number does. -/
theorem sshiftRight_eq_ofInt_div (k : Nat) : a.sshiftRight k = BitVec.ofInt w (a.toInt / 2 ^ k) := by
  have h : (a.sshiftRight k).toInt = a.toInt / 2 ^ k := by
    rw [BitVec.toInt_sshiftRight, Int.shiftRight_eq_div_pow, Nat.cast_pow, Nat.cast_ofNat]
  rw [← h, BitVec.ofInt_toInt]

/-- The high half of a product formed at twice the width: what the product leaves out above that width does not reach it. -/
theorem highHalf_ofInt (p : Int) : (BitVec.ofInt (w + w) p >>> w).setWidth w = BitVec.ofInt w (p / 2 ^ w) := by
  have pos : (0 : Int) < 2 ^ w := by positivity
  have half : p % (2 ^ w * 2 ^ w) / 2 ^ w % 2 ^ w = p / 2 ^ w % 2 ^ w := by
    rw [Int.emod_def p, mul_assoc, Int.sub_mul_ediv_left _ _ pos.ne', Int.sub_mul_emod_self_left]
  apply BitVec.eq_of_toNat_eq
  apply Int.natCast_inj.1
  simp only [BitVec.toNat_setWidth, BitVec.toNat_ushiftRight, BitVec.toNat_ofInt, Nat.shiftRight_eq_div_pow, Int.natCast_emod,
    Int.natCast_ediv, Nat.cast_pow, Nat.cast_ofNat, pow_add, Nat.cast_mul]
  rw [Int.toNat_of_nonneg (Int.emod_nonneg _ (by positivity)), Int.toNat_of_nonneg (Int.emod_nonneg _ pos.ne'), half]

theorem mulHigh_signed : ((a.signExtend (w + w) * b.signExtend (w + w)) >>> w).setWidth w = BitVec.ofInt w (a.toInt * b.toInt / 2 ^ w) := by
  have product : a.signExtend (w + w) * b.signExtend (w + w) = BitVec.ofInt (w + w) (a.toInt * b.toInt) :=
    (BitVec.ofInt_mul _ _).symm
  rw [product, highHalf_ofInt]

theorem mulHigh_unsigned :
    ((a.setWidth (w + w) * b.setWidth (w + w)) >>> w).setWidth w = BitVec.ofNat w (a.toNat * b.toNat / 2 ^ w) := by
  have product : a.setWidth (w + w) * b.setWidth (w + w) = BitVec.ofInt (w + w) (a.toNat * b.toNat : Nat) := by
    rw [BitVec.ofInt_natCast, BitVec.ofNat_mul, BitVec.ofNat_toNat, BitVec.ofNat_toNat]
  rw [product, highHalf_ofInt]
  norm_cast

/-- R97: a quotient by zero is zero; the least number by minus one wraps. -/
theorem sdiv_eq_ofInt_tdiv : a.sdiv b = if b = 0 then 0 else BitVec.ofInt w (a.toInt.tdiv b.toInt) := by
  split
  next h => rw [h]; exact BitVec.sdiv_zero
  next =>
    apply BitVec.eq_of_toInt_eq
    rw [BitVec.toInt_sdiv, BitVec.toInt_ofInt]

/-- R97: a remainder by zero is the dividend. -/
theorem srem_eq_ofInt_tmod : a.srem b = if b = 0 then a else BitVec.ofInt w (a.toInt.tmod b.toInt) := by
  split
  next h => rw [h]; exact BitVec.srem_zero
  next => rw [← BitVec.toInt_srem, BitVec.ofInt_toInt]

theorem udiv_eq_ofNat_div : a / b = if b = 0 then 0 else BitVec.ofNat w (a.toNat / b.toNat) := by
  split
  next h => rw [h]; exact BitVec.udiv_zero
  next => rw [← BitVec.toNat_udiv, BitVec.ofNat_toNat, BitVec.setWidth_eq]

theorem umod_eq_ofNat_mod : a % b = if b = 0 then a else BitVec.ofNat w (a.toNat % b.toNat) := by
  split
  next h => rw [h]; exact BitVec.umod_zero
  next => rw [← BitVec.toNat_umod, BitVec.ofNat_toNat, BitVec.setWidth_eq]

theorem smaller_eq_ofInt_min : (if a.slt b then a else b) = BitVec.ofInt w (min a.toInt b.toInt) := by
  rw [BitVec.slt_eq_decide]
  rcases lt_or_ge a.toInt b.toInt with h | h
  · simp [h, min_eq_left h.le]
  · simp [h]

theorem larger_eq_ofInt_max : (if a.slt b then b else a) = BitVec.ofInt w (max a.toInt b.toInt) := by
  rw [BitVec.slt_eq_decide]
  rcases lt_or_ge a.toInt b.toInt with h | h
  · simp [h, max_eq_right h.le]
  · simp [h]

/-! ### Comparisons, as the word 1 or 0 -/

theorem word1_slt (x y : Word) : word1 (x.slt y) = if x.toInt < y.toInt then 1 else 0 := by
  simp [word1, BitVec.slt_eq_decide]

theorem word1_ult (x y : Word) : word1 (x.ult y) = if x.toNat < y.toNat then 1 else 0 := by
  simp [word1, BitVec.ult_eq_decide]

end Sys2Proof.Machine
end

section
/-! SUPPORT. The registers of a home slot, and what running one scalar instruction changes and leaves. -/

namespace Sys2Proof.Machine

open Sys2Proof

/-! ### The `g` registers of a slot (R67) -/

@[simp] theorem Slot.rg_zero (z : Slot) : z.rg 0 = 0 := rfl

@[simp] theorem Slot.wg_zero (z : Slot) (v : Word) : z.wg 0 v = z := rfl

theorem Slot.rg_wg_same (z : Slot) (r : Nat) (v : Word) (h : r ≠ 0) : (z.wg r v).rg r = v := by
  simp [Slot.rg, Slot.wg, h]

theorem Slot.rg_wg_other (z : Slot) (r q : Nat) (v : Word) (h : q ≠ r) : (z.wg r v).rg q = z.rg q := by
  unfold Slot.rg Slot.wg
  by_cases hr : r = 0
  · simp [hr]
  · simp [hr, FMap.get_put_other _ _ _ _ _ _ h]

theorem Slot.rg_wg (z : Slot) (r q : RegNo) (v : Word) : (z.wg r v).rg q = if q = r ∧ r ≠ 0 then v else z.rg q := by
  by_cases hq : q = r
  · subst hq
    by_cases hr : q = 0
    · simp [hr]
    · rw [if_pos ⟨rfl, hr⟩, z.rg_wg_same q v (Fin.val_ne_zero_iff.2 hr)]
  · rw [if_neg (hq ·.1), z.rg_wg_other r q v (Fin.val_ne_iff.2 hq)]

/-! ### One home slot of a tile -/

@[simp] theorem TileState.slot_onSlot_same (x : TileState) (n : Nat) (f : Slot → Slot) : (x.onSlot n f).slot n = f (x.slot n) :=
  FMap.get_put_same _ _ _ _

theorem TileState.slot_onSlot_other (x : TileState) (n m : Nat) (f : Slot → Slot) (h : m ≠ n) : (x.onSlot n f).slot m = x.slot m :=
  FMap.get_put_other _ _ _ _ _ _ h

/-- Two changes that agree on the slot as it is leave the same tile. -/
theorem TileState.onSlot_congr (x : TileState) (n : Nat) (f g : Slot → Slot) (h : f (x.slot n) = g (x.slot n)) :
    x.onSlot n f = x.onSlot n g := by
  unfold TileState.onSlot
  exact congrArg (fun z => { x with slots := FMap.put .empty x.slots n z }) h

/-! ### What a counter touches (R54) -/

/-- From `s` to `s'` registers, messages to the outside and the marks of bits just set may change, and nothing else. -/
def State.ChangesOnlyRecords (s s' : State) : Prop :=
  ∃ regs outside fresh, s' = { s with regs := regs, outside := outside, marks := { s.marks with fresh := fresh } }

theorem State.ChangesOnlyRecords.trans {s s1 s2 : State} (h1 : s.ChangesOnlyRecords s1) (h2 : s1.ChangesOnlyRecords s2) :
    s.ChangesOnlyRecords s2 := by
  obtain ⟨_, _, _, rfl⟩ := h1
  obtain ⟨_, _, _, rfl⟩ := h2
  exact ⟨_, _, _, rfl⟩

variable (s : State)

theorem State.ChangesOnlyRecords.refl : s.ChangesOnlyRecords s := ⟨_, _, _, rfl⟩

theorem State.setReg_changesOnlyRecords (a : Nat) (v : Word) : s.ChangesOnlyRecords (s.setReg a v) := ⟨_, _, _, rfl⟩

theorem State.interrupt_changesOnlyRecords (fn vec : Nat) : s.ChangesOnlyRecords (s.interrupt fn vec) := ⟨_, _, _, rfl⟩

theorem State.orReg_changesOnlyRecords (a m : Nat) : s.ChangesOnlyRecords (s.orReg a m) := by
  unfold State.orReg
  split <;> exact ⟨_, _, _, rfl⟩

theorem State.overflow_changesOnlyRecords (a : Nat) : s.ChangesOnlyRecords (s.overflow a) := by
  simp only [State.overflow]
  split
  · exact (s.orReg_changesOnlyRecords _ _).trans (State.interrupt_changesOnlyRecords _ _ _)
  · exact s.orReg_changesOnlyRecords _ _

theorem State.count_changesOnlyRecords (a n : Nat) : s.ChangesOnlyRecords (s.count a n) := by
  simp only [State.count]
  split
  · exact .refl s
  · split
    · exact s.setReg_changesOnlyRecords _ _
    · exact (s.setReg_changesOnlyRecords _ _).trans (State.overflow_changesOnlyRecords _ _)

@[simp] theorem State.tile_tcount (t o n u : Nat) : (s.tcount t o n).tile u = s.tile u := by
  simp [State.tile]

/-! ### Retiring an instruction -/

@[simp] theorem State.tile_retire_same (t n len : Nat) (f : Slot → Slot) :
    (s.retire t n len f).tile t = (s.tile t).onSlot n fun z => { f z with pc := z.pc + BitVec.ofNat 48 len } := by
  simp [State.retire]

theorem State.tile_retire_other (t n len u : Nat) (f : Slot → Slot) (h : u ≠ t) : (s.retire t n len f).tile u = s.tile u := by
  simp [State.retire, s.tile_onTile_other t u _ h]

/-- Outside the tiles, retiring only counts the instruction. -/
theorem State.retire_frame (t n len : Nat) (f : Slot → Slot) :
    let r := s.retire t n len f
    r = { s with tiles := r.tiles, regs := r.regs, outside := r.outside, marks := { s.marks with fresh := r.marks.fresh } } := by
  intro r
  obtain ⟨_, _, _, h⟩ : State.ChangesOnlyRecords _ r := State.count_changesOnlyRecords _ _ _
  rw [h]
  rfl

theorem State.retire_congr (t n len : Nat) (f g : Slot → Slot) (h : f ((s.tile t).slot n) = g ((s.tile t).slot n)) :
    s.retire t n len f = s.retire t n len g := by
  have same := (s.tile t).onSlot_congr n (fun z => { f z with pc := z.pc + BitVec.ofNat 48 len })
    (fun z => { g z with pc := z.pc + BitVec.ofNat 48 len }) (by simp only [h])
  exact congrArg (fun x => (s.setTile t x).tcount t 0x8B8 1) same

variable {s}

/-- A scalar instruction that raises nothing retires in the slot that the core runs. -/
theorem State.scalar_eq_retire {t n len : Nat} {bad : Slot → Option Status} {f : Slot → Slot} (hcore : s.core t = some n)
    (hbad : bad ((s.tile t).slot n) = none) : s.scalar t len bad f = s.retire t n len f := by
  simp [State.scalar, hcore, hbad]

/-- An instruction that the core executes as the integer operation `op` retires with the value that `op` gives. -/
theorem exec_alu_retires {t n rd ra rb : Nat} {op : Word → Word → Word} {i : Instr} {v : Word}
    (hexec : exec i s = .next (s.alu t rd ra rb op)) (hcore : s.core t = some n)
    (hop : op (((s.tile t).slot n).rg ra) (((s.tile t).slot n).rg rb) = v) :
    exec i s = .next (s.retire t n 4 fun y => y.wg rd v) := by
  have hretire : s.alu t rd ra rb op = s.retire t n 4 fun z => z.wg rd (op (z.rg ra) (z.rg rb)) :=
    State.scalar_eq_retire hcore rfl
  rw [hexec, hretire]
  exact congrArg _ (s.retire_congr t n 4 _ _ (congrArg _ hop))

end Sys2Proof.Machine
end

section
/-! The integer instructions, the `g` registers and the frame of a retiring instruction. -/

namespace Sys2Proof.Machine

open Sys2Proof

/-- Settles O8: each operation's meaning on words is the operation on numbers (R68, R97), the slot's registers obey the rules of a
register file with `g0` fixed, and retiring is one change of a slot and one count of a counter. -/
theorem integerArithmetic : Obligations.IntegerArithmetic := by
  refine ⟨fun s t n hcore rd ra rb => ?_, fun z r q v => ⟨z.rg_zero, z.wg_zero v, z.rg_wg r q v⟩, fun s t n len f => ?_⟩
  · intro z a b gives
    exact ⟨
      exec_alu_retires rfl hcore (add_eq_ofInt_add a b),
      exec_alu_retires rfl hcore (sub_eq_ofInt_sub a b),
      exec_alu_retires rfl hcore rfl,
      exec_alu_retires rfl hcore rfl,
      exec_alu_retires rfl hcore rfl,
      exec_alu_retires rfl hcore (shiftLeft_eq_ofNat_mul a _),
      exec_alu_retires rfl hcore (ushiftRight_eq_ofNat_div a _),
      exec_alu_retires rfl hcore (sshiftRight_eq_ofInt_div a _),
      exec_alu_retires rfl hcore (mul_eq_ofInt_mul a b),
      exec_alu_retires rfl hcore (mulHigh_signed a b),
      exec_alu_retires rfl hcore (mulHigh_unsigned a b),
      exec_alu_retires rfl hcore (sdiv_eq_ofInt_tdiv a b),
      exec_alu_retires rfl hcore (udiv_eq_ofNat_div a b),
      exec_alu_retires rfl hcore (srem_eq_ofInt_tmod a b),
      exec_alu_retires rfl hcore (umod_eq_ofNat_mod a b),
      exec_alu_retires rfl hcore (word1_slt a b),
      exec_alu_retires rfl hcore (word1_ult a b),
      exec_alu_retires rfl hcore (smaller_eq_ofInt_min a b),
      exec_alu_retires rfl hcore (larger_eq_ofInt_max a b)⟩
  · have htile := s.tile_retire_same t n len f
    refine ⟨?_, fun m hm => ?_, fun u hu => s.tile_retire_other t n len u f hu, ?_, s.retire_frame t n len f⟩
    · rw [htile, TileState.slot_onSlot_same]
    · rw [htile, TileState.slot_onSlot_other _ _ _ _ hm]
    · rw [htile]
      rfl

end Sys2Proof.Machine
end

section
/-! SUPPORT. Which command an engine picks (R256, R258): the order of an ordinary selection, and the context of a floor selection. -/

namespace Sys2Proof.Machine

open Sys2Proof

/-! ### The deadline order -/

/-- Where a command ranks in an ordinary selection: deadline as an unsigned number, then priority, higher first, then entry. -/
def Work.rank (w : Work) (x : Entry) : Nat ×ₗ Natᵒᵈ ×ₗ Nat :=
  toLex (x.cmd.deadline.toNat, toLex (OrderDual.toDual (w.prio x.cmd.ctx.toNat), x.ord))

theorem Work.rank_le_iff (w : Work) (x y : Entry) : w.rank x ≤ w.rank y ↔
    x.cmd.deadline.toNat < y.cmd.deadline.toNat ∨ (x.cmd.deadline = y.cmd.deadline ∧
      (w.prio y.cmd.ctx.toNat < w.prio x.cmd.ctx.toNat ∨
        (w.prio y.cmd.ctx.toNat = w.prio x.cmd.ctx.toNat ∧ x.ord ≤ y.ord))) := by
  simp [Work.rank, Prod.Lex.toLex_le_toLex, BitVec.toNat_inj, eq_comm]

theorem Work.before_iff_rank_lt (w : Work) (x y : Entry) : w.before x y = true ↔ w.rank x < w.rank y := by
  simp [Work.before, Work.rank, Prod.Lex.toLex_lt_toLex, BitVec.ult, BitVec.toNat_inj]

theorem Work.best_eq_argmin (w : Work) (xs : List Entry) : w.best xs = xs.argmin w.rank := by
  cases xs with
  | nil => rfl
  | cons x xs =>
    show some (xs.foldl _ x) = xs.foldl _ (some x)
    induction xs generalizing x with
    | nil => rfl
    | cons y xs ih =>
      rw [List.foldl_cons, List.foldl_cons, ih]
      congr 1
      simp only [List.argAux, w.before_iff_rank_lt]
      split <;> rfl

/-! ### The context of a floor selection -/

theorem foldl_eq_min? (f : Option Nat → Nat → Option Nat) (hnone : ∀ c, f none c = some c)
    (hsome : ∀ b c, f (some b) c = some (min b c)) (l : List Nat) : l.foldl f none = l.min? := by
  have hfold : ∀ (l : List Nat) (b : Nat), l.foldl f (some b) = some (l.foldl min b) := by
    intro l
    induction l with
    | nil => exact fun _ => rfl
    | cons c l ih => exact fun b => by rw [List.foldl_cons, hsome, ih, List.foldl_cons]
  cases l with
  | nil => rfl
  | cons c l => rw [List.foldl_cons, hnone, hfold, List.min?_cons']

/-- The least context above the last one, and if none is above it, the least of all. -/
theorem floorContext_eq (last : Nat) (cs : List Nat) :
    floorContext last cs = (cs.filter fun c => last < c).min?.or cs.min? := by
  simp only [floorContext]
  rw [foldl_eq_min? _ (fun _ => rfl) (fun _ _ => rfl), foldl_eq_min? _ (fun _ => rfl) (fun _ _ => rfl)]
  cases (cs.filter fun c => last < c).min? <;> rfl

section

variable {last c : Nat} {cs : List Nat} (h : floorContext last cs = some c)
include h

/-- Where a context lies after the last one, the floor takes the first of those. -/
theorem floorContext_least_above {d : Nat} (hd : d ∈ cs) (hlast : last < d) : last < c ∧ c ≤ d := by
  have hmem : d ∈ cs.filter fun c => last < c := by simp [hd, hlast]
  rw [floorContext_eq] at h
  cases hmin : (cs.filter fun c => last < c).min? with
  | none => simp [List.min?_eq_none_iff.1 hmin] at hmem
  | some b =>
    obtain rfl : b = c := by simpa [hmin] using h
    obtain ⟨hb, hle⟩ := List.min?_eq_some_iff.1 hmin
    exact ⟨by simpa using (List.mem_filter.1 hb).2, hle d hmem⟩

/-- Where none lies after the last one, the floor wraps to the first of all. -/
theorem floorContext_least_of_wrap (hwrap : ∀ d ∈ cs, d ≤ last) {d : Nat} (hd : d ∈ cs) : c ≤ d := by
  have hnil : (cs.filter fun c => last < c) = [] := List.filter_eq_nil_iff.2 fun d hd => by simpa using hwrap d hd
  have hmin : cs.min? = some c := by simpa [floorContext_eq, hnil] using h
  exact (List.min?_eq_some_iff.1 hmin).2 d hd

end

/-! ### The pick -/

/-- A pick is the first entry of the floor's context, once in `F` selections, or the best by deadline. -/
theorem Work.pickOf_cases {w : Work} {e F : Nat} {xs : List Entry} {x : Entry} {floor : Bool} (h : w.pickOf e F xs = some (x, floor)) :
    (floor = true ∧ (FMap.get 0 w.sel e + 1) % F = 0 ∧
      floorContext (FMap.get 4095 w.lastFloor e) (xs.map fun y => y.cmd.ctx.toNat) = some x.cmd.ctx.toNat ∧
      xs.find? (fun y => decide (y.cmd.ctx = x.cmd.ctx)) = some x) ∨
    (floor = false ∧ (FMap.get 0 w.sel e + 1) % F ≠ 0 ∧ w.best xs = some x) := by
  unfold Work.pickOf at h
  split at h
  · next hF =>
    split at h
    · next c hc =>
      obtain ⟨y, hfind, hy⟩ := Option.map_eq_some_iff.1 h
      cases hy
      obtain rfl : x.cmd.ctx.toNat = c := by simpa using List.find?_some hfind
      exact .inl ⟨rfl, hF, hc, by simpa only [BitVec.toNat_inj] using hfind⟩
    · cases h
  · next hF =>
    obtain ⟨y, hbest, hy⟩ := Option.map_eq_some_iff.1 h
    cases hy
    exact .inr ⟨rfl, hF, hbest⟩

end Sys2Proof.Machine
end

section
/-! SUPPORT. What a trace event and the start of a selected command leave of the tiles, the messages and the memory. -/

namespace Sys2Proof.Machine

open Sys2Proof

variable (s : State)

/-! ### Work of a tile -/

@[simp] theorem State.tile_onWork_same (t : Nat) (f : Work → Work) :
    (s.onWork t f).tile t = { s.tile t with work := f (s.tile t).work } := s.tile_onTile_same t _

theorem State.tile_onWork_other (t u : Nat) (f : Work → Work) (h : u ≠ t) : (s.onWork t f).tile u = s.tile u :=
  s.tile_onTile_other t u _ h

@[simp] theorem State.tile_onUpkeep_same (t : Nat) (f : Upkeep → Upkeep) :
    (s.onUpkeep t f).tile t = { s.tile t with upkeep := f (s.tile t).upkeep } := s.tile_onTile_same t _

theorem State.tile_onUpkeep_other (t u : Nat) (f : Upkeep → Upkeep) (h : u ≠ t) : (s.onUpkeep t f).tile u = s.tile u :=
  s.tile_onTile_other t u _ h

@[simp] theorem State.work_onUpkeep (t u : Nat) (f : Upkeep → Upkeep) : ((s.onUpkeep t f).tile u).work = (s.tile u).work := by
  by_cases h : u = t
  · rw [h, s.tile_onUpkeep_same t f]
  · rw [s.tile_onUpkeep_other t u f h]

/-! ### Trace events (R512 to R515) -/

/-- From `s` to `s'` nothing of what a command works on changes: no tile's work, nothing of a tile but `t`, no message, no memory. -/
structure State.LeavesWork (t : Nat) (s s' : State) : Prop where
  work : ∀ u, (s'.tile u).work = (s.tile u).work
  others : ∀ u, u ≠ t → s'.tile u = s.tile u
  mail : s'.mail = s.mail
  mem : s'.mem = s.mem

variable {s}

theorem State.LeavesWork.trans {t : Nat} {s1 s2 : State} (h : s.LeavesWork t s1) (k : s1.LeavesWork t s2) : s.LeavesWork t s2 :=
  ⟨fun u => (k.work u).trans (h.work u), fun u hu => (k.others u hu).trans (h.others u hu), k.mail.trans h.mail, k.mem.trans h.mem⟩

theorem State.LeavesWork.of_tiles {t : Nat} {s' : State} (htiles : s'.tiles = s.tiles) (hmail : s'.mail = s.mail)
    (hmem : s'.mem = s.mem) : s.LeavesWork t s' :=
  have htile : ∀ u, s'.tile u = s.tile u := fun u => by rw [State.tile, State.tile, htiles]
  ⟨fun u => congrArg _ (htile u), fun u _ => htile u, hmail, hmem⟩

variable (s)

theorem State.tcount_leavesWork (t u o n : Nat) : s.LeavesWork t (s.tcount u o n) :=
  .of_tiles (s.tcount_tiles u o n) (s.tcount_mail u o n) (s.tcount_mem u o n)

theorem State.onUpkeep_leavesWork (t : Nat) (f : Upkeep → Upkeep) : s.LeavesWork t (s.onUpkeep t f) :=
  ⟨fun u => s.work_onUpkeep t u f, fun u hu => s.tile_onUpkeep_other t u f hu, rfl, rfl⟩

theorem State.buffer_leavesWork (t : Nat) (p : List Word) : s.LeavesWork t (s.buffer t p) := by
  simp only [State.buffer]
  split
  · exact .of_tiles (s.count_tiles _ _) (s.count_mail _ _) (s.count_mem _ _)
  · have hupkeep := s.onUpkeep_leavesWork t fun u => { u with trace := u.trace ++ s.lossPacket t ++ [p] }
    exact hupkeep.trans (.of_tiles rfl rfl rfl)

theorem State.emit_leavesWork (t : Nat) (e : Event) (he : e.tile = some t) : s.LeavesWork t (s.emit e) := by
  simp only [State.emit, he]
  split
  · exact .of_tiles rfl rfl rfl
  · exact s.buffer_leavesWork t _

/-! ### The start of a command -/

/-- The work of a tile whose engine `e` has started `x`, which its selection checks gave a status. -/
def Work.started (w : Work) (e : Nat) (x : Entry) (floor : Bool) (st : Status) (now : Word) : Work :=
  { w with
    queues := FMap.put [] w.queues e ((w.queue e).filter fun y => y.ord != x.ord)
    running := w.running ++ [⟨x.cmd, e, x.ord, st != 0, st, [], [], none, (0, 0), false, now, .none, 0, 0⟩]
    sel := FMap.put 0 w.sel e (FMap.get 0 w.sel e + 1)
    lastFloor := if floor then FMap.put 4095 w.lastFloor e x.cmd.ctx.toNat else w.lastFloor }

/-- Besides the work of its tile, starting a command counts a floor selection and emits a trace event. -/
theorem State.select_leavesWork (t e : Nat) (x : Entry) (floor : Bool) :
    (s.onWork t fun w => w.started e x floor (s.selectStatus t x.cmd) s.chron).LeavesWork t (s.select t e x floor) := by
  cases floor with
  | false => exact State.emit_leavesWork _ t _ rfl
  | true => exact (State.tcount_leavesWork _ t t 0x7C0 1).trans (State.emit_leavesWork _ t _ rfl)

theorem State.work_select (t e : Nat) (x : Entry) (floor : Bool) :
    ((s.select t e x floor).tile t).work = (s.tile t).work.started e x floor (s.selectStatus t x.cmd) s.chron := by
  rw [(s.select_leavesWork t e x floor).work, s.tile_onWork_same]

theorem State.tile_select_other (t e u : Nat) (x : Entry) (floor : Bool) (h : u ≠ t) :
    (s.select t e x floor).tile u = s.tile u := by
  rw [(s.select_leavesWork t e x floor).others u h, s.tile_onWork_other t u _ h]

variable {s}

/-- An engine that is free, on a running tile that the trace does not hold back, starts what it picks. -/
theorem exec_engineSelect_of_pick {t : Tile} {e : EngineNo} {x : Entry} {floor : Bool} (hmoving : s.moving = true)
    (hon : (s.treg t 0x008).getLsbD 0 = false) (hfree : (s.tile t).engineFree e = true)
    (hpick : (s.tile t).work.pickOf e (bits (s.treg t 0x728) 0 7) (((s.tile t).work.queue e).filter (s.eligible t e)) = some (x, floor))
    (htrace : s.traceStalls t = false) : exec (.engineSelect t e) s = .next (s.select t e x floor) := by
  have harm : exec (.engineSelect t e) s = execEngineSelect t e s := rfl
  simp only [harm, execEngineSelect, tst, hmoving, hon, hfree, hpick, htrace]
  rfl

end Sys2Proof.Machine
end

section
/-! The selection of an engine. -/

namespace Sys2Proof.Machine

open Sys2Proof

/-- Settles O21: an ordinary pick is the least of a lexicographic order, a floor pick the first entry of the next context, and what a
selection changes is the work of its tile and what it traces and counts. -/
theorem enginesSelectByDeadline : Obligations.EnginesSelectByDeadline := by
  refine ⟨fun w e F xs x floor hpick => ?_, fun s t e x floor => ?_⟩
  · rcases Work.pickOf_cases hpick with ⟨rfl, hF, hctx, hfind⟩ | ⟨rfl, hF, hbest⟩
    · have hmem : ∀ y ∈ xs, y.cmd.ctx.toNat ∈ xs.map fun z => z.cmd.ctx.toNat := fun y hy => List.mem_map_of_mem hy
      refine ⟨List.mem_of_find?_eq_some hfind, by simp [hF], nofun, fun _ => hfind, fun _ last hlast => ?_⟩
      rw [show FMap.get 4095 w.lastFloor e = last by simp [FMap.get, hlast]] at hctx
      exact ⟨fun y hy => floorContext_least_above hctx (hmem y hy),
        fun hwrap y hy => floorContext_least_of_wrap hctx (by simpa using hwrap) (hmem y hy)⟩
    · rw [w.best_eq_argmin] at hbest
      exact ⟨List.argmin_mem hbest, by simp [hF],
        fun _ y hy => (w.rank_le_iff x y).1 (List.le_of_mem_argmin hy hbest), nofun, nofun⟩
  · intro w hmoving hon hfree hpick htrace
    have hleaves := s.select_leavesWork t e x floor
    exact ⟨_, _, exec_engineSelect_of_pick hmoving hon hfree hpick htrace, rfl, s.work_select t e x floor,
      hleaves.mail, hleaves.mem, fun u hu => s.tile_select_other t e u x floor hu⟩

end Sys2Proof.Machine
end
